-- ==== Sys2Proof/Word.lean ====
section
/-!
DEFINITION. Sys2Proof/Word.lean: the machine's word types and the plainest operations on them, and the keyed
tables that State is made of.
-/

namespace Sys2Proof

/-- A scalar register, a state register or an address (R274, R64). -/
abbrev Word := BitVec 64

/-- One byte of memory; multi-byte values are little-endian (R2). -/
abbrev Byte := BitVec 8

/-- A finite table of values by number. A number that is not listed has the value the reader names. -/
abbrev Tbl (α : Type) := List (Nat × α)

/-- The value at `n`: the first entry listed, or `d` where none is. -/
def Tbl.get {α : Type} (d : α) : Tbl α → Nat → α
  | [], _ => d
  | (k, v) :: t, n => if n = k then v else Tbl.get d t n

/-- The entry at `n`, if one is listed. -/
def Tbl.look? {α : Type} : Tbl α → Nat → Option α
  | [], _ => none
  | (k, v) :: t, n => if n = k then some v else Tbl.look? t n

/-- Put `v` at `n`, at its place by number. -/
def Tbl.insert {α : Type} : Tbl α → Nat → α → Tbl α
  | [], n, v => [(n, v)]
  | (k, w) :: t, n, v =>
    if n < k then (n, v) :: (k, w) :: t
    else if n = k then (n, v) :: t
    else (k, w) :: Tbl.insert t n v

/-- Take the entry at `n` out. -/
def Tbl.erase {α : Type} (t : Tbl α) (n : Nat) : Tbl α :=
  t.filter fun p => p.1 != n

/-- The table with every value changed by `f`. -/
def Tbl.mapVal {α β : Type} (f : Nat → α → β) (t : Tbl α) : Tbl β :=
  t.map fun p => (p.1, f p.1 p.2)

/-- The numbers listed. -/
def Tbl.keys {α : Type} (t : Tbl α) : List Nat := t.map (·.1)

end Sys2Proof
end

