-- ==== Sys2Proof/Syntax.lean ====
section
/-!
DEFINITION. Sys2Proof/Syntax.lean: the instructions and steps of the Z4, one constructor per row of
spec/opcode_table.json. 166 rows are encoded instruction words: their arguments are the fields of the word, at the
width the encoding gives them, in the table's order (words without a field stand at the end). The other rows are the
part's operations and events (spec/95_what_each_step_holds.md): their arguments say which agent takes the step and,
where the outside world takes it, the data it brings. Events that the part itself takes stand before those that only
come from outside.
-/

namespace Sys2Proof

/-- The floe of a kind-6 message and the chip that sends it (R216). -/
structure FloeFrom where
  floe : Nat
  chip : Nat
deriving DecidableEq, Repr

/-- The epoch and the action code of a kind-6 message (R216). -/
structure FloePhase where
  epoch  : Nat
  action : Nat
deriving DecidableEq, Repr

/-- One instruction word, tile command, or event of the Z4 (spec/opcode_table.json, all rows). -/
inductive Instr where
  /-- ADD (R312): Adds two scalar registers modulo 2^64. -/
  | add (d : BitVec 5) (a : BitVec 5) (b : BitVec 5)
  /-- SUB (R408): Subtracts one scalar register from another modulo 2^64. -/
  | sub (d : BitVec 5) (a : BitVec 5) (b : BitVec 5)
  /-- MUL (R381): Writes the low 64 bits of the product. -/
  | mul (d : BitVec 5) (a : BitVec 5) (b : BitVec 5)
  /-- MULH (R381): Writes the high 64 bits of the signed product. -/
  | mulh (d : BitVec 5) (a : BitVec 5) (b : BitVec 5)
  /-- MULHU (R381): Writes the high 64 bits of the unsigned product. -/
  | mulhu (d : BitVec 5) (a : BitVec 5) (b : BitVec 5)
  /-- DIV (R339): Signed division rounded toward zero, with fixed results for zero divisors and overflow. -/
  | div (d : BitVec 5) (a : BitVec 5) (b : BitVec 5)
  /-- DIVU (R339): Unsigned division rounded toward zero. -/
  | divu (d : BitVec 5) (a : BitVec 5) (b : BitVec 5)
  /-- REM (R390): Signed remainder that agrees with DIV. -/
  | rem (d : BitVec 5) (a : BitVec 5) (b : BitVec 5)
  /-- REMU (R390): Unsigned remainder that agrees with DIVU. -/
  | remu (d : BitVec 5) (a : BitVec 5) (b : BitVec 5)
  /-- AND (R312): Bitwise AND of two scalar registers. -/
  | and (d : BitVec 5) (a : BitVec 5) (b : BitVec 5)
  /-- OR (R382): Bitwise OR of two scalar registers. -/
  | or (d : BitVec 5) (a : BitVec 5) (b : BitVec 5)
  /-- XOR (R443): Bitwise XOR of two scalar registers. -/
  | xor (d : BitVec 5) (a : BitVec 5) (b : BitVec 5)
  /-- SHL (R398): Shifts left by S[B][5:0]. -/
  | shl (d : BitVec 5) (a : BitVec 5) (b : BitVec 5)
  /-- SHR (R398): Shifts right logically by S[B][5:0]. -/
  | shr (d : BitVec 5) (a : BitVec 5) (b : BitVec 5)
  /-- SRA (R398): Shifts right arithmetically by S[B][5:0]. -/
  | sra (d : BitVec 5) (a : BitVec 5) (b : BitVec 5)
  /-- SLT (R399): Writes 1 if S[A] < S[B] as signed integers, and 0 otherwise. -/
  | slt (d : BitVec 5) (a : BitVec 5) (b : BitVec 5)
  /-- SLTU (R399): Writes 1 if S[A] < S[B] as unsigned integers, and 0 otherwise. -/
  | sltu (d : BitVec 5) (a : BitVec 5) (b : BitVec 5)
  /-- MIN (R370): Writes the signed minimum. -/
  | min (d : BitVec 5) (a : BitVec 5) (b : BitVec 5)
  /-- MAX (R370): Writes the signed maximum. -/
  | max (d : BitVec 5) (a : BitVec 5) (b : BitVec 5)
  /-- MINU (R370): Writes the unsigned minimum. -/
  | minu (d : BitVec 5) (a : BitVec 5) (b : BitVec 5)
  /-- MAXU (R370): Writes the unsigned maximum. -/
  | maxu (d : BitVec 5) (a : BitVec 5) (b : BitVec 5)
  /-- CLZ (R332): Counts the leading zero bits of S[A]. -/
  | clz (d : BitVec 5) (a : BitVec 5)
  /-- POPC (R384): Counts the set bits of S[A]. -/
  | popc (d : BitVec 5) (a : BitVec 5)
  /-- SEL (R393): Selects S[A] or S[B] according to whether S[C] is nonzero. -/
  | sel (d : BitVec 5) (a : BitVec 5) (b : BitVec 5) (c : BitVec 5)
  /-- BFX (R322): Extracts a bit field and zero-extends it. -/
  | bfx (d : BitVec 5) (a : BitVec 5) (w : BitVec 6) (p : BitVec 6)
  /-- BFI (R322): Inserts the low bits of S[A] into a field of S[D]. -/
  | bfi (d : BitVec 5) (a : BitVec 5) (w : BitVec 6) (p : BitVec 6)
  /-- ADDI (R312): Adds a sign-extended immediate. -/
  | addi (d : BitVec 5) (a : BitVec 5) (i : BitVec 14)
  /-- ANDI (R312): ANDs with a sign-extended immediate. -/
  | andi (d : BitVec 5) (a : BitVec 5) (i : BitVec 14)
  /-- ORI (R382): ORs with a sign-extended immediate. -/
  | ori (d : BitVec 5) (a : BitVec 5) (i : BitVec 14)
  /-- XORI (R443): XORs with a sign-extended immediate. -/
  | xori (d : BitVec 5) (a : BitVec 5) (i : BitVec 14)
  /-- SHLI (R398): Shifts left by an immediate amount. -/
  | shli (d : BitVec 5) (a : BitVec 5) (s : BitVec 6)
  /-- SHRI (R398): Shifts right logically by an immediate amount. -/
  | shri (d : BitVec 5) (a : BitVec 5) (s : BitVec 6)
  /-- SRAI (R398): Shifts right arithmetically by an immediate amount. -/
  | srai (d : BitVec 5) (a : BitVec 5) (s : BitVec 6)
  /-- SLTI (R399): Signed compare with an immediate. -/
  | slti (d : BitVec 5) (a : BitVec 5) (i : BitVec 14)
  /-- SLTIU (R399): Unsigned compare with a sign-extended immediate. -/
  | sltiu (d : BitVec 5) (a : BitVec 5) (i : BitVec 14)
  /-- LIH (R369): Loads a sign-extended 19-bit immediate shifted left by 14. -/
  | lih (d : BitVec 5) (i : BitVec 19)
  /-- GADR (R348): Converts an alias address to the global address of the executing core. -/
  | gadr (d : BitVec 5) (a : BitVec 5) (i : BitVec 14)
  /-- LADR (R365): Converts a global address of the own scratchpad back to an alias address. -/
  | ladr (d : BitVec 5) (a : BitVec 5) (i : BitVec 14)
  /-- BEQ (R321): Branches when the operands are equal. -/
  | beq (a : BitVec 5) (b : BitVec 5) (i : BitVec 14)
  /-- BNE (R321): Branches when the operands differ. -/
  | bne (a : BitVec 5) (b : BitVec 5) (i : BitVec 14)
  /-- BLT (R321): Branches on signed less than. -/
  | blt (a : BitVec 5) (b : BitVec 5) (i : BitVec 14)
  /-- BGE (R321): Branches on signed greater or equal. -/
  | bge (a : BitVec 5) (b : BitVec 5) (i : BitVec 14)
  /-- BLTU (R321): Branches on unsigned less than. -/
  | bltu (a : BitVec 5) (b : BitVec 5) (i : BitVec 14)
  /-- BGEU (R321): Branches on unsigned greater or equal. -/
  | bgeu (a : BitVec 5) (b : BitVec 5) (i : BitVec 14)
  /-- JAL (R359): Jumps by a word displacement and writes the link. -/
  | jal (d : BitVec 5) (i : BitVec 19)
  /-- JALR (R359): Jumps to a register plus an offset and writes the link, trapping on a misaligned target. -/
  | jalr (d : BitVec 5) (a : BitVec 5) (i : BitVec 14)
  /-- WFE (R442): Registers at the owner and sleeps until a write lands on a word that holds the compared value. -/
  | wfe (d : BitVec 5) (a : BitVec 5) (b : BitVec 5)
  /-- LDB (R368): Loads a sign-extended byte. -/
  | ldb (d : BitVec 5) (a : BitVec 5) (i : BitVec 14)
  /-- LDBU (R368): Loads a zero-extended byte. -/
  | ldbu (d : BitVec 5) (a : BitVec 5) (i : BitVec 14)
  /-- LDH (R368): Loads a sign-extended halfword. -/
  | ldh (d : BitVec 5) (a : BitVec 5) (i : BitVec 14)
  /-- LDHU (R368): Loads a zero-extended halfword. -/
  | ldhu (d : BitVec 5) (a : BitVec 5) (i : BitVec 14)
  /-- LDW (R368): Loads a sign-extended word, migrating for a class 0x1 address outside the cluster. -/
  | ldw (d : BitVec 5) (a : BitVec 5) (i : BitVec 14)
  /-- LDWU (R368): Loads a zero-extended word. -/
  | ldwu (d : BitVec 5) (a : BitVec 5) (i : BitVec 14)
  /-- LDD (R368): Loads a doubleword. -/
  | ldd (d : BitVec 5) (a : BitVec 5) (i : BitVec 14)
  /-- LDACQ (R366): Acquire load that invalidates the remote read cache before reading. -/
  | ldacq (d : BitVec 5) (a : BitVec 5) (s : BitVec 2) (c : BitVec 3)
  /-- STB (R406): Posts a byte store. -/
  | stb (a : BitVec 5) (b : BitVec 5) (i : BitVec 14)
  /-- STH (R406): Posts a halfword store. -/
  | sth (a : BitVec 5) (b : BitVec 5) (i : BitVec 14)
  /-- STW (R406): Posts a word store. -/
  | stw (a : BitVec 5) (b : BitVec 5) (i : BitVec 14)
  /-- STD (R406): Posts a doubleword store. -/
  | std (a : BitVec 5) (b : BitVec 5) (i : BitVec 14)
  /-- STREL (R407): Waits as a release, then posts the release write. -/
  | strel (a : BitVec 5) (b : BitVec 5) (s : BitVec 2) (c : BitVec 3)
  /-- FENCE (R343): Full fence at a scope; at .sy it reports lost peers. -/
  | fence (d : BitVec 5) (c : BitVec 3)
  /-- FENCE_REL (R343): Release fence for the stores that follow it. -/
  | fenceRel (d : BitVec 5) (c : BitVec 3)
  /-- FENCE_ACQ (R343): Acquire fence that invalidates the remote read cache. -/
  | fenceAcq (d : BitVec 5) (c : BitVec 3)
  /-- ATOM (R314): Performs an atomic read-modify-write at the owner and returns the old value. -/
  | atom (d : BitVec 5) (a : BitVec 5) (b : BitVec 5) (o : BitVec 4) (s : BitVec 2) (c : BitVec 3)
  /-- ATOM_CAP (R314): Capability form of ATOM at base + 0 of the capability's peer. -/
  | atomCap (d : BitVec 5) (a : BitVec 5) (b : BitVec 5) (o : BitVec 4) (s : BitVec 2)
  /-- CAS (R326): Compare-and-swap at the owner, writing the old value and a status. -/
  | cas (d : BitVec 5) (a : BitVec 5) (b : BitVec 5) (s : BitVec 2) (c : BitVec 3)
  /-- CAS_CAP (R326): Capability form of CAS. -/
  | casCap (d : BitVec 5) (a : BitVec 5) (b : BitVec 5) (s : BitVec 2)
  /-- RINGENQ (R392): Enqueues a word on a scratchpad ring at the owner's atomic port. -/
  | ringenq (d : BitVec 5) (a : BitVec 5) (b : BitVec 5)
  /-- RINGDEQ (R392): Dequeues a word from a scratchpad ring. -/
  | ringdeq (d : BitVec 5) (a : BitVec 5)
  /-- CLD (R328): Loads a capability granule with its tag; sets the tag at supervisor level. -/
  | cld (d : BitVec 5) (a : BitVec 5) (i : BitVec 14)
  /-- CST (R328): Posts a store of a capability register with its tag. -/
  | cst (a : BitVec 5) (b : BitVec 5) (i : BitVec 14)
  /-- CBND (R329): Narrows the bounds of a capability. -/
  | cbnd (d : BitVec 5) (a : BitVec 5) (b : BitVec 5)
  /-- CPERM (R329): Masks the permissions of a capability. -/
  | cperm (d : BitVec 5) (a : BitVec 5) (b : BitVec 5)
  /-- BARINIT (R318): Configures a barrier and opens a new phase, waking sleeping waiters. -/
  | barinit (a : BitVec 5) (b : BitVec 5)
  /-- BARARR (R319): Makes a releasing arrival on a barrier. -/
  | bararr (d : BitVec 5) (a : BitVec 5)
  /-- BARDROP (R319): Lowers a barrier's expected count and completes the phase if it is due. -/
  | bardrop (d : BitVec 5) (a : BitVec 5)
  /-- BARJOIN (R319): Raises a barrier's expected count. -/
  | barjoin (d : BitVec 5) (a : BitVec 5)
  /-- BARWAIT (R320): Waits for a barrier's phase to move past a given value. -/
  | barwait (d : BitVec 5) (a : BitVec 5) (b : BitVec 5)
  /-- GBAR_GROUP (R351): Makes an arrival at a group barrier in the group directory. -/
  | gbarGroup (d : BitVec 5) (a : BitVec 5)
  /-- GJOIN (R355): Adds the thread to a group. -/
  | gjoin (d : BitVec 5) (a : BitVec 5)
  /-- GLEAVE (R355): Removes the thread from a group. -/
  | gleave (d : BitVec 5) (a : BitVec 5)
  /-- GKILL (R356): Kills every other member of a group and returns the number killed. -/
  | gkill (d : BitVec 5) (a : BitVec 5)
  /-- SEND (R395): Sends a handler message as a release. -/
  | send (a : BitVec 5) (b : BitVec 5) (n : BitVec 5)
  /-- SENDI (R396): Sends an inline or chain flake built from alias memory. -/
  | sendi (a : BitVec 5) (b : BitVec 5)
  /-- FWD (R347): Ends the service flake and forwards a chain hop. -/
  | fwd (a : BitVec 5) (b : BitVec 5) (k : BitVec 4) (n : BitVec 5)
  /-- SPAWN (R402): Raises a join counter and sends a spawn message for a child thread. -/
  | spawn (d : BitVec 5) (a : BitVec 5) (b : BitVec 5) (n : BitVec 5)
  /-- JCWAIT (R360): Sleeps until a join counter reaches zero, then returns its failures as an acquire. -/
  | jcwait (d : BitVec 5) (a : BitVec 5)
  /-- MIGRATE (R372): Moves the thread to a named core or cluster, or completes in place. -/
  | migrate (d : BitVec 5) (a : BitVec 5) (e : BitVec 1)
  /-- QRD (R385): Takes the head word of a queue register, sleeping while it is empty. -/
  | qrd (d : BitVec 5) (a : BitVec 5)
  /-- QWR (R385): Appends a word to a queue register, sleeping while it is full. -/
  | qwr (d : BitVec 5) (a : BitVec 5)
  /-- QLEN (R385): Reads the number of words in a queue register. -/
  | qlen (d : BitVec 5) (a : BitVec 5)
  /-- CLDD (R330): Capability load of 8 bytes, migrating across the fabric for a remote peer. -/
  | cldd (d : BitVec 5) (a : BitVec 5) (i : BitVec 14)
  /-- CSTD (R330): Capability store of 8 bytes, posted across the fabric for a remote peer. -/
  | cstd (a : BitVec 5) (b : BitVec 5) (i : BitVec 14)
  /-- SRRD (R403): Reads a state register, popping an RC field such as SFRQ. -/
  | srrd (d : BitVec 5) (n : BitVec 14)
  /-- SRWR (R404): Writes a state register with its side effects (FIT mirror, FLURCNT reset, VL clamp, GLREF bank). -/
  | srwr (a : BitVec 5) (n : BitVec 14)
  /-- SRSET (R403): Sets the named RW bits of a state register. -/
  | srset (a : BitVec 5) (n : BitVec 14)
  /-- SRCLR (R403): Clears the named RW and W1C bits of a state register. -/
  | srclr (a : BitVec 5) (n : BitVec 14)
  /-- SVC (R409): Traps SVC precisely. -/
  | svc (i : BitVec 14)
  /-- BKPT (R323): Traps BKPT precisely. -/
  | bkpt (i : BitVec 14)
  /-- TLBGEN (R115): Raises an ASID's generation package-wide and purges its instruction cache lines. -/
  | tlbgen (d : BitVec 5) (a : BitVec 5)
  /-- CTXSAVE (R335): Requests pre-emption of a launch into an image set and waits for the outcome. -/
  | ctxsave (d : BitVec 5) (a : BitVec 5) (b : BitVec 5)
  /-- CTXLOAD (R336): Submits a resume launch block to the launch controller and returns its status. -/
  | ctxload (d : BitVec 5) (a : BitVec 5)
  /-- TIMERD_TIME (R411): Reads device time and its fraction. -/
  | timerdTime (d : BitVec 5)
  /-- TIMERD_STATUS (R410): Reads the time status word. -/
  | timerdStatus (d : BitVec 5)
  /-- CLKREQ (R331): Replaces the launch's clock request and triggers an evaluation. -/
  | clkreq (a : BitVec 5)
  /-- PMRD (R383): Reads a performance counter slot value and its enabled time. -/
  | pmrd (d : BitVec 5) (n : BitVec 14)
  /-- RAND (R387): Returns the next Flurry word and advances FLURCNT. -/
  | rand (d : BitVec 5)
  /-- CLKWAIT (R331): Sleeps until CLKGEN exceeds the operand. -/
  | clkwait (d : BitVec 5) (a : BitVec 5)
  /-- VCLAIM (R423): Sets the lane request, renegotiates the grant and sets vl. -/
  | vclaim (d : BitVec 4) (a : BitVec 4)
  /-- VSYNC (R423): Renegotiates the lane grant without sleeping. -/
  | vsync (d : BitVec 4)
  /-- VSETVL (R423): Sets vl to the minimum of the operand and the grant. -/
  | vsetvl (d : BitVec 4) (a : BitVec 4)
  /-- VLD (R429): Loads contiguous vector elements. -/
  | vld (v : BitVec 5) (a : BitVec 5) (m : BitVec 3) (t : BitVec 3) (x : BitVec 3)
  /-- VLDS (R429): Loads strided vector elements. -/
  | vlds (v : BitVec 5) (a : BitVec 5) (b : BitVec 5) (m : BitVec 3) (t : BitVec 3) (x : BitVec 3)
  /-- VLDT (R433): Loads a tile of eight columns transposed into eight registers. -/
  | vldt (v : BitVec 1) (a : BitVec 5) (b : BitVec 5) (m : BitVec 3) (t : BitVec 3) (x : BitVec 3)
  /-- VGATH (R429): Gathers vector elements through an index vector. -/
  | vgath (v : BitVec 5) (a : BitVec 5) (b : BitVec 4) (m : BitVec 3) (t : BitVec 3) (x : BitVec 3)
  /-- VST (R429): Stores contiguous vector elements. -/
  | vst (v : BitVec 5) (a : BitVec 5) (m : BitVec 3) (t : BitVec 3) (x : BitVec 3)
  /-- VSTS (R429): Stores strided vector elements. -/
  | vsts (v : BitVec 5) (a : BitVec 5) (b : BitVec 5) (m : BitVec 3) (t : BitVec 3) (x : BitVec 3)
  /-- VSCAT (R429): Scatters vector elements through an index vector. -/
  | vscat (v : BitVec 5) (a : BitVec 5) (b : BitVec 4) (m : BitVec 3) (t : BitVec 3) (x : BitVec 3)
  /-- VADD (R418): Element-wise addition. -/
  | vadd (v : BitVec 5) (a : BitVec 5) (b : BitVec 5) (m : BitVec 3) (t : BitVec 3)
  /-- VSUB (R418): Element-wise subtraction. -/
  | vsub (v : BitVec 5) (a : BitVec 5) (b : BitVec 5) (m : BitVec 3) (t : BitVec 3)
  /-- VMUL (R418): Element-wise multiplication. -/
  | vmul (v : BitVec 5) (a : BitVec 5) (b : BitVec 5) (m : BitVec 3) (t : BitVec 3)
  /-- VFMA (R427): Fused multiply-add into vD with one rounding. -/
  | vfma (v : BitVec 5) (a : BitVec 5) (b : BitVec 5) (m : BitVec 3) (t : BitVec 3)
  /-- VMAX (R419): Element-wise maximum. -/
  | vmax (v : BitVec 5) (a : BitVec 5) (b : BitVec 5) (m : BitVec 3) (t : BitVec 3)
  /-- VMIN (R419): Element-wise minimum. -/
  | vmin (v : BitVec 5) (a : BitVec 5) (b : BitVec 5) (m : BitVec 3) (t : BitVec 3)
  /-- VABS (R419): Element-wise absolute value. -/
  | vabs (v : BitVec 5) (a : BitVec 5) (m : BitVec 3) (t : BitVec 3)
  /-- VNEG (R419): Element-wise negation. -/
  | vneg (v : BitVec 5) (a : BitVec 5) (m : BitVec 3) (t : BitVec 3)
  /-- VCVT (R425): Converts elements between a type and a format, with optional scaling and rounding override. -/
  | vcvt (v : BitVec 5) (a : BitVec 5) (b : BitVec 5) (m : BitVec 3) (t : BitVec 3) (x : BitVec 3)
  /-- VCMP (R424): Compares elements into a destination mask. -/
  | vcmp (d : BitVec 3) (a : BitVec 5) (b : BitVec 5) (m : BitVec 3) (t : BitVec 3) (x : BitVec 3)
  /-- VSELM (R436): Selects raw lanes from two vectors by a mask. -/
  | vselm (v : BitVec 5) (a : BitVec 5) (b : BitVec 5) (m : BitVec 3)
  /-- VREDSUM (R435): Sums the active elements by a fixed binary tree. -/
  | vredsum (v : BitVec 5) (a : BitVec 5) (m : BitVec 3) (t : BitVec 3)
  /-- VREDMAX (R434): Reduces the active elements to their maximum. -/
  | vredmax (v : BitVec 5) (a : BitVec 5) (m : BitVec 3) (t : BitVec 3)
  /-- VEXP2 (R426): Element-wise 2^x. -/
  | vexp2 (v : BitVec 5) (a : BitVec 5) (m : BitVec 3) (t : BitVec 3)
  /-- VLOG2 (R426): Element-wise log2 x. -/
  | vlog2 (v : BitVec 5) (a : BitVec 5) (m : BitVec 3) (t : BitVec 3)
  /-- VRCP (R426): Element-wise reciprocal. -/
  | vrcp (v : BitVec 5) (a : BitVec 5) (m : BitVec 3) (t : BitVec 3)
  /-- VRSQ (R426): Element-wise reciprocal square root. -/
  | vrsq (v : BitVec 5) (a : BitVec 5) (m : BitVec 3) (t : BitVec 3)
  /-- VTANH (R426): Element-wise hyperbolic tangent. -/
  | vtanh (v : BitVec 5) (a : BitVec 5) (m : BitVec 3) (t : BitVec 3)
  /-- VBCAST (R421): Broadcasts one lane to every active element. -/
  | vbcast (v : BitVec 4) (a : BitVec 5) (b : BitVec 4) (m : BitVec 3)
  /-- VEXT (R421): Extracts one lane to a scalar register. -/
  | vext (d : BitVec 4) (a : BitVec 4) (b : BitVec 4)
  /-- VINS (R421): Inserts a scalar into one lane. -/
  | vins (v : BitVec 4) (a : BitVec 4) (b : BitVec 4)
  /-- VPERM (R421): Permutes lanes by an index vector. -/
  | vperm (v : BitVec 4) (a : BitVec 4) (b : BitVec 4) (m : BitVec 3)
  /-- VXALL (R165): Exchanges elements all-to-all among the cores of CELLMASK through the wired barrier. -/
  | vxall (v : BitVec 4) (a : BitVec 4)
  /-- VAND (R420): Element-wise AND of integers. -/
  | vand (v : BitVec 5) (a : BitVec 5) (b : BitVec 5) (m : BitVec 3) (t : BitVec 3)
  /-- VOR (R420): Element-wise OR of integers. -/
  | vor (v : BitVec 5) (a : BitVec 5) (b : BitVec 5) (m : BitVec 3) (t : BitVec 3)
  /-- VXOR (R420): Element-wise XOR of integers. -/
  | vxor (v : BitVec 5) (a : BitVec 5) (b : BitVec 5) (m : BitVec 3) (t : BitVec 3)
  /-- VSHL (R420): Element-wise left shift. -/
  | vshl (v : BitVec 5) (a : BitVec 5) (b : BitVec 5) (m : BitVec 3) (t : BitVec 3)
  /-- VSHR (R420): Element-wise logical or arithmetic right shift. -/
  | vshr (v : BitVec 5) (a : BitVec 5) (b : BitVec 5) (m : BitVec 3) (t : BitVec 3) (x : BitVec 1)
  /-- VIOTA (R431): Writes the count of active elements below each active element. -/
  | viota (v : BitVec 5) (m : BitVec 3) (t : BitVec 3)
  /-- MOPS (R377): Combines masks bit by bit under a function. -/
  | mops (d : BitVec 3) (a : BitVec 3) (b : BitVec 3) (x : BitVec 3)
  /-- MPOP (R378): Counts the set mask bits, or finds the first one. -/
  | mpop (d : BitVec 4) (a : BitVec 3) (m : BitVec 3) (x : BitVec 3)
  /-- VLDEXP (R432): Scales each element by 2^k. -/
  | vldexp (v : BitVec 5) (a : BitVec 5) (b : BitVec 5) (m : BitVec 3) (t : BitVec 3)
  /-- JOB (R362): Reads a tile command word and kicks a job, keeping a token in D. -/
  | job (d : BitVec 5) (a : BitVec 5) (n : BitVec 1)
  /-- JOBM (R362): Kicks a job with bits [199:136] of the command word replaced by S[B]. -/
  | jobm (d : BitVec 5) (a : BitVec 5) (b : BitVec 5) (n : BitVec 1)
  /-- JOBTEST (R364): Reads a token's state without sleeping or acquiring. -/
  | jobtest (d : BitVec 5) (a : BitVec 5)
  /-- GISSUE (R354): Makes a wired arrival that kicks a gang matrix job across CELLMASK. -/
  | gissue (d : BitVec 5) (a : BitVec 5)
  /-- TSWAP (R167): Exchanges a scratchpad region with the mirror core at a rendezvous. -/
  | tswap (a : BitVec 5) (b : BitVec 5)
  /-- ACCRD (R310): Reads four accumulator rows into a vector register. -/
  | accrd (v : BitVec 4) (n : BitVec 1) (q : BitVec 4) (m : BitVec 3)
  /-- ACCWR (R310): Writes four accumulator rows from a vector register. -/
  | accwr (n : BitVec 1) (a : BitVec 4) (q : BitVec 4) (m : BitVec 3)
  /-- IMX (R283): Extends the immediate of the following instruction. -/
  | imx (i : BitVec 24)
  /-- UNASSIGNED_OPCODE (R295): A word whose OP is unassigned traps ILLEGAL precisely. -/
  | unassignedOpcode (w : BitVec 32)
  /-- CUT_MARKER (R223): A kind-6 marker of the next epoch arrives on one class from another member. -/
  | cutMarker (floe : Nat) (epoch : Nat) (cls : Nat) (chip : Nat)
  /-- UNIFORM_REPORT (R208): A member's feasible tuple report reaches the coordinator. -/
  | uniformReport (floe : Nat) (epoch : Nat) (chip : Nat) (codes : BitVec 16)
  /-- UNIFORM_GRANT (R209): A uniform grant message reaches a member with its apply instant. -/
  | uniformGrant (message : FloeFrom) (epoch : Nat) (codes : BitVec 16) (instant : Nat)
  /-- FROZEN (R225): The coordinator's frozen message makes each member mark its image consistent. -/
  | frozen (message : FloeFrom) (epoch : Nat)
  /-- BROKEN (R219): A broken message moves a member's floe to BROKEN with images inconsistent. -/
  | broken (message : FloeFrom) (epoch : Nat) (member : Nat)
  /-- PREPARE (R229): A prepare message moves an unacted member to FALLBACK. -/
  | prepare (message : FloeFrom) (phase : FloePhase)
  /-- READY (R229): A member's ready reply reaches the coordinator, which commits once all have replied. -/
  | ready (floe : Nat) (phase : FloePhase) (chip : Nat) (acted : Bool)
  /-- COMMIT (R229): A commit message makes each unacted member perform the action in barrier mode. -/
  | commit (message : FloeFrom) (phase : FloePhase) (time : Nat)
  /-- ENDED (R219): A member's ended message reaches the coordinator, which sends done once all have ended. -/
  | ended (message : FloeFrom) (epoch : Nat) (time : Nat)
  /-- DONE (R219): A done message moves the member's floe to DONE. -/
  | done (message : FloeFrom × Nat)
  /-- CUT_COMPLETE_REPORT (R225): A member's cut complete message reaches the coordinator, which counts it against T_p + D and sends frozen once every member has reported. -/
  | cutCompleteReport (floe : Nat) (epoch : Nat) (chip : Nat) (time : Nat)
  /-- FALLBACK_VOTE_ARRIVAL (R229): A fallback vote reaches the coordinator, which sends prepare to every member on the first vote for an action. -/
  | fallbackVoteArrival (floe : Nat) (phase : FloePhase) (chip : Nat)
  /-- MMA (R376): Matrix job that multiplies rows of A by B from the weight buffer into an accumulator. -/
  | mma (job : Nat)
  /-- MMAT (R376): Matrix job like MMA that reads A stored transposed. -/
  | mmat (job : Nat)
  /-- ACCZ (R311): Matrix job that clears the named accumulator tiles. -/
  | accz (job : Nat)
  /-- ACCCVT (R307): Matrix job that converts accumulator elements to FMTC and writes them to memory. -/
  | acccvt (job : Nat)
  /-- ACCLD (R308): Matrix job that loads FP32 bits from memory into an accumulator. -/
  | accld (job : Nat)
  /-- WBFILL (R439): Matrix job that copies bytes into the weight buffer. -/
  | wbfill (job : Nat)
  /-- COPY (R333): Copy job that moves a contiguous byte range. -/
  | copy (job : Nat)
  /-- COPY2D (R334): Copy job that moves a rectangle of rows. -/
  | copy2d (job : Nat)
  /-- DEAL (R338): Copy job that deals blocks block-cyclically to scratchpads of the die. -/
  | deal (job : Nat)
  /-- GATHB (R349): Copy job that gathers blocks from listed addresses. -/
  | gathb (job : Nat)
  /-- REDW (R389): Copy job that adds FP32 or BF16 elements into a destination at its owner. -/
  | redw (job : Nat)
  /-- FILL (R344): Copy job that writes a repeating 64-bit pattern. -/
  | fill (job : Nat)
  /-- SELROUND (R394): Selection job that begins a round of a domain. -/
  | selround (job : Nat)
  /-- CALVE (R325): Selection job that calves one named local pair outside a round. -/
  | calve (job : Nat)
  /-- DRIFT (R342): Selection job that calves one named pair across two chips. -/
  | drift (job : Nat)
  /-- MORAINE_SET (R380): Selection job that installs a new moraine ring for a domain. -/
  | moraineSet (job : Nat)
  /-- MORAINE_FLUSH (R380): Selection job that completes once every owed moraine record is written. -/
  | moraineFlush (job : Nat)
  /-- UNASSIGNED_ENGINE_OPCODE (R303): An accepted job with an unassigned engine opcode fails with status 0x04 and delivers only its token. -/
  | unassignedEngineOpcode (job : Nat)
  /-- JOB_COMPLETION (R169): A job's hart ends: flags are ORed, tokens written and notices delivered as a release. -/
  | jobCompletion (job : Nat)
  /-- MATRIX_JOB_BEGIN (R152): An accepted matrix job begins once earlier jobs on its slices and the weight-buffer interlock allow it. -/
  | matrixJobBegin (job : Nat)
  /-- COPY_JOB_BEGIN (R80): The copy engine takes a port head and starts a job, up to eight at once. -/
  | copyJobBegin (job : Nat)
  /-- QUEUE_ENTRY_FREED (R154): A freed queue entry resumes a context stalled on a full job queue. -/
  | queueEntryFreed (ctx : Nat)
  /-- MAILBOX_ADVANCE (R52): Each V cycle the mailbox advances at most one queue head to the run queue, service context, atomic port or floe logic. -/
  | mailboxAdvance (core : Nat)
  /-- MESSAGE_ARRIVAL (R33): A message reaches its taking core and enters the mailbox queue of its priority, or waits in the mesh if it is full. -/
  | messageArrival (msg : Nat)
  /-- MESH_HOP (R31): A message advances one router by dimension order, and the taking core is decided on the route. -/
  | meshHop (msg : Nat)
  /-- HANDLER_FLAKE_START (R26): A kind-0 handler or spawn message taken by a user context starts a thread with its initial state. -/
  | handlerFlakeStart (ctx : Nat)
  /-- THREAD_MESSAGE_ARRIVAL (R34): A migrating thread arrives, takes a user context as an acquire and re-executes its load. -/
  | threadMessageArrival (ctx : Nat)
  /-- ATOMIC_FLAKE (R63): The owner's service context performs a remote atomic at its atomic port and sends a reply. -/
  | atomicFlake (core : Nat)
  /-- COMPLETION_FLAKE (R55): A kind-5 non-reply message runs as a handler with the completion or failure payload. -/
  | completionFlake (ctx : Nat)
  /-- RATIO_NOTICE (R57): A kind-7 ratio notice runs as the launch's notify handler. -/
  | ratioNotice (ctx : Nat)
  /-- RUN_QUEUE_TAKE (R198): An idle user context takes the head entry of the highest non-empty run level. -/
  | runQueueTake (core : Nat)
  /-- RUN_QUEUE_AGING (R45): A run-queue entry rises one level after waiting 2^16 V cycles at its level. -/
  | runQueueAging (core : Nat)
  /-- POSTED_STORE_ACK (R28): A posted store's acknowledgement arrives, releasing waits for drain, release, FIN or migration. -/
  | postedStoreAck (store : Nat)
  /-- STORE_REJECT (R238): A rejection arrives and enters the context's store-fault record queue. -/
  | storeReject (store : Nat) (reason : BitVec 5)
  /-- IMPRECISE_TRAP (R239): A held SFRQ record causes a STORE_REJECT or JOB_FAULT trap at the next instruction boundary. -/
  | impreciseTrap (ctx : Nat)
  /-- LOAD_DATA_RETURN (R68): Data for a waiting load or line fill arrives and completes the load. -/
  | loadDataReturn (ctx : Nat)
  /-- KILL (R29): A killed thread ends at its next boundary, releasing its resources and counting a failure. -/
  | kill (ctx : Nat)
  /-- GROUP_DIRECTORY_APPLY (R39): The group directory applies one arriving group operation in arrival order. -/
  | groupDirectoryApply (part : Nat)
  /-- QDEAD (R241): After 2^20 V cycles with every thread asleep on queues and no word moving, they trap QDEAD. -/
  | qdead (core : Nat)
  /-- BARRIER_DEADLINE (R320): A passed barrier deadline with the phase open sets error 2 and wakes the waiters to trap. -/
  | barrierDeadline (core : Nat) (off : Nat)
  /-- GENERATION_NOTICE (R115): A cluster's TLB logic updates its generation copy and acknowledges in hardware. -/
  | generationNotice (cluster : Nat) (asid : Nat)
  /-- GLACIER_WRITE_REJECT (R71): A write to a bound granule is rejected at the glacier port. -/
  | glacierWriteReject (store : Nat)
  /-- MIGRATION_BATCH (R79): The page migration engine takes a batch from the migration ring and moves its pages. -/
  | migrationBatch (part : Nat)
  /-- LAUNCH_CHECK_DONE (R193): The controller finishes checking a block and accepts it or rejects it with a reason. -/
  | launchCheckDone (win : Nat) (slot : Nat)
  /-- LAUNCH_COUNTER_POLL (R195): The controller re-reads waiting dependence counters at most 10 µs apart. -/
  | launchCounterPoll (launch : Nat)
  /-- LAUNCH_LEAVE_WAITING (R195): A launch leaves WAITING once its counters, start time and glacier write queue allow it. -/
  | launchLeaveWaiting (launch : Nat)
  /-- SPAWN_DISTRIBUTE (R196): The controller sends the next spawn message of the highest-priority distributing launch. -/
  | spawnDistribute (port : Nat)
  /-- LAUNCH_END (R197): A launch with no threads, messages or jobs left ends, releasing bindings and raising its done counter. -/
  | launchEnd (launch : Nat)
  /-- RESUME_RESTORE (R252): A resumed launch restores its images, repeats WBFILLs, reinjects captures and begins issue. -/
  | resumeRestore (launch : Nat)
  /-- PREEMPTION_COMPLETE (R247): Once captures have settled, the image set is written and the launch becomes SWAPPED. -/
  | preemptionComplete (launch : Nat)
  /-- COUNTER_ROTATION (R268): Every 1 ms of device time each counter slot moves to its next select. -/
  | counterRotation (part : Nat)
  /-- REFRESH_WINDOW_END (R73): A refresh window ends and the waiting accesses proceed in arrival order. -/
  | refreshWindowEnd (bank : Nat)
  /-- DIE_FENCE (R273): When the die is idle or at the deadline its links are fenced and its threads end. -/
  | dieFence (die : Nat)
  /-- DIE_RESET_COMPLETE (R273): Die reset finishes, clearing DIESTAT and raising vector 6. -/
  | dieResetComplete (die : Nat)
  /-- PEER_DECLARED_DOWN (R265): A peer with no live route for DOWNINT is declared down and its traffic fails. -/
  | peerDeclaredDown (chip : Nat)
  /-- ARBITER_EVALUATION (R205): The arbiter evaluates a partition at most once per 100 µs and sets a new target tuple. -/
  | arbiterEvaluation (part : Nat)
  /-- TRANSITION_END (R206): A clock transition ends: islands run the new rates, CLKGRANT and CLKGEN update, and notices go out. -/
  | transitionEnd (part : Nat)
  /-- UNIFORM_MINIMUM (R208): At start − 200 µs the coordinator forms the element-wise minimum and sends grants. -/
  | uniformMinimum (floe : Nat)
  /-- UNIFORM_APPLY (R208): At the apply instant the member begins the transition to the uniform tuple. -/
  | uniformApply (floe : Nat)
  /-- FLOE_ACTION (R220): An ARMED member at start or T_r distributes or restores and becomes RUNNING. -/
  | floeAction (floe : Nat)
  /-- FLOE_CUT (R222): At T_p a RUNNING member stops its launch and sends markers on three classes. -/
  | floeCut (floe : Nat)
  /-- CUT_COMPLETE (R223): A member holding all markers with no requests pending writes its image and reports. -/
  | cutComplete (floe : Nat)
  /-- STRAGGLER (R225): At the straggler deadline with missing reports the coordinator raises STRAGGLER and breaks the floe. -/
  | straggler (floe : Nat)
  /-- FALLBACK_VOTE (R229): A member whose U exceeds G in its action window votes and enters FALLBACK. -/
  | fallbackVote (floe : Nat)
  /-- PTP_INTERVAL_TIMER (R214): A port's Sync, Announce or Delay_Req interval expires and it transmits. -/
  | ptpIntervalTimer (port : Nat) (kind : Nat)
  /-- SELECTION_TIMER (R176): At a multiple of the domain period a round begins unless one is running. -/
  | selectionTimer (domain : Nat)
  /-- SELECTION_ROUND (R177): A round snapshots, exchanges, ranks, pairs and calves or drifts. -/
  | selectionRound (domain : Nat)
  /-- MORAINE_RING_SPACE (R185): A round waiting on a full moraine ring continues once space frees. -/
  | moraineRingSpace (domain : Nat)
  /-- POSTED_STORE_LANDING (R442): A posted store or engine write arrives at its owner and lands, waking any WFE registered on the word. -/
  | postedStoreLanding (store : Nat)
  /-- YIELD (R444): Gives issue slots to the other ready user contexts of the core. -/
  | yield
  /-- FIN (R345): Ends the flake or thread after its stores drain, decrementing any join counter. -/
  | fin
  /-- DRAIN (R340): Waits until every posted store of the thread is acknowledged or rejected. -/
  | drain
  /-- GBAR_WIRED (R43): Makes an arrival at the cell's wired barrier. -/
  | gbarWired
  /-- TRET (R413): Returns from a trap, taking any pending SFRQ trap or notice. -/
  | tret
  /-- GENDRAIN_CL (R118): Waits until the cluster's accesses of older generations retire. -/
  | gendrainCl
  /-- GENDRAIN_PK (R118): Waits until the package's accesses of older generations retire. -/
  | gendrainPk
  /-- VREL (R423): Releases every slab and zeroes request, grant and vl. -/
  | vrel
  /-- FLAKE_OVERRUN (R61): An instruction that would raise spent above 64 traps FLAKE_OVERRUN and ends the chain. -/
  | flakeOverrun (core : Nat)
  /-- SERVICE_FLAKE_TRAP (R60): A trap in inline code ends the flake and sends a failed-flake completion. -/
  | serviceFlakeTrap (core : Nat) (cause : BitVec 8) (addr : BitVec 64)
  /-- ATOMIC_REPLY (R63): A reply completes the issuing atomic, or makes it trap with its status. -/
  | atomicReply (core : Nat) (msg : Nat)
  /-- PRECISE_TRAP (R233): A context enters its handler, or ends failed when nested or without a vector. -/
  | preciseTrap (ctx : Nat) (code : BitVec 8) (addr : BitVec 64)
  /-- JOIN_COUNTER_DECREMENT (R28): An ending child's decrement reaches its join counter at the owner as a release. -/
  | joinCounterDecrement
  /-- RING_STALL (R242): After 2^16 failed ring attempts, a RING_STALL notice is raised. -/
  | ringStall (ctx : Nat) (addr : BitVec 64)
  /-- PAGE_WALK (R116): A walker finishes a walk and fills the TLB, or restarts if the generation changed. -/
  | pageWalk (core : Nat) (fetch : Bool) (part : Nat) (asid : Nat) (va : BitVec 64) (gen : Nat)
  /-- REFRESH_WINDOW_START (R73): A glacier bank enters its 2,000 ns refresh window and accesses to it wait. -/
  | refreshWindowStart (bank : Nat)
  /-- PC_SAMPLE (R266): Every 2^n V cycles each sampled context writes a sample record. -/
  | pcSample (ctx : Nat)
  /-- LAUNCH_ARM (R190): A write to LAUNCH_ARM starts the copying and checking of a launch block slot. -/
  | launchArm (win : Nat) (value : BitVec 64)
  /-- PRELAUNCH (R260): A host write requests pre-emption of a launch into PREIMAGE. -/
  | prelaunch (part : Nat) (value : BitVec 64)
  /-- PWRCAP (R22): A write sets the package power cap with clamping and rescales every PWRSHARE. -/
  | pwrcap (value : BitVec 64)
  /-- PWRSHARE_WRITE (R202): A write sets a partition's power share, raised to the least feasible share. -/
  | pwrshareWrite (part : Nat) (value : BitVec 64)
  /-- PARTCFG (R258): A write assigns clusters to the partition, ignoring clusters that are held elsewhere. -/
  | partcfg (part : Nat) (hiHalf : Bool) (value : BitVec 64)
  /-- CTRSEL (R268): A write selects counter events for a slot and clears its values. -/
  | ctrsel (part : Nat) (slot : Nat) (value : BitVec 64)
  /-- SENDLAUNCH (R261): A write sends the host mailbox buffer as a message of the named launch. -/
  | sendlaunch (part : Nat) (value : BitVec 64)
  /-- BAR4_ACCESS (R256): A host access through the bulk aperture reads or writes memory, as a release for writes. -/
  | bar4Access (part : Nat) (offset : Nat) (write : Option (List (BitVec 8))) (len : Nat)
  /-- DIERST (R273): A write starts the reset of named compute dies with a quiesce deadline. -/
  | dierst (value : BitVec 64)
  /-- PEERCLR (R265): A write clears the down state of a peer chip. -/
  | peerclr (value : BitVec 64)
  /-- FABRIC_LINK_CHANGE (R264): A fabric port going down or up changes the egress route after the old route drains. -/
  | fabricLinkChange (port : Nat) (up : Bool)
  /-- ATTREQ (R271): A write begins an attestation report. -/
  | attreq (value : BitVec 64)
  /-- ATTESTATION_DONE (R271): The signed report is ready and ATTREQ reads done. -/
  | attestationDone
  /-- ALARMLOG_READ (R272): A read of ALARMLOG returns and clears it. -/
  | alarmlogRead
  /-- SECURITY_ALARM (R272): A tamper, glitch, thermal or fuse alarm is logged and the fused policy acts. -/
  | securityAlarm (source : BitVec 2)
  /-- BOOT (R269): At package reset the boot ROM verifies the firmware image. -/
  | boot (signatureOk : Bool) (version : Nat)
  /-- REGISTER_WRITE (R258): A write to a control-page register that has no row of its own. -/
  | registerWrite (part : Nat) (pf : Bool) (offset : Nat) (value : BitVec 64)
  /-- COEFFICIENT_UPDATE (R202): Firmware updates a partition's cost coefficients, triggering an evaluation. -/
  | coefficientUpdate (part : Nat) (cM : Nat) (cV : Nat) (cN : Nat) (cB : Nat) (cS : Nat)
  /-- PTP_SYNC (R214): A Sync message or flit is received and timestamped. -/
  | ptpSync (port : Nat) (seqId : Nat) (twoStep : Bool) (correction : Int) (origin : Nat)
  /-- PTP_FOLLOW_UP (R214): A Follow_Up delivers the precise origin time to the servo. -/
  | ptpFollowUp (port : Nat) (seqId : Nat) (correction : Int) (origin : Nat)
  /-- PTP_DELAY_REQ (R214): A Delay_Req is received by a master port and answered. -/
  | ptpDelayReq (port : Nat) (seqId : Nat) (correction : Int) (requester : Nat)
  /-- PTP_DELAY_RESP (R214): A Delay_Resp completes the path delay measurement. -/
  | ptpDelayResp (port : Nat) (seqId : Nat) (correction : Int) (receive : Nat) (requester : Nat)
  /-- PTP_ANNOUNCE (R215): An Announce feeds the best master clock algorithm. -/
  | ptpAnnounce (port : Nat) (quality : BitVec 64) (grandmaster : BitVec 64)
  /-- SYNC_TIMEOUT (R211): Three Sync intervals without Sync move the servo to holdover. -/
  | syncTimeout
  /-- HOLDOVER_TICK (R211): Every 500 µs of holdover, U rises by 1 ns. -/
  | holdoverTick
  /-- TIME_UNIT_FAILOVER (R213): FD0's time unit fails and FD1's takes over without a step. -/
  | timeUnitFailover
  /-- FITNESS_EXCHANGE (R177): A peer's round number and fitness words arrive for the exchange. -/
  | fitnessExchange (domainId : Nat) (chip : Nat) (round : BitVec 64) (fitness : List (Nat × BitVec 32)) (registered : Bool)
  /-- DRIFT_REQUEST (R342): The other chip serves a DRIFT job's request ahead of queued rounds. -/
  | driftRequest (domainId : Nat) (chip : Nat) (round : BitVec 64) (loser : Nat) (parent : Nat)
  /-- DRIFT_READY (R183): The loser chip's ready or refused answer reaches the parent chip, which streams the genome. -/
  | driftReady (domainId : Nat) (round : BitVec 64) (loser : Nat) (ready : Bool)
  /-- DRIFT_STREAM (R183): Streamed genome bytes reach the loser chip, which writes them and finishes the calving. -/
  | driftStream (domainId : Nat) (round : BitVec 64) (loser : Nat) (bytes : List (BitVec 8)) (parentFit : BitVec 32) (parentStatus : BitVec 8)
  /-- LAUNCH_WINDOW_WRITE (R190): A write to a launch block slot or a slot status word is stored, or is discarded with overrun set while the slot is checking, and a W1C write clears overrun. -/
  | launchWindowWrite (win : Nat) (offset : Nat) (value : BitVec 64)
  /-- IMAGE_DISCARD (R219): The host discards a FROZEN or BROKEN launch's images, and the member sends ended to the coordinator. -/
  | imageDiscard (launch : Nat)
  /-- PEER_REQUEST (R125): A fabric access from another chip through a capability arrives and is served, or is rejected if its address breaks its class layout or faults. -/
  | peerRequest (chip : Nat) (kind : Nat) (part : Nat) (asid : BitVec 16) (sup : Bool) (addr : BitVec 64) (size : Nat) (op : Nat) (data : BitVec 64) (data2 : BitVec 64)
  /-- DRIFT_ACKNOWLEDGEMENT (R342): The loser chip's acknowledgement of written genome bytes reaches the parent chip, which ends its side of the pair, writes its kind-1 record and writes a DRIFT token. -/
  | driftAcknowledgement (domainId : Nat) (round : BitVec 64) (loser : Nat) (status : BitVec 8) (bytes : Nat)
  /-- CXL_LINK_CHANGE (R238): A CXL root port's link goes down or comes back, and while it is down loads trap LOAD_FAULT and stores are rejected with SFRQ reason 1. -/
  | cxlLinkChange (port : Nat) (up : Bool)
deriving DecidableEq, Repr

end Sys2Proof
end

