-- ==== Sys2Proof/Machine/State.lean ====
section
/-!
DEFINITION. Sys2Proof/Machine/State.lean: everything the manual gives one Z4 package, as plain data: threads and
contexts, cores, memory, engines, partitions, launches, floes, population domains, the time unit, and the host and
fabric registers. INVENTORY.md lists each field with its rule.
-/

namespace Sys2Proof.Machine

open Sys2Proof

/-- Why a step stops. The manual gives every reachable case an effect, so one name is left. -/
inductive Fault where
  /-- Raised by no instruction: the manual names no state in which the whole part stops. Safe. -/
  | stopped
deriving DecidableEq, Repr

/-- Why an instruction has no meaning in the model. -/
inductive Refusal where
  /-- An arm of exec that has not been given its meaning. Safe. -/
  | notModelled (mnemonic : String)
deriving DecidableEq, Repr

/-! ## Threads -/

/-- A capability register: 128 bits and the hidden tag (R121, R122). -/
structure Cap where
  bits : BitVec 128 := 0
  tag  : Bool := false
deriving DecidableEq, Repr

/-- What a scalar register holds of a job (R81): nothing, a pending token, or a completed token not yet read with
the job's first faulting address (R82). -/
inductive Tok where
  | none
  | pending (job : Nat)
  | done (addr : Word)
deriving DecidableEq, Repr

/-- What a wired arrival carries (R43, R165, R354). -/
inductive WKind where
  | gissue (cw : BitVec 256) (d : Nat)
  | gbar
  | vxall (vd va vl : Nat)
deriving DecidableEq, Repr

/-- What the reply of a remote atomic operation is for (R63, R317, R392, R402). -/
inductive ReplyFor where
  | atom (d : Nat)
  | cas (d : Nat) (exp : Word)
  | ring (d : Nat)
  | barrier (d : Nat)
deriving DecidableEq, Repr

/-- What a context waits for (R24, R304): its own data stays with the wait. -/
inductive Wait where
  | ready
  /-- reads or writes the pending token in a scalar register (R81) -/
  | token (r : Nat)
  /-- QRD on an empty, QWR on a full queue register, with the register or word of the wait and the
  stamp of the sleep (R386) -/
  | queueRead (q d since : Nat)
  | queueWrite (q : Nat) (w : Word) (since : Nat)
  /-- BARWAIT on the barrier at an alias offset, asleep on a phase (R320) -/
  | barrier (off : Nat) (phase : BitVec 16)
  /-- BARWAIT that a completed phase, BARINIT or an error has woken -/
  | barrierHit
  /-- JCWAIT on the counter at a memory key (R360); then the word that an atomic operation left when it made the
  count zero -/
  | join (key : Nat)
  | joinHit (w : Nat)
  /-- WFE registered on the word at a memory key; then the word that a landing write left (R442) -/
  | wfe (key : Nat)
  | wfeHit (w : Word)
  /-- CLKWAIT (R331) -/
  | clk (gen : Word)
  /-- posted stores of the thread; `sys` counts those to other chips (R90, R28, R240) -/
  | stores (sys : Bool)
  /-- FIN behind the thread's posted stores (R28, R254) -/
  | finStores
  /-- posted stores and kicked jobs, before a migration (R34) -/
  | settle
  /-- an access to a memory key behind the thread's own stores to the same bytes (R98) -/
  | line (key : Nat)
  /-- a glacier access of a vector load to a bank that refreshes (R73) -/
  | bank (b : Nat)
  /-- the atomic port of a core that has performed an operation in this V cycle (R101) -/
  | port (core : Nat)
  /-- FIN until its join counter's decrement is performed (R345) -/
  | finish
  /-- data of a scalar load: destination, size, sign extension, memory key, address, fill of the line (R68), the
  generation it was translated under, the address of the instruction after the load, and whether it is an acquire -/
  | load (d n : Nat) (signed : Bool) (key : Nat) (addr : Word) (fill : Bool) (gen : BitVec 32) (after : Word) (acq : Bool)
  /-- the reply of an atomic flake, or of a fabric atomic of a peer (R63) -/
  | reply (k : ReplyFor) (addr : Word) (peer : Option Nat)
  /-- a wired arrival (R43); an arrival that finds its core's position taken -/
  | wired (k : WKind) (mask : BitVec 8)
  | wiredBusy
  /-- GISSUE whose reserved entry is held (R154) -/
  | reserved
  /-- an arrival at a group barrier, applied or not, and held for the next phase or not (R351) -/
  | groupBar (g d : Nat) (applied held : Bool)
  /-- GJOIN and GLEAVE until the directory applies them (R355) -/
  | directory
  /-- GKILL: destination, number killed, the threads that have not ended yet (R39) -/
  | gkill (d count : Nat) (left : List Nat)
  /-- TSWAP (R167) -/
  | tswap (off len : Nat)
  | tswapBusy
  /-- a full job queue of a class (R80, R154, R363) -/
  | jobQueue (cls : Nat)
  /-- a back-pressured egress port (R53) -/
  | egress (prio : Nat)
  /-- ACCRD or ACCWR behind jobs on the slice accepted before this job number (R152) -/
  | slice (upTo : Nat)
  /-- YIELD: the contexts that must issue first, and the V cycles left (R444) -/
  | yielded (others : List Nat) (left : Nat)
  | ctxsave (d launch : Nat)
  | tlbgen (d asid : Nat) (gen : BitVec 32)
  | gendrain (pk : Bool) (asid : Nat) (gen : BitVec 32)
deriving DecidableEq, Repr

/-- The code and chain word of an inline or chain flake (R58, R59). -/
structure Flake where
  /-- the number of its message, at the head of a mailbox queue -/
  msg     : Nat
  header  : Word
  /-- the chain word as the message carried it -/
  chain   : Word
  code    : List (BitVec 32)
  /-- instructions executed by the whole chain so far -/
  spent   : Nat
  sender  : BitVec 32
deriving DecidableEq, Repr

/-- A unit of work with all it owns (02, R26, R36, R232; R248 lists it again). -/
structure Thread where
  pc      : Word := 0
  s       : Tbl Word := []
  m       : Tbl (BitVec 256) := []
  v       : Tbl (BitVec 32) := []
  c       : Tbl Cap := []
  tok     : Tbl Tok := []
  tid     : Nat := 0
  launch  : Nat := 0
  level   : Nat := 0
  join    : Word := 0
  asid    : BitVec 16 := 0
  part    : Nat := 0
  -- trap state (R232, R238, R242, R233)
  cause   : BitVec 8 := 0
  imprecise : Bool := false
  notice  : Bool := false
  taddr   : Word := 0
  epc     : Word := 0
  rn      : Bool := true
  jn      : Bool := false
  nest    : Bool := false
  plev    : Bool := false
  lev     : Bool := false
  /-- records with the count of instructions completed when the store was posted -/
  sfrq    : List (Word × Nat) := []
  /-- SFRQN.over (R238) -/
  dropped : BitVec 8 := 0
  skid    : BitVec 16 := 0
  done    : Nat := 0
  ringFails : Nat := 0
  ringNote : Option Word := none
  joinNote : Option Word := none
  -- formats, rounding, Flurry (R132-R142)
  cellmask : BitVec 8 := 0
  fmtA    : BitVec 4 := 0
  fmtB    : BitVec 4 := 0
  fmtC    : BitVec 4 := 0
  sclA    : BitVec 9 := 0
  sclB    : BitVec 9 := 0
  sclC    : BitVec 9 := 0
  rmode   : BitVec 3 := 0
  ftz     : Bool := false
  srseed  : Word := 0
  flurcnt : Word := 0
  fpstat  : BitVec 8 := 0
  -- lanes (R160)
  request : Nat := 0
  slabs   : BitVec 8 := 0
  vl      : Nat := 0
  regrant : Bool := false
  clip    : Bool := false
  glref   : BitVec 5 := 0
  -- execution
  wait    : Wait := .ready
  /-- the words that the executing instruction read before it began to wait (R353, R354, R396) -/
  latch   : List Word := []
  /-- the completed tokens that it has read for the first time: a trap leaves them unread (R234) -/
  acquired : Tbl Tok := []
  killed  : Bool := false
  wake    : BitVec 16 := 0
  dirty   : BitVec 65 := 0
  flake   : Option Flake := none
  imx     : Option (BitVec 24) := none
deriving DecidableEq, Repr

/-! ## Messages -/

/-- Who formed a message (R50). -/
inductive Origin where
  | send | spawn | sendi | fwd | engine | hardware
deriving DecidableEq, Repr

/-- A message with its sideband (R47, R48, R50), its place in the mesh and its taking core once decided. A thread
message carries the thread's context as its payload (R36); beside it travel the thread's numbers and what the package
keeps for it, and the cause and address that it ends with should the message be refused (R56). -/
structure Msg where
  id      : Nat
  header  : Word
  payload : List Word
  sender  : BitVec 32
  part    : Nat
  launch  : Nat
  origin  : Origin
  lev     : Bool
  asid    : BitVec 16
  thread  : Option Thread
  cause   : BitVec 8 := 0
  fault   : Word := 0
  at_     : Nat
  entered : Bool
  taker   : Option Nat
  blocked : Bool
  /-- it stands in its egress port until the port is no longer stalled (R25) -/
  inPort  : Bool := false
deriving DecidableEq, Repr

/-- What an idle context's core may take: a message that starts work, or a thread (R198). -/
inductive Entry where
  | msg (m : Msg)
  | thread (t : Thread)
deriving DecidableEq, Repr

/-- A run-queue entry: its level now and the V cycles it has waited there (R198, R45). -/
structure RunEntry where
  entry : Entry
  level : Nat
  waited : Nat
deriving DecidableEq, Repr

/-- A context: idle, holding a message whose work has not started, or holding a thread (R23, R27). -/
inductive Mode where
  | idle
  | starting (m : Msg)
  | running
deriving DecidableEq, Repr

structure Ctx where
  mode : Mode := .idle
  th   : Thread := {}
deriving DecidableEq, Repr

/-! ## Cores, cells, clusters -/

/-- A translation kept by a TLB (R112): the page of `size` bytes at `va`, its frame, and the leaf's U, X, W, R. -/
structure TlbEntry where
  asid  : BitVec 16
  part  : Nat
  gen   : BitVec 32
  va    : Nat
  size  : Nat
  frame : Nat
  perm  : BitVec 4
deriving DecidableEq, Repr

/-- A line of the instruction cache: the bytes it was filled with (R77). -/
structure ILine where
  asid  : BitVec 16
  part  : Nat
  va    : Nat
  bytes : List Byte
deriving DecidableEq, Repr

/-- A line of the remote read cache: the memory key of its first byte and its 64 bytes (R68). -/
structure RrcLine where
  key   : Nat
  bytes : List Byte
deriving DecidableEq, Repr

structure Core where
  fit      : BitVec 32 := 0x7FC00000
  discarded : BitVec 8 := 0
  queues   : Tbl (List Word) := []
  runq     : List RunEntry := []
  mail     : List Msg := []
  backlog  : List RunEntry := []
  /-- most recently used first -/
  rrc      : List RrcLine := []
  icache   : List ILine := []
  itlb     : List TlbEntry := []
  dtlb     : List TlbEntry := []
  lastUser : Nat := 2
  /-- the service context issued in this V cycle of the core, and in the one before -/
  svcNow   : Bool := false
  svcPrev  : Bool := false
  /-- V cycles of the core -/
  vcount   : Nat := 0
  /-- the atomic port has performed an operation in this V cycle (R101) -/
  portBusy : Bool := false
  /-- the mailbox has advanced a head in this V cycle (R52) -/
  mailBusy : Bool := false
  /-- a kick of the core has been accepted in this V cycle (R153) -/
  kicked   : Bool := false
  /-- the next instruction of the core reads a register whose error cannot be corrected (R245) -/
  regError : Bool := false
  qdead    : Nat := 0
  dirty    : List Nat := []
  acc      : Tbl (BitVec 32) := []
  accDirty : BitVec 2 := 0
deriving DecidableEq, Repr

structure Cluster where
  tlb  : List TlbEntry := []
  gens : Tbl (BitVec 32) := []
  /-- the port whose head the copy engine looks at next (R80) -/
  copyTurn : Nat := 0
deriving DecidableEq, Repr

/-! ## Posted stores and jobs -/

/-- A posted store in flight (R28, R90): whose it is, the address it was posted to, the memory key of its first byte
(or the peer chip), its bytes, and what the destination has said; `arrival` numbers its arrival at a
refreshing bank, where it waits (R73). `tag` is a capability tag stored with it (R122). -/
structure Posted where
  id     : Nat
  tid    : Nat
  part   : Nat
  ctx    : Nat
  addr   : Word
  key    : Nat
  peer   : Option Nat
  bytes  : List Byte
  tag    : Option Bool
  posted : Nat
  asid   : BitVec 16
  gen    : BitVec 32
  arrival : Option Nat := none
  landed : Bool := false
  rejected : Option (BitVec 5) := none
  /-- a fence, acquire or release of its thread lies after it (R99) -/
  ordered : Bool := false
  /-- its thread, or one ordered after it, has since written a queue register (R93) -/
  handed : Bool := false
  /-- the other threads, by partition and number, that a queue edge orders after it (R93), and those that have read its
  bytes in a line of the remote read cache (R96) -/
  after  : List (Nat × Nat) := []
  seen   : List (Nat × Nat) := []
  /-- its peer was declared down before it was acknowledged (R265) -/
  lost : Bool := false
deriving DecidableEq, Repr

inductive JobState where
  | queued | running | bodyDone | complete
deriving DecidableEq, Repr

/-- One member of a job: the context that kicked it, its thread and its token register (R81, R156), its SCLA (R155),
and its count of completed instructions with the kick (R239). -/
structure Member where
  ctx : Nat
  tid : Nat
  d   : Nat
  sclA : BitVec 9
  posted : Nat
deriving DecidableEq, Repr

/-- An accepted job (R80-R85, R153-R158): job numbers rise in acceptance order. `draws` and the result fields from
`status` on are the hart's own (R138, R169). -/
structure Job where
  word    : BitVec 256
  gang    : Bool
  members : List Member
  core    : Nat
  launch  : Nat
  part    : Nat
  asid    : BitVec 16
  lev     : Bool
  key     : Word
  draws   : Nat := 0
  fmtA    : BitVec 4
  fmtB    : BitVec 4
  fmtC    : BitVec 4
  sclB    : BitVec 9
  sclC    : BitVec 9
  rmode   : BitVec 3
  mask    : BitVec 8
  state   : JobState := .queued
  status  : BitVec 8 := 0
  delivered : Nat := 0
  /-- bytes read from bulk memory (R268) -/
  bulkRead : Nat := 0
  faultAddr : Word := 0
  tokenOnly : Bool := false
  flags   : BitVec 8 := 0
  /-- the accesses that the body has made, in order: what each gave, and a note of its kind (R105) -/
  made : List (Nat × Nat) := []
  /-- the access that waits at a glacier port: its memory key, and the number of its arrival (R73) -/
  waits : Option (Nat × Nat) := none
  /-- the accesses that the body makes before it pauses, where the script has named a number (R105) -/
  pause : Option Nat := none
  /-- the B cycle of its acceptance (R186) -/
  cycle   : Nat := 0
  /-- of a WBFILL that a resume repeats: the footprint cores, whose partitions it fills (R440) -/
  refill  : Option (List Nat) := none
deriving DecidableEq, Repr

/-! ## Partitions -/

/-- A ring group (R259). -/
structure Ring where
  base     : Word := 0
  producer : Word := 0
  consumer : Word := 0
  dropped  : BitVec 32 := 0
deriving DecidableEq, Repr

inductive GroupOpKind where
  | join | leave | kill | arrive
deriving DecidableEq, Repr

/-- A group operation, with the N cycle in which it reaches the directory (R39). -/
structure GroupOp where
  kind : GroupOpKind
  tid  : Nat
  ctx  : Nat
  g    : Nat
  d    : Nat
  cycle : Nat
deriving DecidableEq, Repr

/-- A group: its members, its barrier's phase number, and the open phase's counts (R38, R351). -/
structure Group where
  members : List Nat := []
  phase   : BitVec 16 := 0
  opened  : Bool := false
  count   : Nat := 0
  arrived : List Nat := []
  held    : List Nat := []
  /-- members that joined after the open phase opened -/
  late    : List Nat := []
deriving DecidableEq, Repr

/-- A performance counter slot of R268: what each of the four selects has counted, undivided, and its enabled time in
units of 2^-16 ns. -/
structure PmSlot where
  sel    : BitVec 32 := 0
  values : Tbl Nat := []
  times  : Tbl Nat := []
deriving DecidableEq, Repr

/-- A tuple of clock steps M, V, N, B (R200, R201). -/
structure Steps where
  m : Nat := 4
  v : Nat := 4
  n : Nat := 4
  b : Nat := 7
deriving DecidableEq, Repr

/-- A clock transition (R206): its tuple, the uniform flag, whether its end is a ratio event, and whether that event
sends notices (R209, R228). -/
structure Move where
  steps   : Steps
  uniform : Bool := false
  event   : Bool := true
  notice  : Bool := true
deriving DecidableEq, Repr

structure Part where
  clusters : BitVec 96 := 0
  glshare  : BitVec 4 := 0
  bulkBase : Word := 0
  bulkLimit : Word := 0
  asdir    : Word := 0
  pwrshare : BitVec 16 := 0
  cM : Nat := 0
  cV : Nat := 0
  cN : Nat := 0
  cB : Nat := 0
  cS : Nat := 0
  apbase   : Word := 0
  aperture : Nat := 0x40000000
  hwbase   : Word := 0
  sampctl  : Word := 0
  failflake : Word := 0
  cecount  : Word := 0
  aperr    : Word := 0
  fault    : Ring := {}
  floe     : Ring := {}
  sample   : Ring := {}
  migrate  : Ring := {}
  /-- the done address, ASID and generation of a migration batch whose older accesses have not retired (R79) -/
  migDone  : Option (Word × Nat × BitVec 32) := none
  preimage : Word := 0
  prestat  : BitVec 16 := 0
  preLaunch : Option Nat := none
  -- clocks (R204-R206)
  steps    : Steps := {}
  power    : BitVec 16 := 0
  uniform  : Bool := false
  clkgen   : Word := 0
  moving   : Option Move := none
  waiting  : Option Move := none
  evalDue  : Bool := false
  lastEval : Option Nat := none
  -- profiling (R268)
  pm       : Tbl PmSlot := []
  rotation : Nat := 0
  pmSince  : Nat := 0
  -- groups
  groups   : Tbl Group := []
  ops      : List GroupOp := []
  -- host mailbox (R261) and interrupts raised (R262)
  mailbox  : List Byte := []
  mbstat   : BitVec 8 := 0
  msix     : BitVec 16 := 0
  /-- the MSI-X table's written words: of each vector its address, then its control and data -/
  msixTable : Tbl Word := []
  /-- PCIe's MSI-X enable and function mask of the partition's function -/
  msixOn   : Bool := false
  msixMask : Bool := false
  nextTid  : Nat := 1
  nextLaunch : Nat := 1
deriving DecidableEq, Repr

/-- One slot of a launch window: the block's 64 words and its status word (R188, R189). -/
structure Slot where
  block   : Tbl Word := []
  state   : BitVec 2 := 0
  overrun : Bool := false
  reason  : BitVec 8 := 0
  launch  : BitVec 32 := 0
  badArm  : Bool := false
deriving DecidableEq, Repr

/-! ## Launches, images, floes -/

inductive LaunchState where
  | waiting | distributing | running | swapped | ended
deriving DecidableEq, Repr

/-- A launch (R192-R197). `lid` is its partition number times 2^32 plus its launch ID; `block` is the copied block,
word i at byte 8i. -/
structure Launch where
  lid     : Nat
  part    : Nat
  port    : Nat
  state   : LaunchState
  block   : Tbl Word
  /-- armed through a device window or a physical function (R231) -/
  trusted : Bool
  order   : Nat
  sent    : Nat := 0
  met     : BitVec 4 := 0
  clock   : Word
  /-- the image set of a resume not yet done -/
  resume  : Option Nat := none
  /-- stopped by a cut, a pre-emption request or a restore not yet done -/
  stopping : Bool := false
  /-- the messages whose flakes were in progress on its cores when it stopped (R25) -/
  flakes  : List Nat := []
  /-- the restore in hand repeats the last WBFILLs (R440) -/
  refilling : Bool := false
  /-- the host has discarded its images, and it ends once no round or record of its domain is left (R182, R185) -/
  discarded : Bool := false
  /-- where a pre-emption request wants its image set, and the address by which it names it -/
  image   : Nat := 0
  imageName : Nat := 0
  /-- the newest image set, and its depth -/
  lastImage : Option Nat := none
  depth   : Nat := 0
  domain  : Option Nat := none
deriving DecidableEq, Repr

/-- What an image set holds (R248); only the Z4 reads it. -/
structure Image where
  launch  : Nat
  /-- the address by which its request names it -/
  name    : Nat
  /-- the image set this delta follows -/
  previous : Option Nat
  /-- context index and thread: what is no register of it, and what has reached it since -/
  threads : List (Nat × Thread) := []
  /-- the registers saved of each thread, those that `dirty` marks: the context threads in their order, then the
  queued ones. They stay when the image's work has gone, for the deltas that follow (R250) -/
  saved   : List Thread := []
  queued  : List (Nat × RunEntry) := []
  captured : List Msg := []
  fits    : Tbl (BitVec 32) := []
  queues  : Tbl (Tbl (List Word)) := []
  accs    : Tbl (Tbl (BitVec 32)) := []
  lines   : List (Nat × List Byte) := []
  jobs    : List (Nat × Job) := []
  fills   : List (Nat × Job) := []
  cores   : List Nat := []
deriving DecidableEq, Repr

inductive FloeState where
  | armed | running | cutting | frozen | broken | fallback | done
deriving DecidableEq, Repr

inductive FloeAction where
  | launch | cut | resume
deriving DecidableEq, Repr

/-- A decrement on its way to a join counter (R28, R29): the counter, whether a failure is counted, and whose end it
is. FIN's thread waits for it. That of a refused spawn message comes before the message's failed-flake completion
(R402): the message, and the core and the reason of the refusal. -/
structure Decrement where
  addr   : Word
  failed : Bool
  part   : Nat
  tid    : Nat
  fin    : Bool
  refused : Option (Msg × Nat × Nat) := none
deriving DecidableEq, Repr

/-- What an acquire within an instruction has changed, for a trap of the same instruction to put back (R234): the
remote read cache, and the posted stores. -/
structure Undo where
  rrc    : List RrcLine
  stores : List Posted
deriving DecidableEq, Repr

/-- A floe member, with the coordinator's record where this chip coordinates (R216-R229). -/
structure Floe where
  id       : Nat
  coordinator : Nat
  members  : List Nat
  launch   : Nat
  part     : Nat
  state    : FloeState := .armed
  back     : FloeState := .armed
  epoch    : Nat := 0
  barrier  : Bool := false
  action   : FloeAction := .launch
  /-- the action that FALLBACK waits to perform -/
  votedFor : FloeAction := .launch
  prepared : Bool := false
  readySent : Bool := false
  /-- the device time and U of the cut in hand -/
  cutAt    : Nat := 0
  cutU     : BitVec 32 := 0
  /-- the markers that have come: chip, class and epoch -/
  markers  : List (Nat × Nat × Nat) := []
  /-- the image set of the cut in hand is written, and its record -/
  imaged   : Bool := false
  recorded : Bool := true
  complete : Nat := 0
  /-- of a broken floe: status, straggler count, mask base and mask of the cut record that completion will write -/
  late     : Option (Nat × Nat × Nat × Nat) := none
  /-- uniform grants not yet applied: tuple and apply instant, in arrival order -/
  grants   : List (Steps × Nat) := []
  feasible : Option Steps := none
  /-- the launch has ended and the other members have resumed since: no block gives this member a T_p -/
  unscheduled : Bool := false
  -- coordinator
  /-- the members that have reported, and the epoch of the cut -/
  reports  : List (Nat × Nat) := []
  /-- the straggler deadline of the cut in hand, until the outcome is decided -/
  deadline : Option Nat := none
  feas     : Tbl Steps := []
  /-- the last minimum granted for the action in hand -/
  minimum  : Option Steps := none
  /-- the action and epoch that a prepare has named, until its commit -/
  preparing : Option (FloeAction × Nat) := none
  readies  : List Nat := []
  endeds   : List Nat := []
deriving DecidableEq, Repr

/-- A kind-6 message between the members of a floe (R216): the fields of its words. -/
structure FloeMsg where
  kind   : Nat
  action : FloeAction
  floe   : Nat
  epoch  : Nat
  /-- its sender -/
  chip   : Nat
  /-- word 1 [31:16]: a marker's class, or the granted codes -/
  bits   : Nat := 0
  acted  : Bool := false
  arg    : Nat := 0
deriving DecidableEq, Repr

/-- A message that leaves the chip: to another chip's floe logic, selection unit, or memory; and PTP transmissions. -/
inductive Fabric where
  /-- the header and words of a kind-6 message (R216) -/
  | floe (chip : Nat) (words : List Word)
  | msg (chip : Nat) (m : Msg)
  | store (chip id : Nat) (addr : Word) (bytes : List Byte)
  | atomic (chip ctx : Nat) (op size : Nat) (addr : Word) (operand expected : Word)
  | fitness (chip domain : Nat) (round : Word) (words : List (Nat × BitVec 32)) (registered : Bool)
  | driftRequest (chip domain : Nat) (round : Word) (loser parent : Nat)
  | driftReady (chip domain : Nat) (round : Word) (loser : Nat) (ready : Bool)
  | driftStream (chip domain : Nat) (round : Word) (loser : Nat) (bytes : List Byte) (fit : BitVec 32)
      (status : BitVec 8)
  | driftAck (chip domain : Nat) (round : Word) (loser : Nat) (status : BitVec 8) (bytes : Nat)
  /-- the answer to a peer's request under a partition number -/
  | peerReply (chip part : Nat) (value : Word) (status : BitVec 8)
  /-- an MSI-X message of a partition's function (R262) -/
  | msix (part vector : Nat) (addr data : Word)
  /-- the data of a host read -/
  | hostData (part : Nat) (bytes : List Byte)
  /-- a timing flit (R215) or PTP message of a port, as the words of the flit's layout -/
  | ptp (port : Nat) (flit : List Nat)
deriving DecidableEq, Repr

/-! ## Population domains -/

/-- A pair of a round or a job (R179): loser and parent slot, and how far it has come. -/
structure Pair where
  loser  : Nat
  parent : Nat
deriving DecidableEq, Repr

/-- Where a domain's round stands (R177). -/
inductive RoundPhase where
  | idle
  | begin_
  | exchange
  | pairs (rest : List Pair)
deriving DecidableEq, Repr

/-- A pair that two chips handle (R183, R342): the other chip, the round number and round key, whether the loser is
this chip's, the DRIFT job of this chip if any, whether a request or a round formed it, whether the genome has been
streamed, the fitness of both, and whether a job's request has still to be accepted by the other chip. -/
structure Drift where
  pair  : Pair
  peer  : Nat
  round : Word
  rk    : Word
  loserHere : Bool
  job   : Option Nat
  byRequest : Bool
  streamed : Bool
  loserFit : BitVec 32
  parentFit : BitVec 32
  flags : BitVec 8
  asked : Bool := false
deriving DecidableEq, Repr

/-- A slot: its chip, lead core and genome base granule (R171). -/
structure SlotEntry where
  chip : Nat
  core : Nat
  base : Nat
deriving DecidableEq, Repr

/-- A range of the genome (R172). -/
structure GenRange where
  kind   : Nat
  format : Nat
  off    : Nat
  len    : Nat
deriving DecidableEq, Repr

/-- One unit of a genome as a calving writes it (R180): its offset, bytes, flags and perturbed elements, and whether its
read met an uncorrectable error. -/
structure Chunk where
  off   : Nat
  bytes : List Byte
  flags : BitVec 8
  elems : Nat
  bad   : Bool
deriving DecidableEq, Repr

/-- What a calving in hand is for: a pair of this chip, with the round, its key and both fitness words; a stream that has
come, with its bytes and the status that the parent's chip gives; or a stream that this chip sends. -/
inductive CalveKind where
  | pair (p : Pair) (rk round : Word) (loserFit parentFit : BitVec 32)
  | stream (bytes : List Byte) (status : BitVec 8)
  | send
deriving DecidableEq, Repr

/-- A calving in hand: the units done, the one that has been read and not yet written, the bytes and perturbed elements
written and the flags so far, the bytes to send, and the status with the address of the access that failed. -/
structure Calve where
  kind   : CalveKind
  next   : Nat := 0
  chunk  : Option Chunk := none
  bytes  : Nat := 0
  elems  : Nat := 0
  flags  : BitVec 8 := 0
  out    : List Byte := []
  status : BitVec 8 := 0
  fault  : Word := 0
deriving DecidableEq, Repr

/-- A registered domain (R173): the address and copy of its descriptor, its slots and ranges as checked, and the
unit's work on it. Its number is the memory key of the descriptor. -/
structure Domain where
  addr     : Word
  desc     : List Word
  slots    : List SlotEntry
  ranges   : List GenRange
  domainId : BitVec 32
  asid     : BitVec 16
  part     : Nat
  launches : List Nat
  phase    : RoundPhase := .idle
  round    : Word := 0
  rk       : Word := 0
  /-- the job that the work in hand answers, if any -/
  job      : Option Nat := none
  /-- what that job's token will say once no record is owed: status, delivered and first faulting address -/
  fin      : Option (BitVec 8 × Nat × Word) := none
  /-- the timer rounds that have not begun: the job number at the instant of each, and its B cycle -/
  timers   : List (Nat × Nat) := []
  lastTimer : Nat := 0
  /-- records of the round in hand -/
  records  : Nat := 0
  fitness  : List (Nat × BitVec 32) := []
  /-- the exchange messages that a failed round no longer waits for: chip and round number -/
  unheard  : List (Nat × Word) := []
  /-- exchange messages received: chip, round number, fitness words, registered -/
  inbox    : List (Nat × Word × List (Nat × BitVec 32) × Bool) := []
  /-- records not yet written because the ring is full -/
  owed     : List (List Nat) := []
  /-- the loser slot whose binding is suspended (R72) -/
  suspended : Option Nat := none
  /-- drift requests of other chips not yet served: chip, round, loser, parent -/
  requests : List (Nat × Word × Nat × Nat) := []
  /-- answers of loser chips not yet used: round, loser, ready -/
  readies  : List (Word × Nat × Bool) := []
  drift    : Option Drift := none
  /-- the unit's own counts of records and of rounds, and whether a program has written the field of either (R170) -/
  produced : Word := 0
  begun    : Word := 0
  spoiltProducer : Bool := false
  spoiltRound : Bool := false
  /-- the calving in hand, and its access that waits at a glacier port: its memory key, and the number of its arrival (R73) -/
  calve    : Option Calve := none
  waits    : Option (Nat × Nat) := none
deriving DecidableEq, Repr

/-! ## Time, package registers -/

inductive Servo where
  | free | acquiring | locked | holdover
deriving DecidableEq, Repr

/-- Times and offsets below are in units of 2^-16 ns. -/
structure TimeUnit where
  ns      : Nat := 0
  frac    : Nat := 0
  u       : BitVec 32 := 0xFFFFFFFF
  /-- FD1's unit keeps device time -/
  unit    : Bool := false
  /-- the port in the SLAVE state: 0 and 1 the 25 GbE ports, 2 + k fabric port k -/
  source  : Option Nat := none
  servo   : Servo := .free
  /-- the offset that slewing has still to take away -/
  slew    : Int := 0
  /-- device time in ns of the source's last Sync -/
  syncAt  : Nat := 0
  /-- holdover: device time in ns and U at the loss -/
  lost    : Nat := 0
  uLost   : BitVec 32 := 0xFFFFFFFF
  /-- the Sync whose Follow_Up is awaited: sequence number, receive time, correction -/
  sync    : Option (Nat × Nat × Int) := none
  /-- the last Sync: origin with corrections, and receive time -/
  last    : Option (Int × Nat) := none
  /-- the Delay_Req outstanding: sequence number and send time -/
  request : Option (Nat × Nat) := none
  delay   : Int := 0
  /-- next sequence number of a port -/
  seqId   : Tbl Nat := []
  /-- device time in ns of a port's last transmission of a type -/
  sent    : Tbl Nat := []
  /-- the last Announce of a port: quality word, grandmaster, and the device time in ns when it was heard -/
  announces : Tbl (Word × Word × Nat) := []
  /-- firmware permits the package to be a grandmaster (R214) -/
  permitted : Bool := false
  /-- timing flits discarded (R215) -/
  discarded : Nat := 0
deriving DecidableEq, Repr

structure Package where
  chip     : Nat := 0
  pwrcap   : BitVec 16 := 2600
  ptpcfg   : Word := 0xC0C000000
  ptprole  : Word := 0
  downint  : BitVec 32 := 300
  /-- DIERST as last written, the dies that a reset has in hand, and its deadline in ns -/
  dierstReg : Word := 0
  dierst   : BitVec 4 := 0
  quiesceBy : Nat := 0
  fenced   : BitVec 4 := 0
  alarmlog : Word := 0
  alarms   : BitVec 32 := 0
  policy   : BitVec 2 := 0
  keyErased : Bool := false
  bootFailed : Bool := false
  firmware : Word := 0
  minVersion : Nat := 0
  nonce    : List Byte := []
  attState : BitVec 2 := 0
  report   : List Byte := []
  ports    : BitVec 32 := 0xFFFFFFFF
  /-- device time in ns since which no port is live -/
  noRoute  : Option Nat := none
  /-- by peer, the device time in ns since which no route to it is live, though a port here is -/
  noRouteTo : Tbl Nat := []
  down     : List Nat := []
  /-- every peer has been declared down, those cleared since apart -/
  allDown  : Bool := false
  cleared  : List Nat := []
  /-- the egress port in use for a destination chip (R264) -/
  routes   : Tbl Nat := []
  cxlCap   : Tbl Nat := []
  cxlUp    : BitVec 4 := 0xF
deriving DecidableEq, Repr

/-- A glacier binding held: granule counts are sums over these (R70). -/
structure Binding where
  launch : Option Nat
  domain : Option Nat
  die    : Nat
  first  : Nat
  count  : Nat
deriving DecidableEq, Repr

/-- A peer's store that waits at a glacier port for a refreshing bank (R73): the number of its arrival, its memory key, the
peer's chip and partition number, and the bytes. -/
structure PortWrite where
  number : Nat
  key    : Nat
  chip   : Nat
  part   : Nat
  bytes  : List Byte
deriving DecidableEq, Repr

/-- What the outside world or an open choice does next: which core issues, which event comes, time that passes, a
message from the fabric, a line or translation that is replaced, an error that appears in a granule. -/
inductive Turn where
  | issue (core : Nat)
  | event (i : Instr)
  | tick (ns frac : Nat)
  | inject (m : Msg)
  | dropLine (core n : Nat)
  | dropTlb (core n : Nat)
  /-- a line of a remote read cache has an error (R68): it is invalidated, and refetched when next read -/
  | dropRemote (core n : Nat)
  | softError (key : Nat)
  /-- the next instruction that the core issues reads a register with an uncorrectable error -/
  | registerError (core : Nat)
  | cxlCapacity (port bytes : Nat)
  /-- a correctable error is corrected on read (R67) -/
  | corrected (part : Nat)
  /-- the fabric has taken the first message of the outbox, and it is acknowledged -/
  | sent
  /-- the fabric has a live route to a peer, or has none (R265) -/
  | peerRoute (chip : Nat) (live : Bool)
  /-- the host sizes a function's BAR4 to 2^n GiB (R256) -/
  | aperture (part n : Nat)
  /-- the host sets a function's MSI-X enable and function mask (R262) -/
  | msixControl (part : Nat) (on mask : Bool)
  /-- the eight words of a timing flit or PTP message that a port receives (R214, R215) -/
  | timing (port : Nat) (flit : List Nat)
  /-- the header and words of a kind-6 message that a fabric port receives (R216) -/
  | floeMessage (words : List Word)
  /-- firmware permits the package to be a PTP grandmaster, or does not (R214) -/
  | grandmaster (permitted : Bool)
  /-- the body of a job pauses after so many accesses, and other parties' writes may come between (R105) -/
  | pauseBody (job accesses : Nat)
deriving DecidableEq, Repr

/-- One Z4 package. -/
structure State where
  cur     : Nat
  ctxs    : Tbl Ctx
  cores   : Tbl Core
  clusters : Tbl Cluster
  mem     : List Host.Cell
  tags    : List Nat
  errors  : List Nat
  stores  : List Posted
  mesh    : List Msg
  jobs    : Tbl Job
  fills   : Tbl (Nat × Job)
  gens    : Tbl (BitVec 32)
  notices : List (Nat × Nat × BitVec 32)
  tvec    : Tbl Word
  bindings : List Binding
  parts   : Tbl Part
  slots   : Tbl Slot
  launches : Tbl Launch
  images  : Tbl Image
  floes   : Tbl Floe
  heldFloe : List FloeMsg
  /-- kind-6 messages of this chip to itself -/
  localFloe : List FloeMsg
  domains : Tbl Domain
  decrements : List Decrement
  time    : TimeUnit
  pkg     : Package
  outbox  : List Fabric
  /-- V cycles at the domain's maximum frequency: the ticks against which each island's V cycles are counted (R17, R20) -/
  vcycle  : Nat
  /-- the cycles of the package's N and B islands so far, each in units of 2^-16/160 of a cycle (R17, R20) -/
  nTime   : Nat
  bTime   : Nat
  /-- the cores that have had their issue in this tick -/
  issued  : List Nat
  /-- the tick has had its issues: what falls at its end has begun (R101) -/
  closed  : Bool
  portQueue : List PortWrite
  undo    : Option Undo
  nextId  : Nat
  free    : Nat
  turns   : List Turn
deriving DecidableEq, Repr

/-- The package right after reset: no launch, every context idle, memory unlisted. -/
def State.reset : State where
  cur := 0
  ctxs := []
  cores := []
  clusters := []
  mem := []
  tags := []
  errors := []
  stores := []
  mesh := []
  jobs := []
  fills := []
  gens := []
  notices := []
  tvec := []
  bindings := []
  parts := []
  slots := []
  launches := []
  images := []
  floes := []
  heldFloe := []
  localFloe := []
  domains := []
  decrements := []
  time := {}
  pkg := {}
  outbox := []
  vcycle := 0
  nTime := 0
  bTime := 0
  issued := []
  closed := false
  portQueue := []
  undo := none
  nextId := 1
  free := 0
  turns := []

end Sys2Proof.Machine
end

