-- ==== Sys2Proof/Machine/Access.lean ====
section
/-!
DEFINITION. Sys2Proof/Machine/Access.lean: bit-field helpers, coordinates, and the one place where each register of
a thread, context, core or partition is read and written.
-/

namespace Sys2Proof.Machine

open Sys2Proof

/-- What a step answers. -/
abbrev Out := Host.Outcome State Fault Refusal

/-! ## Bits (R2) -/

/-- Bits [lo+len-1:lo] of a number. -/
def natBits (w lo len : Nat) : Nat := w / 2 ^ lo % 2 ^ len

/-- Bits [lo+len-1:lo] of a word, as a number. -/
def wbits (w : Word) (lo len : Nat) : Nat := natBits w.toNat lo len

/-- Bit `i` of a word. -/
def wbit (w : Word) (i : Nat) : Bool := w.getLsbD i

/-- `x` shifted to bit `lo`. -/
def field (x lo : Nat) : Nat := x * 2 ^ lo

/-- The number as a 64-bit word. -/
def w64 (n : Nat) : Word := BitVec.ofNat 64 n

/-- SignExtend of the low `n` bits (R7). -/
def signExtendN (n : Nat) (x : Nat) : Word := (BitVec.ofNat n x).signExtend 64

/-- x rounded up to a multiple of n. -/
def roundUp (x n : Nat) : Nat := (x + n - 1) / n * n

def ceilDiv (x n : Nat) : Nat := (x + n - 1) / n

/-- The numbers from `a`, `n` of them. -/
def upFrom (a : Nat) : Nat → List Nat
  | 0 => []
  | n + 1 => a :: upFrom (a + 1) n

/-! ## Coordinates (R13) -/

def coreOfCtx (ctx : Nat) : Nat := ctx / 4
def ctxOf (core c : Nat) : Nat := core * 4 + c
def dieOf (core : Nat) : Nat := core / 576
def rowOf (core : Nat) : Nat := core / 24 % 24
def colOf (core : Nat) : Nat := core % 24
def clusterOf (core : Nat) : Nat := core / 24
def cellOf (core : Nat) : Nat := core / 8
def posOf (core : Nat) : Nat := core % 8
def coreAt (die row col : Nat) : Nat := die * 576 + row * 24 + col
def userCtxs (core : Nat) : List Nat := [core * 4, core * 4 + 1, core * 4 + 2]
def svcCtx (core : Nat) : Nat := core * 4 + 3

/-- The cores of a cell, in position order. -/
def cellCores (cell : Nat) : List Nat := upFrom (cell * 8) 8

/-- The user contexts of a cell. -/
def cellCtxs (cell : Nat) : List Nat := (cellCores cell).flatMap userCtxs

/-- MESHID of a context (R276). -/
def meshId (chip ctx : Nat) : BitVec 32 :=
  let core := coreOfCtx ctx
  BitVec.ofNat 32 (field chip 14 + field (dieOf core) 12 + field (rowOf core) 7 + field (colOf core) 2 + ctx % 4)

/-- The context index that a MESHID of this chip names. -/
def ctxOfMesh (m : BitVec 32) : Nat :=
  let n := m.toNat
  ctxOf (coreAt (natBits n 12 2) (natBits n 7 5) (natBits n 2 5)) (natBits n 0 2)

/-- The global scratchpad address of offset `off` of a core (R66); it is also the byte's memory key. -/
def spadKey (core off : Nat) : Nat :=
  0x0010000000000000 + dieOf core * 2 ^ 42 + rowOf core * 2 ^ 37 + colOf core * 2 ^ 32 + off

def glacierKey (die off : Nat) : Nat := 0x0020000000000000 + die * 2 ^ 42 + off

/-- The memory key of a weight-buffer byte of a cell (cell index = core index / 8). -/
def wbufKey (cell off : Nat) : Nat :=
  0x0030000000000000 + (cell / 72) * 2 ^ 42 + (cell / 3 % 24) * 2 ^ 37 + (cell % 3) * 2 ^ 32 + off

/-- The memory key of a byte of host memory at a bus address (R127). -/
def hostKey (bus : Nat) : Nat := 2 ^ 60 + bus

/-- Is the key a scratchpad byte's? -/
def isSpadKey (k : Nat) : Bool := k / 2 ^ 52 == 1
def isGlacierKey (k : Nat) : Bool := k / 2 ^ 52 == 2
def isHostKey (k : Nat) : Bool := 2 ^ 60 ≤ k

/-- The core whose scratchpad holds the key. -/
def coreOfKey (k : Nat) : Nat := coreAt (natBits k 42 2) (natBits k 37 5) (natBits k 32 5)

/-! ## Tables of State -/

def State.ctx (s : State) (k : Nat) : Ctx := s.ctxs.get {} k
def State.setCtx (s : State) (k : Nat) (c : Ctx) : State := { s with ctxs := s.ctxs.insert k c }
def State.thAt (s : State) (k : Nat) : Thread := (s.ctx k).th
def State.setThAt (s : State) (k : Nat) (t : Thread) : State := s.setCtx k { s.ctx k with th := t }
/-- The thread (or flake) of the context that executes. -/
def State.th (s : State) : Thread := s.thAt s.cur
def State.setTh (s : State) (t : Thread) : State := s.setThAt s.cur t
def State.core (s : State) (k : Nat) : Core := s.cores.get {} k
def State.setCore (s : State) (k : Nat) (c : Core) : State := { s with cores := s.cores.insert k c }
/-- The core that executes. -/
def State.me (s : State) : Nat := coreOfCtx s.cur
def State.part (s : State) (p : Nat) : Part := s.parts.get {} p
def State.setPart (s : State) (p : Nat) (x : Part) : State := { s with parts := s.parts.insert p x }
def State.cluster (s : State) (k : Nat) : Cluster := s.clusters.get {} k
def State.setCluster (s : State) (k : Nat) (c : Cluster) : State := { s with clusters := s.clusters.insert k c }
def State.setLaunch (s : State) (l : Launch) : State := { s with launches := s.launches.insert l.lid l }
/-- Change the newest image set of a launch. -/
def State.onImage (s : State) (l : Launch) (f : Image → Image) : State :=
  match l.lastImage with
  | none => s
  | some k => match s.images.look? k with
    | none => s
    | some i => { s with images := s.images.insert k (f i) }
def State.setFloe (s : State) (f : Floe) : State := { s with floes := s.floes.insert f.id f }
def State.setDomain (s : State) (k : Nat) (d : Domain) : State := { s with domains := s.domains.insert k d }
def State.setJob (s : State) (k : Nat) (j : Job) : State := { s with jobs := s.jobs.insert k j }

/-- A number no other job, message, store or launch has. -/
def State.fresh (s : State) : Nat × State := (s.nextId, { s with nextId := s.nextId + 1 })

/-- The next free value, and the state that has used it. -/
def State.takeFree (s : State) : Nat × State := (s.free, { s with free := s.free + 1 })

def Ctx.isRunning (c : Ctx) : Bool := match c.mode with | .running => true | _ => false
def Ctx.isIdle (c : Ctx) : Bool := match c.mode with | .idle => true | _ => false

/-- A user context with no thread and none on its way in (R23). -/
def State.idleCtx? (s : State) (core : Nat) : Option Nat := (userCtxs core).find? fun k => (s.ctx k).isIdle

/-- The running context that holds a thread. -/
def State.ctxOfTid (s : State) (part tid : Nat) : Option Nat :=
  (s.ctxs.find? fun p => p.2.isRunning && p.2.th.tid == tid && p.2.th.part == part && p.1 % 4 != 3).map (·.1)

/-! ## Scalar registers and tokens (R274, R81) -/

/-- A scalar register; s0 reads zero. -/
def Thread.S (t : Thread) (r : Nat) : Word := if r = 0 then 0 else t.s.get 0 r

/-- Write a scalar register: a write to s0 is discarded, and any other replaces a token the register held. -/
def Thread.setS (t : Thread) (r : Nat) (v : Word) : Thread :=
  if r = 0 then t
  else { t with s := t.s.insert r v, tok := t.tok.erase r, dirty := t.dirty ||| BitVec.ofNat 65 (2 ^ r) }

def Thread.token (t : Thread) (r : Nat) : Tok := t.tok.get .none r

def Thread.pending (t : Thread) (r : Nat) : Bool := match t.token r with | .pending _ => true | _ => false
def Thread.unread (t : Thread) (r : Nat) : Bool := match t.token r with | .done _ => true | _ => false

/-- A completed token whose status is a failure (R82). -/
def Thread.failedToken (t : Thread) (r : Nat) : Bool :=
  t.unread r && decide (1 ≤ wbits (t.S r) 56 8 ∧ wbits (t.S r) 56 8 ≤ 6)

/-! ## Masks, lanes, capabilities (R274, R415) -/

/-- A mask register; m0 reads all-true. -/
def Thread.M (t : Thread) (k : Nat) : BitVec 256 := if k = 0 then BitVec.allOnes 256 else t.m.get 0 k

def Thread.setM (t : Thread) (k : Nat) (v : BitVec 256) : Thread :=
  if k = 0 then t else { t with m := t.m.insert k v, dirty := t.dirty ||| BitVec.ofNat 65 (2 ^ (32 + k)) }

/-- The number of lanes granted: 32 for each slab held (R160). -/
def Thread.grant (t : Thread) : Nat := 32 * ((upFrom 0 8).filter fun h => t.slabs.getLsbD h).length

/-- Lane `e` of a vector register; a lane at or above the grant reads zero (R163). -/
def Thread.lane (t : Thread) (r e : Nat) : BitVec 32 := if e < t.grant then t.v.get 0 (r * 256 + e) else 0

def Thread.setLane (t : Thread) (r e : Nat) (x : BitVec 32) : Thread :=
  { t with v := t.v.insert (r * 256 + e) x, dirty := t.dirty ||| BitVec.ofNat 65 (2 ^ (48 + r)) }

def Thread.cap (t : Thread) (k : Nat) : Cap := t.c.get {} k

def Thread.setCap (t : Thread) (k : Nat) (x : Cap) : Thread :=
  { t with c := t.c.insert k x, dirty := t.dirty ||| BitVec.ofNat 65 (2 ^ (40 + k)) }

/-- Mark the state-register group written (R250). -/
def Thread.srDirty (t : Thread) : Thread := { t with dirty := t.dirty ||| BitVec.ofNat 65 (2 ^ 64) }

/-! ## Immediates, the instruction's own address, and completion (R278, R284) -/

/-- The address of the instruction word itself: after an IMX, the follower's. -/
def Thread.at_ (t : Thread) : Word := match t.imx with | some _ => t.pc + 4 | none => t.pc

/-- The signed immediate of an I or S form, extended by a preceding IMX (R283). -/
def Thread.imm14 (t : Thread) (i : BitVec 14) : Word :=
  match t.imx with
  | some x => (x ++ i).signExtend 64
  | none => i.signExtend 64

/-- The signed immediate of a J form (R283). -/
def Thread.imm19 (t : Thread) (i : BitVec 19) : Word :=
  match t.imx with
  | some x => (x ++ i).signExtend 64
  | none => i.signExtend 64

/-- Complete at the next instruction: an IMX pair counts as one instruction (R284). -/
def Thread.retireTo (t : Thread) (pc : Word) : Thread :=
  { t with pc := pc, imx := none, wait := .ready, latch := [], acquired := [], done := t.done + 1 }

def Thread.retire (t : Thread) : Thread := t.retireTo (t.at_ + 4)

/-- The state after the executing instruction completes. -/
def State.retire (s : State) : State := s.setTh s.th.retire

/-- Write one scalar register and complete. -/
def State.finishS (s : State) (d : Nat) (v : Word) : State := s.setTh (s.th.setS d v).retire

/-- The context waits; the instruction executes again when the wait is over. -/
def Thread.sleepOn (t : Thread) (w : Wait) : Thread := { t with wait := w, imx := none }

/-- The executing instruction has read these words: should it wait now, it does not read them again. -/
def State.latched (s : State) (ws : List Word) : State := s.setTh { s.th with latch := ws }

/-! ## Flurry (R137, R138) -/

def flurry (key counter : Word) : Word :=
  let z := key ^^^ (counter * 0x9E3779B97F4A7C15)
  let z := (z ^^^ (z >>> 31)) * 0xBF58476D1CE4E5B9
  let z := (z ^^^ (z >>> 27)) * 0x94D049BB133111EB
  z ^^^ (z >>> 31)

/-- A context's next Flurry word; the counter advances. -/
def Thread.flurry (t : Thread) : Word × Thread :=
  (Machine.flurry t.srseed t.flurcnt, { t.srDirty with flurcnt := t.flurcnt + 1 })

/-! ## Clocked islands (R17-R20) -/

/-- The lowest permitted tuple (R201). -/
def lowestSteps : Steps := ⟨4, 4, 4, 7⟩

/-- The lower of two tuples in each domain. -/
def Steps.min (a b : Steps) : Steps := ⟨Nat.min a.m b.m, Nat.min a.v b.v, Nat.min a.n b.n, Nat.min a.b b.b⟩

/-- The tuple at which a partition's islands run: in a transition, the lower of its old and new rates (R206). -/
def Part.rate (p : Part) : Steps := match p.moving with | some m => p.steps.min m.steps | none => p.steps

/-- The partitions with a thread or a job on a cluster. -/
def State.usersOf (s : State) (cluster : Nat) : List Nat :=
  ((s.ctxs.filter fun c => c.2.isRunning && clusterOf (coreOfCtx c.1) == cluster).map (·.2.th.part)) ++
    (s.jobs.filter fun j => clusterOf j.2.core == cluster).map (·.2.part)

/-- The step of a domain on a compute die's island: a cluster's island runs at the lowest rate granted to a partition
with a thread or a job on the cluster, and otherwise at its own partition's (DESIGN CHOICE, log 29). -/
def State.islandStep (s : State) (pick : Steps → Nat) (cluster : Nat) : Nat :=
  match s.usersOf cluster with
  | [] => match s.parts.find? fun p => p.2.clusters.getLsbD cluster with
    | some p => pick p.2.rate
    | none => pick {}
  | users => users.foldl (fun n p => Nat.min n (pick (s.part p).rate)) 16

/-- The step of a domain on a near-tier or far-tier island: the highest rate granted to a launch that runs; with none
running, the step of the lowest permitted tuple (DESIGN CHOICE, log 29). -/
def State.sharedStep (s : State) (pick : Steps → Nat) : Nat :=
  s.launches.foldl (fun n l => if l.2.state = .running then max n (pick (s.part l.2.part).rate) else n)
    (pick lowestSteps)

/-- Does an island at a step have a cycle in a tick of its domain's maximum frequency? Of any 16 ticks in a row it has
as many as its step says (R200). -/
def beatsAt (step tick : Nat) : Bool := decide ((tick + 1) * step / 16 > tick * step / 16)

/-- Has a core a V cycle in this tick? -/
def State.beats (s : State) (core : Nat) : Bool := beatsAt (s.islandStep (·.v) (clusterOf core)) s.vcycle

/-- Cycles of the package's N islands, whose maximum is 3.2 GHz, up to now: the group directories' instants. -/
def State.nCycle (s : State) : Nat := s.nTime / (160 * 65536)

/-- Cycles of the package's B islands, whose maximum is 2.0 GHz, up to now. -/
def State.bCycle (s : State) : Nat := s.bTime / (160 * 65536)

/-- The islands' cycles go on for a time in units of 2^-16 ns. -/
def State.countCycles (s : State) (d : Nat) : State :=
  { s with nTime := s.nTime + d * (32 * s.sharedStep (·.n)), bTime := s.bTime + d * (20 * s.sharedStep (·.b)) }

/-! ## Partition membership (R255) -/

def State.hasCluster (s : State) (p cl : Nat) : Bool := (s.part p).clusters.getLsbD cl
def State.hasCore (s : State) (p core : Nat) : Bool := s.hasCluster p (clusterOf core)
def State.hasGlacier (s : State) (p die : Nat) : Bool := (s.part p).glshare.getLsbD die
/-- The partition that holds a cluster. -/
def State.partOfCore (s : State) (core : Nat) : Option Nat :=
  (s.parts.find? fun p => p.2.clusters.getLsbD (clusterOf core)).map (·.1)

/-- A word of the MSI-X table: vectors are masked from reset, as PCIe has it (PRESUMED, log 21). -/
def Part.msixWord (p : Part) (i : Nat) : Word := p.msixTable.get (if i % 2 = 1 then 0x100000000 else 0) i

/-- Is a peer declared down (R265)? -/
def Package.isDown (p : Package) (chip : Nat) : Bool :=
  chip != p.chip && (p.down.contains chip || (p.allDown && !p.cleared.contains chip))

/-- A vector is masked by itself, by its function, or while the function's MSI-X is off (PRESUMED, log 21). -/
def Part.msixMasked (p : Part) (v : Nat) : Bool := !p.msixOn || p.msixMask || wbit (p.msixWord (2 * v + 1)) 32

/-- Raise an MSI-X vector of a partition's function (R262): a masked one is pending. -/
def State.msix (s : State) (p v : Nat) : State :=
  let x := s.part p
  if x.msixMasked v then s.setPart p { x with msix := x.msix ||| BitVec.ofNat 16 (2 ^ v) }
  else { s with outbox := s.outbox ++ [Fabric.msix p v (x.msixWord (2 * v)) (w64 (wbits (x.msixWord (2 * v + 1)) 0 32))] }

/-- The two physical functions raise a vector. -/
def State.msixPhysical (s : State) (v : Nat) : State := (s.msix 0 v).msix 16 v

end Sys2Proof.Machine
end

