-- ==== Sys2Proof/Machine/Memory.lean ====
section
/-!
DEFINITION. Sys2Proof/Machine/Memory.lean: memory as a canonical list of bytes by key, the landing of a write at its
owner (tags, dirty lines, WFE), and the remote read cache.
-/

namespace Sys2Proof.Machine

open Sys2Proof

/-! ## Bytes -/

/-- What a byte that nothing has written reads as (DESIGN CHOICE, log 2). -/
def unlistedByte : Byte := 0

def Memory.read1 (m : List Host.Cell) (k : Nat) : Byte := Tbl.get unlistedByte m k

def Memory.write1 (m : List Host.Cell) (k : Nat) (b : Byte) : List Host.Cell :=
  if b = unlistedByte then Tbl.erase m k else Tbl.insert m k b

/-- Keys rise strictly, and no entry holds what an unlisted byte reads as. -/
def Memory.wf (m : List Host.Cell) : Bool :=
  decide (m.Pairwise fun a b => a.1 < b.1) && m.all fun c => c.2 != unlistedByte

def Memory.readBytes (m : List Host.Cell) (k : Nat) : Nat → List Byte
  | 0 => []
  | n + 1 => Memory.read1 m k :: Memory.readBytes m (k + 1) n

def Memory.writeBytes (m : List Host.Cell) (k : Nat) : List Byte → List Host.Cell
  | [] => m
  | b :: bs => Memory.writeBytes (Memory.write1 m k b) (k + 1) bs

/-- A little-endian number (R2). -/
def leNat : List Byte → Nat
  | [] => 0
  | b :: bs => b.toNat + 256 * leNat bs

/-- The `n` little-endian bytes of a number. -/
def leBytes : Nat → Nat → List Byte
  | 0, _ => []
  | n + 1, x => BitVec.ofNat 8 x :: leBytes n (x / 256)

def Memory.readLE (m : List Host.Cell) (k n : Nat) : Nat := leNat (Memory.readBytes m k n)
def Memory.writeLE (m : List Host.Cell) (k n x : Nat) : List Host.Cell := Memory.writeBytes m k (leBytes n x)

/-- The `n` bytes at a memory key. -/
def State.peek (s : State) (k n : Nat) : Nat := Memory.readLE s.mem k n

/-! ## Landing at the owner -/

/-- Do [a, a+n) and [b, b+m) share a byte? -/
def overlaps (a n b m : Nat) : Bool := decide (a < b + m ∧ b < a + n)

/-- R122: any write but CST clears the tags of the granules it touches. -/
def clearTags (tags : List Nat) (k n : Nat) : List Nat := tags.filter fun g => !overlaps g 16 k n

/-- R67: the 256-byte lines of a scratchpad write become dirty. -/
def markLines (d : List Nat) (k n : Nat) : List Nat :=
  let first := natBits k 0 17 / 256
  let last := natBits (k + n - 1) 0 17 / 256
  (upFrom first (last + 1 - first)).foldl (fun d i => if d.contains i then d else i :: d) d

def State.markDirty (s : State) (k n : Nat) : State :=
  if isSpadKey k && n != 0 then
    let c := coreOfKey k
    s.setCore c { s.core c with dirty := markLines (s.core c).dirty k n }
  else s

/-- R442: a write that lands on any byte of a WFE's word wakes it with the word as the write left it. -/
def wakeWfe (m : List Host.Cell) (k n : Nat) (c : Ctx) : Ctx :=
  match c.th.wait with
  | .wfe w => if overlaps w 8 k n then { c with th := { c.th with wait := .wfeHit (w64 (Memory.readLE m w 8)) } } else c
  | _ => c

/-- The write of `bytes` at a memory key lands. A granule written whole holds no error any more (DESIGN CHOICE,
log 7). -/
def State.land (s : State) (k : Nat) (bytes : List Byte) : State :=
  let m := Memory.writeBytes s.mem k bytes
  ({ s with
      mem := m
      tags := clearTags s.tags k bytes.length
      errors := s.errors.filter fun g => !decide (k ≤ g ∧ g + 16 ≤ k + bytes.length)
      ctxs := s.ctxs.mapVal fun _ c => wakeWfe m k bytes.length c } : State).markDirty k bytes.length

/-- A number lands as `n` little-endian bytes. -/
def State.landLE (s : State) (k n x : Nat) : State := s.land k (leBytes n x)

/-- CST's landing: 16 bytes and their tag at one granule (R122). -/
def State.landTagged (s : State) (k : Nat) (bytes : List Byte) (tag : Bool) : State :=
  let s := s.land k bytes
  if tag then { s with tags := k :: s.tags } else s

/-! ## Errors (R67, R245) -/

/-- A granule with an uncorrectable error among the bytes of a read. -/
def State.badGranule? (s : State) (k n : Nat) : Option Nat := s.errors.find? fun g => overlaps g 16 k n

/-! ## The remote read cache (R68) -/

def lineOf (k : Nat) : Nat := k / 64 * 64

/-- The set that a line belongs to, of 32: the line number modulo 32 (DESIGN CHOICE, log 88). -/
def rrcSet (line : Nat) : Nat := line / 64 % 32

def rrcLookup (c : Core) (k : Nat) : Option RrcLine := c.rrc.find? fun l => l.key == lineOf k

/-- Bytes of a line. -/
def RrcLine.read (l : RrcLine) (k n : Nat) : Nat := leNat ((l.bytes.drop (k - l.key)).take n)

/-- A line moves to the front of its set's use order. -/
def rrcTouch (c : Core) (l : RrcLine) : Core := { c with rrc := l :: c.rrc.filter fun x => x.key != l.key }

/-- Fill a line: the least recently used of a full set of four leaves. -/
def rrcFill (c : Core) (l : RrcLine) : Core :=
  let rest := c.rrc.filter fun x => x.key != l.key
  let same := rest.filter fun x => rrcSet x.key == rrcSet l.key
  let out := if same.length ≥ 4 then same.getLast? else none
  { c with rrc := l :: rest.filter fun x => some x.key != out.map (·.key) }

/-- The whole cache is emptied at an acquire. -/
def State.rrcInvalidate (s : State) (core : Nat) : State :=
  if (s.core core).rrc.isEmpty then s else s.setCore core { s.core core with rrc := [] }

def State.rrcDrop (s : State) (core k : Nat) : State :=
  s.setCore core { s.core core with rrc := (s.core core).rrc.filter fun x => x.key != lineOf k }

/-- Replace bytes of a list from an index. -/
def splice (old : List Byte) (i : Nat) (new : List Byte) : List Byte :=
  old.take i ++ new ++ old.drop (i + new.length)

/-- The bytes of an access at its owner, by a global address: a line that holds them is dropped, so that no later load of
the core returns older ones (R95, R96). -/
def State.dropAt (s : State) (addr : Word) : State :=
  if addr.toNat < 0x20000 then s else s.rrcDrop s.me addr.toNat

/-- A store to a neighbour updates a present line's named bytes; it is no use of the line for the replacement order
(DESIGN CHOICE, log 88). -/
def State.rrcUpdate (s : State) (core k : Nat) (bytes : List Byte) : State :=
  match rrcLookup (s.core core) k with
  | none => s
  | some l =>
    s.setCore core { s.core core with
      rrc := (s.core core).rrc.map fun x =>
        if x.key == l.key then { x with bytes := splice x.bytes (k - x.key) bytes } else x }

/-- The executing thread's posted stores to its own scratchpad are ordered before its later alias accesses (R99). -/
def State.orderStores (s : State) : List Posted :=
  s.stores.map fun p =>
    if p.ctx == s.cur && p.tid == s.th.tid && p.part == s.th.part then { p with ordered := true } else p

/-- What an acquire changes, as it stands: an instruction's first acquire keeps it for a trap (R234). -/
def State.keepUndo (s : State) : Option Undo :=
  match s.undo with
  | some u => some u
  | none => some ⟨(s.core s.me).rrc, s.stores⟩

/-- An acquire of the executing context (R68): the core's remote read cache is emptied, and the thread's stores are
ordered. -/
def State.acquire (s : State) : State :=
  { s.rrcInvalidate s.me with stores := s.orderStores, undo := s.keepUndo }

/-- A trap of the executing instruction puts back what its acquire has changed: it has had no effect (R234). -/
def State.undone (s : State) : State :=
  match s.undo with
  | none => s
  | some u =>
    { s.setCore s.me { s.core s.me with rrc := u.rrc } with stores := u.stores, undo := none }

/-- The executing context waits. What its instruction has acquired is put back (R234): it acquires when it goes on. -/
def State.sleep (s : State) (w : Wait) : State := s.undone.setTh (s.th.sleepOn w)

/-- A context's instruction that waited completes without executing again: the tokens that it has read for the first time
are acquired now (R81). -/
def State.acquireLate (s : State) (k : Nat) : State :=
  if (s.thAt k).acquired.isEmpty then s
  else { ({ s with cur := k } : State).acquire with cur := s.cur, undo := s.undo }

/-- A context whose instruction waited completes it with these registers. -/
def State.retireAt (s : State) (k : Nat) (t : Thread) : State := (s.acquireLate k).setThAt k t.retire

/-- A completed token is read for the first time. -/
def Thread.consume (t : Thread) (r : Nat) : Thread :=
  if t.unread r then { t with tok := t.tok.erase r, acquired := t.acquired.insert r (t.token r) } else t

/-- The tokens that the executing instruction has read are unread again. -/
def Thread.unconsume (t : Thread) : Thread :=
  { t with tok := t.acquired.foldl (fun k x => k.insert x.1 x.2) t.tok, acquired := [] }

/-- R81, R82: reading scalar registers as operands. A completed token's first read is an acquire (DEDUCED, log 45), and so
is the instruction's next attempt where it has waited since. -/
def State.consumeTokens (s : State) (reads : List Nat) : State :=
  if reads.any s.th.unread || !s.th.acquired.isEmpty then
    s.acquire.setTh (reads.foldl Thread.consume s.th)
  else s

end Sys2Proof.Machine
end

