-- ==== Sys2Proof/Decode.lean ====
section
/-!
DEFINITION. Sys2Proof/Decode.lean: reading an instruction word (R278, R280, R294-R301), total on any word and
rejecting by name; the encoder, written from the same tables; and the checks of R296 step 4 that a word whose fixed
fields are right must still pass.
-/

namespace Sys2Proof

open Sys2Proof.Machine

/-- Why a word is no instruction (R279): a field that the named instruction does not use is nonzero, or a sub-code is
one that the opcode map leaves unassigned. Either traps ILLEGAL. -/
inductive Reject where
  | fixedField (mnemonic : String)
  | subCode (mnemonic : String)
  | shortWord
deriving DecidableEq, Repr

/-- The `n` bits of a word from bit `lo` up. -/
def fld (n w lo : Nat) : BitVec n := BitVec.ofNat n (w / 2 ^ lo)

/-- Accept an instruction whose fixed fields are right. -/
def fixedOk (ok : Bool) (mnemonic : String) (i : Instr) : Except Reject Instr :=
  if ok then .ok i else .error (.fixedField mnemonic)

/-- FENCE by its kind (R298). -/
def decodeFence (w : Nat) : Except Reject Instr :=
  if w / 2 ^ 5 % 2 ^ 4 = 0 then fixedOk (decide (w / 2 ^ 3 % 2 ^ 16 = 0)) "FENCE" (.fence (fld 5 w 19) (fld 3 w 0))
  else if w / 2 ^ 5 % 2 ^ 4 = 1 then fixedOk (decide (w / 2 ^ 3 % 2 ^ 16 = 4)) "FENCE_REL" (.fenceRel (fld 5 w 19) (fld 3 w 0))
  else if w / 2 ^ 5 % 2 ^ 4 = 2 then fixedOk (decide (w / 2 ^ 3 % 2 ^ 16 = 8)) "FENCE_ACQ" (.fenceAcq (fld 5 w 19) (fld 3 w 0))
  else .error (.subCode "FENCE")

/-- ATOM: scope code 7 is the capability form (R282). -/
def decodeAtom (w : Nat) : Except Reject Instr :=
  if w % 2 ^ 3 = 7 then .ok (.atomCap (fld 5 w 19) (fld 5 w 14) (fld 5 w 9) (fld 4 w 5) (fld 2 w 3))
  else .ok (.atom (fld 5 w 19) (fld 5 w 14) (fld 5 w 9) (fld 4 w 5) (fld 2 w 3) (fld 3 w 0))

/-- CAS: scope code 7 is the capability form (R282). -/
def decodeCas (w : Nat) : Except Reject Instr :=
  if w % 2 ^ 3 = 7 then fixedOk (decide (w % 2 ^ 3 = 7 ∧ w / 2 ^ 5 % 2 ^ 4 = 0)) "CAS_CAP" (.casCap (fld 5 w 19) (fld 5 w 14) (fld 5 w 9) (fld 2 w 3))
  else fixedOk (decide (w / 2 ^ 5 % 2 ^ 4 = 0)) "CAS" (.cas (fld 5 w 19) (fld 5 w 14) (fld 5 w 9) (fld 2 w 3) (fld 3 w 0))

/-- GBAR by F[0] (R350). -/
def decodeGbar (w : Nat) : Except Reject Instr :=
  if w % 2 ^ 1 = 1 then fixedOk (decide (w % 2 ^ 14 = 1)) "GBAR_GROUP" (.gbarGroup (fld 5 w 19) (fld 5 w 14))
  else fixedOk (decide (w % 2 ^ 24 = 0)) "GBAR_WIRED" (.gbarWired)

/-- GENDRAIN accepts scopes 1 and 3 only (R298). -/
def decodeGendrain (w : Nat) : Except Reject Instr :=
  if w % 2 ^ 3 = 1 then fixedOk (decide (w % 2 ^ 24 = 1)) "GENDRAIN_CL" (.gendrainCl)
  else if w % 2 ^ 3 = 3 then fixedOk (decide (w % 2 ^ 24 = 3)) "GENDRAIN_PK" (.gendrainPk)
  else .error (.subCode "GENDRAIN")

/-- TIMERD by F (R410). -/
def decodeTimerd (w : Nat) : Except Reject Instr :=
  if w % 2 ^ 1 = 0 then fixedOk (decide (w % 2 ^ 19 = 0)) "TIMERD_TIME" (.timerdTime (fld 5 w 19))
  else fixedOk (decide (w % 2 ^ 19 = 1)) "TIMERD_STATUS" (.timerdStatus (fld 5 w 19))

/-- Opcodes 0x00 to 0x0F (R294), by their low digit. -/
def decodeRow0 (lo w : Nat) : Except Reject Instr :=
  match lo with
  | 1 => fixedOk (decide (w % 2 ^ 9 = 0)) "ADD" (.add (fld 5 w 19) (fld 5 w 14) (fld 5 w 9))
  | 2 => fixedOk (decide (w % 2 ^ 9 = 0)) "SUB" (.sub (fld 5 w 19) (fld 5 w 14) (fld 5 w 9))
  | 3 => fixedOk (decide (w % 2 ^ 9 = 0)) "MUL" (.mul (fld 5 w 19) (fld 5 w 14) (fld 5 w 9))
  | 4 => fixedOk (decide (w % 2 ^ 9 = 0)) "MULH" (.mulh (fld 5 w 19) (fld 5 w 14) (fld 5 w 9))
  | 5 => fixedOk (decide (w % 2 ^ 9 = 0)) "MULHU" (.mulhu (fld 5 w 19) (fld 5 w 14) (fld 5 w 9))
  | 6 => fixedOk (decide (w % 2 ^ 9 = 0)) "DIV" (.div (fld 5 w 19) (fld 5 w 14) (fld 5 w 9))
  | 7 => fixedOk (decide (w % 2 ^ 9 = 0)) "DIVU" (.divu (fld 5 w 19) (fld 5 w 14) (fld 5 w 9))
  | 8 => fixedOk (decide (w % 2 ^ 9 = 0)) "REM" (.rem (fld 5 w 19) (fld 5 w 14) (fld 5 w 9))
  | 9 => fixedOk (decide (w % 2 ^ 9 = 0)) "REMU" (.remu (fld 5 w 19) (fld 5 w 14) (fld 5 w 9))
  | 10 => fixedOk (decide (w % 2 ^ 9 = 0)) "AND" (.and (fld 5 w 19) (fld 5 w 14) (fld 5 w 9))
  | 11 => fixedOk (decide (w % 2 ^ 9 = 0)) "OR" (.or (fld 5 w 19) (fld 5 w 14) (fld 5 w 9))
  | 12 => fixedOk (decide (w % 2 ^ 9 = 0)) "XOR" (.xor (fld 5 w 19) (fld 5 w 14) (fld 5 w 9))
  | 13 => fixedOk (decide (w % 2 ^ 9 = 0)) "SHL" (.shl (fld 5 w 19) (fld 5 w 14) (fld 5 w 9))
  | 14 => fixedOk (decide (w % 2 ^ 9 = 0)) "SHR" (.shr (fld 5 w 19) (fld 5 w 14) (fld 5 w 9))
  | 15 => fixedOk (decide (w % 2 ^ 9 = 0)) "SRA" (.sra (fld 5 w 19) (fld 5 w 14) (fld 5 w 9))
  | _ => .ok (.unassignedOpcode (BitVec.ofNat 32 w))

/-- Opcodes 0x10 to 0x1F (R294), by their low digit. -/
def decodeRow1 (lo w : Nat) : Except Reject Instr :=
  match lo with
  | 0 => fixedOk (decide (w % 2 ^ 9 = 0)) "SLT" (.slt (fld 5 w 19) (fld 5 w 14) (fld 5 w 9))
  | 1 => fixedOk (decide (w % 2 ^ 9 = 0)) "SLTU" (.sltu (fld 5 w 19) (fld 5 w 14) (fld 5 w 9))
  | 2 => fixedOk (decide (w % 2 ^ 9 = 0)) "MIN" (.min (fld 5 w 19) (fld 5 w 14) (fld 5 w 9))
  | 3 => fixedOk (decide (w % 2 ^ 9 = 0)) "MAX" (.max (fld 5 w 19) (fld 5 w 14) (fld 5 w 9))
  | 4 => fixedOk (decide (w % 2 ^ 9 = 0)) "MINU" (.minu (fld 5 w 19) (fld 5 w 14) (fld 5 w 9))
  | 5 => fixedOk (decide (w % 2 ^ 9 = 0)) "MAXU" (.maxu (fld 5 w 19) (fld 5 w 14) (fld 5 w 9))
  | 6 => fixedOk (decide (w % 2 ^ 14 = 0)) "CLZ" (.clz (fld 5 w 19) (fld 5 w 14))
  | 7 => fixedOk (decide (w % 2 ^ 14 = 0)) "POPC" (.popc (fld 5 w 19) (fld 5 w 14))
  | 8 => fixedOk (decide (w % 2 ^ 4 = 0)) "SEL" (.sel (fld 5 w 19) (fld 5 w 14) (fld 5 w 9) (fld 5 w 4))
  | 9 => fixedOk (decide (w / 2 ^ 6 % 2 ^ 2 = 0)) "BFX" (.bfx (fld 5 w 19) (fld 5 w 14) (fld 6 w 8) (fld 6 w 0))
  | 10 => fixedOk (decide (w / 2 ^ 6 % 2 ^ 2 = 0)) "BFI" (.bfi (fld 5 w 19) (fld 5 w 14) (fld 6 w 8) (fld 6 w 0))
  | _ => .ok (.unassignedOpcode (BitVec.ofNat 32 w))

/-- Opcodes 0x20 to 0x2F (R294), by their low digit. -/
def decodeRow2 (lo w : Nat) : Except Reject Instr :=
  match lo with
  | 0 => .ok (.addi (fld 5 w 19) (fld 5 w 14) (fld 14 w 0))
  | 1 => .ok (.andi (fld 5 w 19) (fld 5 w 14) (fld 14 w 0))
  | 2 => .ok (.ori (fld 5 w 19) (fld 5 w 14) (fld 14 w 0))
  | 3 => .ok (.xori (fld 5 w 19) (fld 5 w 14) (fld 14 w 0))
  | 4 => fixedOk (decide (w / 2 ^ 6 % 2 ^ 8 = 0)) "SHLI" (.shli (fld 5 w 19) (fld 5 w 14) (fld 6 w 0))
  | 5 => fixedOk (decide (w / 2 ^ 6 % 2 ^ 8 = 0)) "SHRI" (.shri (fld 5 w 19) (fld 5 w 14) (fld 6 w 0))
  | 6 => fixedOk (decide (w / 2 ^ 6 % 2 ^ 8 = 0)) "SRAI" (.srai (fld 5 w 19) (fld 5 w 14) (fld 6 w 0))
  | 7 => .ok (.slti (fld 5 w 19) (fld 5 w 14) (fld 14 w 0))
  | 8 => .ok (.sltiu (fld 5 w 19) (fld 5 w 14) (fld 14 w 0))
  | 9 => .ok (.lih (fld 5 w 19) (fld 19 w 0))
  | 10 => .ok (.gadr (fld 5 w 19) (fld 5 w 14) (fld 14 w 0))
  | 11 => .ok (.ladr (fld 5 w 19) (fld 5 w 14) (fld 14 w 0))
  | _ => .ok (.unassignedOpcode (BitVec.ofNat 32 w))

/-- Opcodes 0x30 to 0x3F (R294), by their low digit. -/
def decodeRow3 (lo w : Nat) : Except Reject Instr :=
  match lo with
  | 0 => .ok (.beq (fld 5 w 19) (fld 5 w 14) (fld 14 w 0))
  | 1 => .ok (.bne (fld 5 w 19) (fld 5 w 14) (fld 14 w 0))
  | 2 => .ok (.blt (fld 5 w 19) (fld 5 w 14) (fld 14 w 0))
  | 3 => .ok (.bge (fld 5 w 19) (fld 5 w 14) (fld 14 w 0))
  | 4 => .ok (.bltu (fld 5 w 19) (fld 5 w 14) (fld 14 w 0))
  | 5 => .ok (.bgeu (fld 5 w 19) (fld 5 w 14) (fld 14 w 0))
  | 6 => .ok (.jal (fld 5 w 19) (fld 19 w 0))
  | 7 => .ok (.jalr (fld 5 w 19) (fld 5 w 14) (fld 14 w 0))
  | 8 => fixedOk (decide (w % 2 ^ 24 = 0)) "YIELD" (.yield)
  | 9 => fixedOk (decide (w % 2 ^ 9 = 0)) "WFE" (.wfe (fld 5 w 19) (fld 5 w 14) (fld 5 w 9))
  | 10 => fixedOk (decide (w % 2 ^ 24 = 0)) "FIN" (.fin)
  | _ => .ok (.unassignedOpcode (BitVec.ofNat 32 w))

/-- Opcodes 0x40 to 0x4F (R294), by their low digit. -/
def decodeRow4 (lo w : Nat) : Except Reject Instr :=
  match lo with
  | 0 => .ok (.ldb (fld 5 w 19) (fld 5 w 14) (fld 14 w 0))
  | 1 => .ok (.ldbu (fld 5 w 19) (fld 5 w 14) (fld 14 w 0))
  | 2 => .ok (.ldh (fld 5 w 19) (fld 5 w 14) (fld 14 w 0))
  | 3 => .ok (.ldhu (fld 5 w 19) (fld 5 w 14) (fld 14 w 0))
  | 4 => .ok (.ldw (fld 5 w 19) (fld 5 w 14) (fld 14 w 0))
  | 5 => .ok (.ldwu (fld 5 w 19) (fld 5 w 14) (fld 14 w 0))
  | 6 => .ok (.ldd (fld 5 w 19) (fld 5 w 14) (fld 14 w 0))
  | 7 => fixedOk (decide (w / 2 ^ 5 % 2 ^ 9 = 0)) "LDACQ" (.ldacq (fld 5 w 19) (fld 5 w 14) (fld 2 w 3) (fld 3 w 0))
  | 8 => .ok (.stb (fld 5 w 19) (fld 5 w 14) (fld 14 w 0))
  | 9 => .ok (.sth (fld 5 w 19) (fld 5 w 14) (fld 14 w 0))
  | 10 => .ok (.stw (fld 5 w 19) (fld 5 w 14) (fld 14 w 0))
  | 11 => .ok (.std (fld 5 w 19) (fld 5 w 14) (fld 14 w 0))
  | 12 => fixedOk (decide (w / 2 ^ 5 % 2 ^ 4 = 0 ∧ w / 2 ^ 19 % 2 ^ 5 = 0)) "STREL" (.strel (fld 5 w 14) (fld 5 w 9) (fld 2 w 3) (fld 3 w 0))
  | 13 => decodeFence w
  | 14 => fixedOk (decide (w % 2 ^ 24 = 0)) "DRAIN" (.drain)
  | 15 => decodeAtom w
  | _ => .ok (.unassignedOpcode (BitVec.ofNat 32 w))

/-- Opcodes 0x50 to 0x5F (R294), by their low digit. -/
def decodeRow5 (lo w : Nat) : Except Reject Instr :=
  match lo with
  | 0 => decodeCas w
  | 1 => fixedOk (decide (w % 2 ^ 9 = 0)) "RINGENQ" (.ringenq (fld 5 w 19) (fld 5 w 14) (fld 5 w 9))
  | 2 => fixedOk (decide (w % 2 ^ 14 = 0)) "RINGDEQ" (.ringdeq (fld 5 w 19) (fld 5 w 14))
  | 4 => .ok (.cld (fld 5 w 19) (fld 5 w 14) (fld 14 w 0))
  | 5 => .ok (.cst (fld 5 w 19) (fld 5 w 14) (fld 14 w 0))
  | 6 => fixedOk (decide (w % 2 ^ 9 = 0)) "CBND" (.cbnd (fld 5 w 19) (fld 5 w 14) (fld 5 w 9))
  | 7 => fixedOk (decide (w % 2 ^ 9 = 0)) "CPERM" (.cperm (fld 5 w 19) (fld 5 w 14) (fld 5 w 9))
  | 8 => fixedOk (decide (w % 2 ^ 9 = 0 ∧ w / 2 ^ 19 % 2 ^ 5 = 0)) "BARINIT" (.barinit (fld 5 w 14) (fld 5 w 9))
  | 9 => fixedOk (decide (w % 2 ^ 14 = 0)) "BARARR" (.bararr (fld 5 w 19) (fld 5 w 14))
  | 10 => fixedOk (decide (w % 2 ^ 14 = 0)) "BARDROP" (.bardrop (fld 5 w 19) (fld 5 w 14))
  | 11 => fixedOk (decide (w % 2 ^ 14 = 0)) "BARJOIN" (.barjoin (fld 5 w 19) (fld 5 w 14))
  | 12 => fixedOk (decide (w % 2 ^ 9 = 0)) "BARWAIT" (.barwait (fld 5 w 19) (fld 5 w 14) (fld 5 w 9))
  | 13 => decodeGbar w
  | 14 => fixedOk (decide (w % 2 ^ 14 = 0)) "GJOIN" (.gjoin (fld 5 w 19) (fld 5 w 14))
  | 15 => fixedOk (decide (w % 2 ^ 14 = 0)) "GLEAVE" (.gleave (fld 5 w 19) (fld 5 w 14))
  | _ => .ok (.unassignedOpcode (BitVec.ofNat 32 w))

/-- Opcodes 0x60 to 0x6F (R294), by their low digit. -/
def decodeRow6 (lo w : Nat) : Except Reject Instr :=
  match lo with
  | 0 => fixedOk (decide (w % 2 ^ 14 = 0)) "GKILL" (.gkill (fld 5 w 19) (fld 5 w 14))
  | 1 => fixedOk (decide (w / 2 ^ 5 % 2 ^ 4 = 0 ∧ w / 2 ^ 19 % 2 ^ 5 = 0)) "SEND" (.send (fld 5 w 14) (fld 5 w 9) (fld 5 w 0))
  | 2 => fixedOk (decide (w % 2 ^ 9 = 0 ∧ w / 2 ^ 19 % 2 ^ 5 = 0)) "SENDI" (.sendi (fld 5 w 14) (fld 5 w 9))
  | 3 => fixedOk (decide (w / 2 ^ 19 % 2 ^ 5 = 0)) "FWD" (.fwd (fld 5 w 14) (fld 5 w 9) (fld 4 w 5) (fld 5 w 0))
  | 4 => fixedOk (decide (w / 2 ^ 5 % 2 ^ 4 = 0)) "SPAWN" (.spawn (fld 5 w 19) (fld 5 w 14) (fld 5 w 9) (fld 5 w 0))
  | 5 => fixedOk (decide (w % 2 ^ 14 = 0)) "JCWAIT" (.jcwait (fld 5 w 19) (fld 5 w 14))
  | 6 => fixedOk (decide (w / 2 ^ 1 % 2 ^ 13 = 0)) "MIGRATE" (.migrate (fld 5 w 19) (fld 5 w 14) (fld 1 w 0))
  | 7 => fixedOk (decide (w % 2 ^ 14 = 0)) "QRD" (.qrd (fld 5 w 19) (fld 5 w 14))
  | 8 => fixedOk (decide (w % 2 ^ 14 = 0)) "QWR" (.qwr (fld 5 w 19) (fld 5 w 14))
  | 9 => fixedOk (decide (w % 2 ^ 14 = 0)) "QLEN" (.qlen (fld 5 w 19) (fld 5 w 14))
  | 10 => .ok (.cldd (fld 5 w 19) (fld 5 w 14) (fld 14 w 0))
  | 11 => .ok (.cstd (fld 5 w 19) (fld 5 w 14) (fld 14 w 0))
  | _ => .ok (.unassignedOpcode (BitVec.ofNat 32 w))

/-- Opcodes 0x70 to 0x7F (R294), by their low digit. -/
def decodeRow7 (lo w : Nat) : Except Reject Instr :=
  match lo with
  | 0 => fixedOk (decide (w / 2 ^ 14 % 2 ^ 5 = 0)) "SRRD" (.srrd (fld 5 w 19) (fld 14 w 0))
  | 1 => fixedOk (decide (w / 2 ^ 19 % 2 ^ 5 = 0)) "SRWR" (.srwr (fld 5 w 14) (fld 14 w 0))
  | 2 => fixedOk (decide (w / 2 ^ 19 % 2 ^ 5 = 0)) "SRSET" (.srset (fld 5 w 14) (fld 14 w 0))
  | 3 => fixedOk (decide (w / 2 ^ 19 % 2 ^ 5 = 0)) "SRCLR" (.srclr (fld 5 w 14) (fld 14 w 0))
  | 4 => fixedOk (decide (w / 2 ^ 14 % 2 ^ 10 = 0)) "SVC" (.svc (fld 14 w 0))
  | 5 => fixedOk (decide (w / 2 ^ 14 % 2 ^ 10 = 0)) "BKPT" (.bkpt (fld 14 w 0))
  | 6 => fixedOk (decide (w % 2 ^ 24 = 0)) "TRET" (.tret)
  | 7 => fixedOk (decide (w % 2 ^ 14 = 0)) "TLBGEN" (.tlbgen (fld 5 w 19) (fld 5 w 14))
  | 8 => decodeGendrain w
  | 9 => fixedOk (decide (w % 2 ^ 9 = 0)) "CTXSAVE" (.ctxsave (fld 5 w 19) (fld 5 w 14) (fld 5 w 9))
  | 10 => fixedOk (decide (w % 2 ^ 14 = 0)) "CTXLOAD" (.ctxload (fld 5 w 19) (fld 5 w 14))
  | 11 => decodeTimerd w
  | 12 => fixedOk (decide (w % 2 ^ 14 = 0 ∧ w / 2 ^ 19 % 2 ^ 5 = 0)) "CLKREQ" (.clkreq (fld 5 w 14))
  | 13 => fixedOk (decide (w / 2 ^ 14 % 2 ^ 5 = 0)) "PMRD" (.pmrd (fld 5 w 19) (fld 14 w 0))
  | 14 => fixedOk (decide (w % 2 ^ 19 = 0)) "RAND" (.rand (fld 5 w 19))
  | 15 => fixedOk (decide (w % 2 ^ 14 = 0)) "CLKWAIT" (.clkwait (fld 5 w 19) (fld 5 w 14))
  | _ => .ok (.unassignedOpcode (BitVec.ofNat 32 w))

/-- Opcodes 0x80 to 0x8F (R294), by their low digit. -/
def decodeRow8 (lo w : Nat) : Except Reject Instr :=
  match lo with
  | 0 => fixedOk (decide (w % 2 ^ 14 = 0 ∧ w / 2 ^ 18 % 2 ^ 1 = 1 ∧ w / 2 ^ 23 % 2 ^ 1 = 1)) "VCLAIM" (.vclaim (fld 4 w 19) (fld 4 w 14))
  | 1 => fixedOk (decide (w % 2 ^ 19 = 0 ∧ w / 2 ^ 23 % 2 ^ 1 = 1)) "VSYNC" (.vsync (fld 4 w 19))
  | 2 => fixedOk (decide (w % 2 ^ 24 = 0)) "VREL" (.vrel)
  | 3 => fixedOk (decide (w % 2 ^ 14 = 0 ∧ w / 2 ^ 18 % 2 ^ 1 = 1 ∧ w / 2 ^ 23 % 2 ^ 1 = 1)) "VSETVL" (.vsetvl (fld 4 w 19) (fld 4 w 14))
  | 4 => fixedOk (decide (w / 2 ^ 9 % 2 ^ 5 = 0)) "VLD" (.vld (fld 5 w 19) (fld 5 w 14) (fld 3 w 6) (fld 3 w 3) (fld 3 w 0))
  | 5 => .ok (.vlds (fld 5 w 19) (fld 5 w 14) (fld 5 w 9) (fld 3 w 6) (fld 3 w 3) (fld 3 w 0))
  | 6 => fixedOk (decide (w / 2 ^ 19 % 2 ^ 3 = 0 ∧ w / 2 ^ 23 % 2 ^ 1 = 0)) "VLDT" (.vldt (fld 1 w 22) (fld 5 w 14) (fld 5 w 9) (fld 3 w 6) (fld 3 w 3) (fld 3 w 0))
  | 7 => fixedOk (decide (w / 2 ^ 13 % 2 ^ 1 = 0)) "VGATH" (.vgath (fld 5 w 19) (fld 5 w 14) (fld 4 w 9) (fld 3 w 6) (fld 3 w 3) (fld 3 w 0))
  | 8 => fixedOk (decide (w / 2 ^ 9 % 2 ^ 5 = 0)) "VST" (.vst (fld 5 w 19) (fld 5 w 14) (fld 3 w 6) (fld 3 w 3) (fld 3 w 0))
  | 9 => .ok (.vsts (fld 5 w 19) (fld 5 w 14) (fld 5 w 9) (fld 3 w 6) (fld 3 w 3) (fld 3 w 0))
  | 10 => fixedOk (decide (w / 2 ^ 13 % 2 ^ 1 = 0)) "VSCAT" (.vscat (fld 5 w 19) (fld 5 w 14) (fld 4 w 9) (fld 3 w 6) (fld 3 w 3) (fld 3 w 0))
  | 11 => fixedOk (decide (w % 2 ^ 3 = 0)) "VADD" (.vadd (fld 5 w 19) (fld 5 w 14) (fld 5 w 9) (fld 3 w 6) (fld 3 w 3))
  | 12 => fixedOk (decide (w % 2 ^ 3 = 0)) "VSUB" (.vsub (fld 5 w 19) (fld 5 w 14) (fld 5 w 9) (fld 3 w 6) (fld 3 w 3))
  | 13 => fixedOk (decide (w % 2 ^ 3 = 0)) "VMUL" (.vmul (fld 5 w 19) (fld 5 w 14) (fld 5 w 9) (fld 3 w 6) (fld 3 w 3))
  | 14 => fixedOk (decide (w % 2 ^ 3 = 0)) "VFMA" (.vfma (fld 5 w 19) (fld 5 w 14) (fld 5 w 9) (fld 3 w 6) (fld 3 w 3))
  | 15 => fixedOk (decide (w % 2 ^ 3 = 0)) "VMAX" (.vmax (fld 5 w 19) (fld 5 w 14) (fld 5 w 9) (fld 3 w 6) (fld 3 w 3))
  | _ => .ok (.unassignedOpcode (BitVec.ofNat 32 w))

/-- Opcodes 0x90 to 0x9F (R294), by their low digit. -/
def decodeRow9 (lo w : Nat) : Except Reject Instr :=
  match lo with
  | 0 => fixedOk (decide (w % 2 ^ 3 = 0)) "VMIN" (.vmin (fld 5 w 19) (fld 5 w 14) (fld 5 w 9) (fld 3 w 6) (fld 3 w 3))
  | 1 => fixedOk (decide (w % 2 ^ 3 = 0 ∧ w / 2 ^ 9 % 2 ^ 5 = 0)) "VABS" (.vabs (fld 5 w 19) (fld 5 w 14) (fld 3 w 6) (fld 3 w 3))
  | 2 => fixedOk (decide (w % 2 ^ 3 = 0 ∧ w / 2 ^ 9 % 2 ^ 5 = 0)) "VNEG" (.vneg (fld 5 w 19) (fld 5 w 14) (fld 3 w 6) (fld 3 w 3))
  | 3 => .ok (.vcvt (fld 5 w 19) (fld 5 w 14) (fld 5 w 9) (fld 3 w 6) (fld 3 w 3) (fld 3 w 0))
  | 4 => fixedOk (decide (w / 2 ^ 22 % 2 ^ 2 = 0)) "VCMP" (.vcmp (fld 3 w 19) (fld 5 w 14) (fld 5 w 9) (fld 3 w 6) (fld 3 w 3) (fld 3 w 0))
  | 5 => fixedOk (decide (w % 2 ^ 6 = 0)) "VSELM" (.vselm (fld 5 w 19) (fld 5 w 14) (fld 5 w 9) (fld 3 w 6))
  | 6 => fixedOk (decide (w % 2 ^ 3 = 0 ∧ w / 2 ^ 9 % 2 ^ 5 = 0)) "VREDSUM" (.vredsum (fld 5 w 19) (fld 5 w 14) (fld 3 w 6) (fld 3 w 3))
  | 7 => fixedOk (decide (w % 2 ^ 3 = 0 ∧ w / 2 ^ 9 % 2 ^ 5 = 0)) "VREDMAX" (.vredmax (fld 5 w 19) (fld 5 w 14) (fld 3 w 6) (fld 3 w 3))
  | 8 => fixedOk (decide (w % 2 ^ 3 = 0 ∧ w / 2 ^ 9 % 2 ^ 5 = 0)) "VEXP2" (.vexp2 (fld 5 w 19) (fld 5 w 14) (fld 3 w 6) (fld 3 w 3))
  | 9 => fixedOk (decide (w % 2 ^ 3 = 0 ∧ w / 2 ^ 9 % 2 ^ 5 = 0)) "VLOG2" (.vlog2 (fld 5 w 19) (fld 5 w 14) (fld 3 w 6) (fld 3 w 3))
  | 10 => fixedOk (decide (w % 2 ^ 3 = 0 ∧ w / 2 ^ 9 % 2 ^ 5 = 0)) "VRCP" (.vrcp (fld 5 w 19) (fld 5 w 14) (fld 3 w 6) (fld 3 w 3))
  | 11 => fixedOk (decide (w % 2 ^ 3 = 0 ∧ w / 2 ^ 9 % 2 ^ 5 = 0)) "VRSQ" (.vrsq (fld 5 w 19) (fld 5 w 14) (fld 3 w 6) (fld 3 w 3))
  | 12 => fixedOk (decide (w % 2 ^ 3 = 0 ∧ w / 2 ^ 9 % 2 ^ 5 = 0)) "VTANH" (.vtanh (fld 5 w 19) (fld 5 w 14) (fld 3 w 6) (fld 3 w 3))
  | 13 => fixedOk (decide (w % 2 ^ 6 = 0 ∧ w / 2 ^ 13 % 2 ^ 1 = 1 ∧ w / 2 ^ 23 % 2 ^ 1 = 0)) "VBCAST" (.vbcast (fld 4 w 19) (fld 5 w 14) (fld 4 w 9) (fld 3 w 6))
  | 14 => fixedOk (decide (w % 2 ^ 9 = 0 ∧ w / 2 ^ 13 % 2 ^ 1 = 1 ∧ w / 2 ^ 18 % 2 ^ 1 = 0 ∧ w / 2 ^ 23 % 2 ^ 1 = 1)) "VEXT" (.vext (fld 4 w 19) (fld 4 w 14) (fld 4 w 9))
  | 15 => fixedOk (decide (w % 2 ^ 9 = 0 ∧ w / 2 ^ 13 % 2 ^ 1 = 1 ∧ w / 2 ^ 18 % 2 ^ 1 = 1 ∧ w / 2 ^ 23 % 2 ^ 1 = 0)) "VINS" (.vins (fld 4 w 19) (fld 4 w 14) (fld 4 w 9))
  | _ => .ok (.unassignedOpcode (BitVec.ofNat 32 w))

/-- Opcodes 0xA0 to 0xAF (R294), by their low digit. -/
def decodeRowA (lo w : Nat) : Except Reject Instr :=
  match lo with
  | 0 => fixedOk (decide (w % 2 ^ 6 = 0 ∧ w / 2 ^ 13 % 2 ^ 1 = 0 ∧ w / 2 ^ 18 % 2 ^ 1 = 0 ∧ w / 2 ^ 23 % 2 ^ 1 = 0)) "VPERM" (.vperm (fld 4 w 19) (fld 4 w 14) (fld 4 w 9) (fld 3 w 6))
  | 1 => fixedOk (decide (w % 2 ^ 14 = 0 ∧ w / 2 ^ 18 % 2 ^ 1 = 0 ∧ w / 2 ^ 23 % 2 ^ 1 = 0)) "VXALL" (.vxall (fld 4 w 19) (fld 4 w 14))
  | 2 => fixedOk (decide (w % 2 ^ 3 = 0)) "VAND" (.vand (fld 5 w 19) (fld 5 w 14) (fld 5 w 9) (fld 3 w 6) (fld 3 w 3))
  | 3 => fixedOk (decide (w % 2 ^ 3 = 0)) "VOR" (.vor (fld 5 w 19) (fld 5 w 14) (fld 5 w 9) (fld 3 w 6) (fld 3 w 3))
  | 4 => fixedOk (decide (w % 2 ^ 3 = 0)) "VXOR" (.vxor (fld 5 w 19) (fld 5 w 14) (fld 5 w 9) (fld 3 w 6) (fld 3 w 3))
  | 5 => fixedOk (decide (w % 2 ^ 3 = 0)) "VSHL" (.vshl (fld 5 w 19) (fld 5 w 14) (fld 5 w 9) (fld 3 w 6) (fld 3 w 3))
  | 6 => fixedOk (decide (w / 2 ^ 1 % 2 ^ 2 = 0)) "VSHR" (.vshr (fld 5 w 19) (fld 5 w 14) (fld 5 w 9) (fld 3 w 6) (fld 3 w 3) (fld 1 w 0))
  | 7 => fixedOk (decide (w % 2 ^ 3 = 0 ∧ w / 2 ^ 9 % 2 ^ 10 = 0)) "VIOTA" (.viota (fld 5 w 19) (fld 3 w 6) (fld 3 w 3))
  | 8 => fixedOk (decide (w / 2 ^ 3 % 2 ^ 6 = 0 ∧ w / 2 ^ 12 % 2 ^ 2 = 0 ∧ w / 2 ^ 17 % 2 ^ 2 = 0 ∧ w / 2 ^ 22 % 2 ^ 2 = 0)) "MOPS" (.mops (fld 3 w 19) (fld 3 w 14) (fld 3 w 9) (fld 3 w 0))
  | 9 => fixedOk (decide (w / 2 ^ 3 % 2 ^ 3 = 0 ∧ w / 2 ^ 9 % 2 ^ 5 = 0 ∧ w / 2 ^ 17 % 2 ^ 2 = 0 ∧ w / 2 ^ 23 % 2 ^ 1 = 1)) "MPOP" (.mpop (fld 4 w 19) (fld 3 w 14) (fld 3 w 6) (fld 3 w 0))
  | 10 => fixedOk (decide (w % 2 ^ 3 = 0)) "VLDEXP" (.vldexp (fld 5 w 19) (fld 5 w 14) (fld 5 w 9) (fld 3 w 6) (fld 3 w 3))
  | _ => .ok (.unassignedOpcode (BitVec.ofNat 32 w))

/-- Opcodes 0xC0 to 0xCF (R294), by their low digit. -/
def decodeRowC (lo w : Nat) : Except Reject Instr :=
  match lo with
  | 0 => fixedOk (decide (w / 2 ^ 1 % 2 ^ 13 = 0)) "JOB" (.job (fld 5 w 19) (fld 5 w 14) (fld 1 w 0))
  | 1 => fixedOk (decide (w / 2 ^ 1 % 2 ^ 8 = 0)) "JOBM" (.jobm (fld 5 w 19) (fld 5 w 14) (fld 5 w 9) (fld 1 w 0))
  | 2 => fixedOk (decide (w % 2 ^ 14 = 0)) "JOBTEST" (.jobtest (fld 5 w 19) (fld 5 w 14))
  | 3 => fixedOk (decide (w % 2 ^ 14 = 0)) "GISSUE" (.gissue (fld 5 w 19) (fld 5 w 14))
  | 4 => fixedOk (decide (w % 2 ^ 9 = 0 ∧ w / 2 ^ 19 % 2 ^ 5 = 0)) "TSWAP" (.tswap (fld 5 w 14) (fld 5 w 9))
  | 5 => fixedOk (decide (w % 2 ^ 6 = 0 ∧ w / 2 ^ 13 % 2 ^ 1 = 1 ∧ w / 2 ^ 15 % 2 ^ 4 = 0 ∧ w / 2 ^ 23 % 2 ^ 1 = 0)) "ACCRD" (.accrd (fld 4 w 19) (fld 1 w 14) (fld 4 w 9) (fld 3 w 6))
  | 6 => fixedOk (decide (w % 2 ^ 6 = 0 ∧ w / 2 ^ 13 % 2 ^ 1 = 1 ∧ w / 2 ^ 18 % 2 ^ 1 = 0 ∧ w / 2 ^ 20 % 2 ^ 4 = 0)) "ACCWR" (.accwr (fld 1 w 19) (fld 4 w 14) (fld 4 w 9) (fld 3 w 6))
  | _ => .ok (.unassignedOpcode (BitVec.ofNat 32 w))

/-- Opcodes 0xF0 to 0xFF (R294), by their low digit. -/
def decodeRowF (lo w : Nat) : Except Reject Instr :=
  match lo with
  | 0 => .ok (.imx (fld 24 w 0))
  | _ => .ok (.unassignedOpcode (BitVec.ofNat 32 w))

/-- Read one 32-bit instruction word. -/
def decode (w : Nat) : Except Reject Instr :=
  match w / 2 ^ 28 % 16 with
  | 0 => decodeRow0 (w / 2 ^ 24 % 16) w
  | 1 => decodeRow1 (w / 2 ^ 24 % 16) w
  | 2 => decodeRow2 (w / 2 ^ 24 % 16) w
  | 3 => decodeRow3 (w / 2 ^ 24 % 16) w
  | 4 => decodeRow4 (w / 2 ^ 24 % 16) w
  | 5 => decodeRow5 (w / 2 ^ 24 % 16) w
  | 6 => decodeRow6 (w / 2 ^ 24 % 16) w
  | 7 => decodeRow7 (w / 2 ^ 24 % 16) w
  | 8 => decodeRow8 (w / 2 ^ 24 % 16) w
  | 9 => decodeRow9 (w / 2 ^ 24 % 16) w
  | 10 => decodeRowA (w / 2 ^ 24 % 16) w
  | 12 => decodeRowC (w / 2 ^ 24 % 16) w
  | 15 => decodeRowF (w / 2 ^ 24 % 16) w
  | _ => .ok (.unassignedOpcode (BitVec.ofNat 32 w))

/-- Read the instruction in the first four bytes of a list; the rest stays. -/
def decodeBytes : List Byte → Except Reject (Instr × List Byte)
  | a :: b :: c :: d :: rest => (decode (leNat [a, b, c, d])).map fun i => (i, rest)
  | _ => .error .shortWord

/-- What the decoder reads from an instruction whose bits are `w` as the opcode table numbers them. -/
def decodeTableWord (nbits w : Nat) : Option Instr :=
  match decodeBytes (leBytes 4 (w % 2 ^ nbits)) with
  | .ok (i, _) => some i
  | .error _ => none

/-- Is the opcode byte unassigned (R294, R295)? -/
def unassignedOp (op : Nat) : Bool :=
  match decode (op * 2 ^ 24) with
  | .ok (.unassignedOpcode _) => true
  | _ => false

/-- A word from its fixed bits and its fields, each at its lowest bit. -/
def put1 {n0 : Nat} (base : Nat) (x0 : BitVec n0) (l0 : Nat) : Nat :=
  base + x0.toNat * 2 ^ l0

def put2 {n0 n1 : Nat} (base : Nat) (x0 : BitVec n0) (l0 : Nat) (x1 : BitVec n1) (l1 : Nat) : Nat :=
  base + x0.toNat * 2 ^ l0 + x1.toNat * 2 ^ l1

def put3 {n0 n1 n2 : Nat} (base : Nat) (x0 : BitVec n0) (l0 : Nat) (x1 : BitVec n1) (l1 : Nat) (x2 : BitVec n2) (l2 : Nat) : Nat :=
  base + x0.toNat * 2 ^ l0 + x1.toNat * 2 ^ l1 + x2.toNat * 2 ^ l2

def put4 {n0 n1 n2 n3 : Nat} (base : Nat) (x0 : BitVec n0) (l0 : Nat) (x1 : BitVec n1) (l1 : Nat) (x2 : BitVec n2) (l2 : Nat) (x3 : BitVec n3) (l3 : Nat) : Nat :=
  base + x0.toNat * 2 ^ l0 + x1.toNat * 2 ^ l1 + x2.toNat * 2 ^ l2 + x3.toNat * 2 ^ l3

def put5 {n0 n1 n2 n3 n4 : Nat} (base : Nat) (x0 : BitVec n0) (l0 : Nat) (x1 : BitVec n1) (l1 : Nat) (x2 : BitVec n2) (l2 : Nat) (x3 : BitVec n3) (l3 : Nat) (x4 : BitVec n4) (l4 : Nat) : Nat :=
  base + x0.toNat * 2 ^ l0 + x1.toNat * 2 ^ l1 + x2.toNat * 2 ^ l2 + x3.toNat * 2 ^ l3 + x4.toNat * 2 ^ l4

def put6 {n0 n1 n2 n3 n4 n5 : Nat} (base : Nat) (x0 : BitVec n0) (l0 : Nat) (x1 : BitVec n1) (l1 : Nat) (x2 : BitVec n2) (l2 : Nat) (x3 : BitVec n3) (l3 : Nat) (x4 : BitVec n4) (l4 : Nat) (x5 : BitVec n5) (l5 : Nat) : Nat :=
  base + x0.toNat * 2 ^ l0 + x1.toNat * 2 ^ l1 + x2.toNat * 2 ^ l2 + x3.toNat * 2 ^ l3 + x4.toNat * 2 ^ l4 + x5.toNat * 2 ^ l5

/-- The word that encodes an instruction (R278-R282): none for an event, which is no word. -/
def encode : Instr → Option Nat
  | .add d a b => some (put3 0x01000000 d 19 a 14 b 9)
  | .sub d a b => some (put3 0x02000000 d 19 a 14 b 9)
  | .mul d a b => some (put3 0x03000000 d 19 a 14 b 9)
  | .mulh d a b => some (put3 0x04000000 d 19 a 14 b 9)
  | .mulhu d a b => some (put3 0x05000000 d 19 a 14 b 9)
  | .div d a b => some (put3 0x06000000 d 19 a 14 b 9)
  | .divu d a b => some (put3 0x07000000 d 19 a 14 b 9)
  | .rem d a b => some (put3 0x08000000 d 19 a 14 b 9)
  | .remu d a b => some (put3 0x09000000 d 19 a 14 b 9)
  | .and d a b => some (put3 0x0A000000 d 19 a 14 b 9)
  | .or d a b => some (put3 0x0B000000 d 19 a 14 b 9)
  | .xor d a b => some (put3 0x0C000000 d 19 a 14 b 9)
  | .shl d a b => some (put3 0x0D000000 d 19 a 14 b 9)
  | .shr d a b => some (put3 0x0E000000 d 19 a 14 b 9)
  | .sra d a b => some (put3 0x0F000000 d 19 a 14 b 9)
  | .slt d a b => some (put3 0x10000000 d 19 a 14 b 9)
  | .sltu d a b => some (put3 0x11000000 d 19 a 14 b 9)
  | .min d a b => some (put3 0x12000000 d 19 a 14 b 9)
  | .max d a b => some (put3 0x13000000 d 19 a 14 b 9)
  | .minu d a b => some (put3 0x14000000 d 19 a 14 b 9)
  | .maxu d a b => some (put3 0x15000000 d 19 a 14 b 9)
  | .clz d a => some (put2 0x16000000 d 19 a 14)
  | .popc d a => some (put2 0x17000000 d 19 a 14)
  | .sel d a b c => some (put4 0x18000000 d 19 a 14 b 9 c 4)
  | .bfx d a w p => some (put4 0x19000000 d 19 a 14 w 8 p 0)
  | .bfi d a w p => some (put4 0x1A000000 d 19 a 14 w 8 p 0)
  | .addi d a i => some (put3 0x20000000 d 19 a 14 i 0)
  | .andi d a i => some (put3 0x21000000 d 19 a 14 i 0)
  | .ori d a i => some (put3 0x22000000 d 19 a 14 i 0)
  | .xori d a i => some (put3 0x23000000 d 19 a 14 i 0)
  | .shli d a s => some (put3 0x24000000 d 19 a 14 s 0)
  | .shri d a s => some (put3 0x25000000 d 19 a 14 s 0)
  | .srai d a s => some (put3 0x26000000 d 19 a 14 s 0)
  | .slti d a i => some (put3 0x27000000 d 19 a 14 i 0)
  | .sltiu d a i => some (put3 0x28000000 d 19 a 14 i 0)
  | .lih d i => some (put2 0x29000000 d 19 i 0)
  | .gadr d a i => some (put3 0x2A000000 d 19 a 14 i 0)
  | .ladr d a i => some (put3 0x2B000000 d 19 a 14 i 0)
  | .beq a b i => some (put3 0x30000000 a 19 b 14 i 0)
  | .bne a b i => some (put3 0x31000000 a 19 b 14 i 0)
  | .blt a b i => some (put3 0x32000000 a 19 b 14 i 0)
  | .bge a b i => some (put3 0x33000000 a 19 b 14 i 0)
  | .bltu a b i => some (put3 0x34000000 a 19 b 14 i 0)
  | .bgeu a b i => some (put3 0x35000000 a 19 b 14 i 0)
  | .jal d i => some (put2 0x36000000 d 19 i 0)
  | .jalr d a i => some (put3 0x37000000 d 19 a 14 i 0)
  | .wfe d a b => some (put3 0x39000000 d 19 a 14 b 9)
  | .ldb d a i => some (put3 0x40000000 d 19 a 14 i 0)
  | .ldbu d a i => some (put3 0x41000000 d 19 a 14 i 0)
  | .ldh d a i => some (put3 0x42000000 d 19 a 14 i 0)
  | .ldhu d a i => some (put3 0x43000000 d 19 a 14 i 0)
  | .ldw d a i => some (put3 0x44000000 d 19 a 14 i 0)
  | .ldwu d a i => some (put3 0x45000000 d 19 a 14 i 0)
  | .ldd d a i => some (put3 0x46000000 d 19 a 14 i 0)
  | .ldacq d a s c => some (put4 0x47000000 d 19 a 14 s 3 c 0)
  | .stb a b i => some (put3 0x48000000 a 19 b 14 i 0)
  | .sth a b i => some (put3 0x49000000 a 19 b 14 i 0)
  | .stw a b i => some (put3 0x4A000000 a 19 b 14 i 0)
  | .std a b i => some (put3 0x4B000000 a 19 b 14 i 0)
  | .strel a b s c => some (put4 0x4C000000 a 14 b 9 s 3 c 0)
  | .fence d c => some (put2 0x4D000000 d 19 c 0)
  | .fenceRel d c => some (put2 0x4D000020 d 19 c 0)
  | .fenceAcq d c => some (put2 0x4D000040 d 19 c 0)
  | .atom d a b o s c => some (put6 0x4F000000 d 19 a 14 b 9 o 5 s 3 c 0)
  | .atomCap d a b o s => some (put5 0x4F000007 d 19 a 14 b 9 o 5 s 3)
  | .cas d a b s c => some (put5 0x50000000 d 19 a 14 b 9 s 3 c 0)
  | .casCap d a b s => some (put4 0x50000007 d 19 a 14 b 9 s 3)
  | .ringenq d a b => some (put3 0x51000000 d 19 a 14 b 9)
  | .ringdeq d a => some (put2 0x52000000 d 19 a 14)
  | .cld d a i => some (put3 0x54000000 d 19 a 14 i 0)
  | .cst a b i => some (put3 0x55000000 a 19 b 14 i 0)
  | .cbnd d a b => some (put3 0x56000000 d 19 a 14 b 9)
  | .cperm d a b => some (put3 0x57000000 d 19 a 14 b 9)
  | .barinit a b => some (put2 0x58000000 a 14 b 9)
  | .bararr d a => some (put2 0x59000000 d 19 a 14)
  | .bardrop d a => some (put2 0x5A000000 d 19 a 14)
  | .barjoin d a => some (put2 0x5B000000 d 19 a 14)
  | .barwait d a b => some (put3 0x5C000000 d 19 a 14 b 9)
  | .gbarGroup d a => some (put2 0x5D000001 d 19 a 14)
  | .gjoin d a => some (put2 0x5E000000 d 19 a 14)
  | .gleave d a => some (put2 0x5F000000 d 19 a 14)
  | .gkill d a => some (put2 0x60000000 d 19 a 14)
  | .send a b n => some (put3 0x61000000 a 14 b 9 n 0)
  | .sendi a b => some (put2 0x62000000 a 14 b 9)
  | .fwd a b k n => some (put4 0x63000000 a 14 b 9 k 5 n 0)
  | .spawn d a b n => some (put4 0x64000000 d 19 a 14 b 9 n 0)
  | .jcwait d a => some (put2 0x65000000 d 19 a 14)
  | .migrate d a e => some (put3 0x66000000 d 19 a 14 e 0)
  | .qrd d a => some (put2 0x67000000 d 19 a 14)
  | .qwr d a => some (put2 0x68000000 d 19 a 14)
  | .qlen d a => some (put2 0x69000000 d 19 a 14)
  | .cldd d a i => some (put3 0x6A000000 d 19 a 14 i 0)
  | .cstd a b i => some (put3 0x6B000000 a 19 b 14 i 0)
  | .srrd d n => some (put2 0x70000000 d 19 n 0)
  | .srwr a n => some (put2 0x71000000 a 14 n 0)
  | .srset a n => some (put2 0x72000000 a 14 n 0)
  | .srclr a n => some (put2 0x73000000 a 14 n 0)
  | .svc i => some (put1 0x74000000 i 0)
  | .bkpt i => some (put1 0x75000000 i 0)
  | .tlbgen d a => some (put2 0x77000000 d 19 a 14)
  | .ctxsave d a b => some (put3 0x79000000 d 19 a 14 b 9)
  | .ctxload d a => some (put2 0x7A000000 d 19 a 14)
  | .timerdTime d => some (put1 0x7B000000 d 19)
  | .timerdStatus d => some (put1 0x7B000001 d 19)
  | .clkreq a => some (put1 0x7C000000 a 14)
  | .pmrd d n => some (put2 0x7D000000 d 19 n 0)
  | .rand d => some (put1 0x7E000000 d 19)
  | .clkwait d a => some (put2 0x7F000000 d 19 a 14)
  | .vclaim d a => some (put2 0x80840000 d 19 a 14)
  | .vsync d => some (put1 0x81800000 d 19)
  | .vsetvl d a => some (put2 0x83840000 d 19 a 14)
  | .vld v a m t x => some (put5 0x84000000 v 19 a 14 m 6 t 3 x 0)
  | .vlds v a b m t x => some (put6 0x85000000 v 19 a 14 b 9 m 6 t 3 x 0)
  | .vldt v a b m t x => some (put6 0x86000000 v 22 a 14 b 9 m 6 t 3 x 0)
  | .vgath v a b m t x => some (put6 0x87000000 v 19 a 14 b 9 m 6 t 3 x 0)
  | .vst v a m t x => some (put5 0x88000000 v 19 a 14 m 6 t 3 x 0)
  | .vsts v a b m t x => some (put6 0x89000000 v 19 a 14 b 9 m 6 t 3 x 0)
  | .vscat v a b m t x => some (put6 0x8A000000 v 19 a 14 b 9 m 6 t 3 x 0)
  | .vadd v a b m t => some (put5 0x8B000000 v 19 a 14 b 9 m 6 t 3)
  | .vsub v a b m t => some (put5 0x8C000000 v 19 a 14 b 9 m 6 t 3)
  | .vmul v a b m t => some (put5 0x8D000000 v 19 a 14 b 9 m 6 t 3)
  | .vfma v a b m t => some (put5 0x8E000000 v 19 a 14 b 9 m 6 t 3)
  | .vmax v a b m t => some (put5 0x8F000000 v 19 a 14 b 9 m 6 t 3)
  | .vmin v a b m t => some (put5 0x90000000 v 19 a 14 b 9 m 6 t 3)
  | .vabs v a m t => some (put4 0x91000000 v 19 a 14 m 6 t 3)
  | .vneg v a m t => some (put4 0x92000000 v 19 a 14 m 6 t 3)
  | .vcvt v a b m t x => some (put6 0x93000000 v 19 a 14 b 9 m 6 t 3 x 0)
  | .vcmp d a b m t x => some (put6 0x94000000 d 19 a 14 b 9 m 6 t 3 x 0)
  | .vselm v a b m => some (put4 0x95000000 v 19 a 14 b 9 m 6)
  | .vredsum v a m t => some (put4 0x96000000 v 19 a 14 m 6 t 3)
  | .vredmax v a m t => some (put4 0x97000000 v 19 a 14 m 6 t 3)
  | .vexp2 v a m t => some (put4 0x98000000 v 19 a 14 m 6 t 3)
  | .vlog2 v a m t => some (put4 0x99000000 v 19 a 14 m 6 t 3)
  | .vrcp v a m t => some (put4 0x9A000000 v 19 a 14 m 6 t 3)
  | .vrsq v a m t => some (put4 0x9B000000 v 19 a 14 m 6 t 3)
  | .vtanh v a m t => some (put4 0x9C000000 v 19 a 14 m 6 t 3)
  | .vbcast v a b m => some (put4 0x9D002000 v 19 a 14 b 9 m 6)
  | .vext d a b => some (put3 0x9E802000 d 19 a 14 b 9)
  | .vins v a b => some (put3 0x9F042000 v 19 a 14 b 9)
  | .vperm v a b m => some (put4 0xA0000000 v 19 a 14 b 9 m 6)
  | .vxall v a => some (put2 0xA1000000 v 19 a 14)
  | .vand v a b m t => some (put5 0xA2000000 v 19 a 14 b 9 m 6 t 3)
  | .vor v a b m t => some (put5 0xA3000000 v 19 a 14 b 9 m 6 t 3)
  | .vxor v a b m t => some (put5 0xA4000000 v 19 a 14 b 9 m 6 t 3)
  | .vshl v a b m t => some (put5 0xA5000000 v 19 a 14 b 9 m 6 t 3)
  | .vshr v a b m t x => some (put6 0xA6000000 v 19 a 14 b 9 m 6 t 3 x 0)
  | .viota v m t => some (put3 0xA7000000 v 19 m 6 t 3)
  | .mops d a b x => some (put4 0xA8000000 d 19 a 14 b 9 x 0)
  | .mpop d a m x => some (put4 0xA9800000 d 19 a 14 m 6 x 0)
  | .vldexp v a b m t => some (put5 0xAA000000 v 19 a 14 b 9 m 6 t 3)
  | .job d a n => some (put3 0xC0000000 d 19 a 14 n 0)
  | .jobm d a b n => some (put4 0xC1000000 d 19 a 14 b 9 n 0)
  | .jobtest d a => some (put2 0xC2000000 d 19 a 14)
  | .gissue d a => some (put2 0xC3000000 d 19 a 14)
  | .tswap a b => some (put2 0xC4000000 a 14 b 9)
  | .accrd v n q m => some (put4 0xC5002000 v 19 n 14 q 9 m 6)
  | .accwr n a q m => some (put4 0xC6002000 n 19 a 14 q 9 m 6)
  | .imx i => some (put1 0xF0000000 i 0)
  | .unassignedOpcode w => some w.toNat
  | .cutMarker _ _ _ _ => none
  | .uniformReport _ _ _ _ => none
  | .uniformGrant _ _ _ _ => none
  | .frozen _ _ => none
  | .broken _ _ _ => none
  | .prepare _ _ => none
  | .ready _ _ _ _ => none
  | .commit _ _ _ => none
  | .ended _ _ _ => none
  | .done _ => none
  | .cutCompleteReport _ _ _ _ => none
  | .fallbackVoteArrival _ _ _ => none
  | .mma _ => none
  | .mmat _ => none
  | .accz _ => none
  | .acccvt _ => none
  | .accld _ => none
  | .wbfill _ => none
  | .copy _ => none
  | .copy2d _ => none
  | .deal _ => none
  | .gathb _ => none
  | .redw _ => none
  | .fill _ => none
  | .selround _ => none
  | .calve _ => none
  | .drift _ => none
  | .moraineSet _ => none
  | .moraineFlush _ => none
  | .unassignedEngineOpcode _ => none
  | .jobCompletion _ => none
  | .matrixJobBegin _ => none
  | .copyJobBegin _ => none
  | .queueEntryFreed _ => none
  | .mailboxAdvance _ => none
  | .messageArrival _ => none
  | .meshHop _ => none
  | .handlerFlakeStart _ => none
  | .threadMessageArrival _ => none
  | .atomicFlake _ => none
  | .completionFlake _ => none
  | .ratioNotice _ => none
  | .runQueueTake _ => none
  | .runQueueAging _ => none
  | .postedStoreAck _ => none
  | .storeReject _ _ => none
  | .impreciseTrap _ => none
  | .loadDataReturn _ => none
  | .kill _ => none
  | .groupDirectoryApply _ => none
  | .qdead _ => none
  | .barrierDeadline _ _ => none
  | .generationNotice _ _ => none
  | .glacierWriteReject _ => none
  | .migrationBatch _ => none
  | .launchCheckDone _ _ => none
  | .launchCounterPoll _ => none
  | .launchLeaveWaiting _ => none
  | .spawnDistribute _ => none
  | .launchEnd _ => none
  | .resumeRestore _ => none
  | .preemptionComplete _ => none
  | .counterRotation _ => none
  | .pcSample _ => none
  | .dieFence _ => none
  | .dieResetComplete _ => none
  | .peerDeclaredDown _ => none
  | .arbiterEvaluation _ => none
  | .transitionEnd _ => none
  | .uniformMinimum _ => none
  | .uniformApply _ => none
  | .floeAction _ => none
  | .floeCut _ => none
  | .cutComplete _ => none
  | .straggler _ => none
  | .fallbackVote _ => none
  | .ptpIntervalTimer _ _ => none
  | .selectionTimer _ => none
  | .selectionRound _ => none
  | .moraineRingSpace _ => none
  | .postedStoreLanding _ => none
  | .yield => some 0x38000000
  | .fin => some 0x3A000000
  | .drain => some 0x4E000000
  | .gbarWired => some 0x5D000000
  | .tret => some 0x76000000
  | .gendrainCl => some 0x78000001
  | .gendrainPk => some 0x78000003
  | .vrel => some 0x82000000
  | .flakeOverrun _ => none
  | .serviceFlakeTrap _ _ _ => none
  | .atomicReply _ _ => none
  | .preciseTrap _ _ _ => none
  | .joinCounterDecrement => none
  | .ringStall _ _ => none
  | .pageWalk _ _ _ _ _ _ => none
  | .refreshWindowStart _ => none
  | .refreshWindowEnd _ => none
  | .launchArm _ _ => none
  | .prelaunch _ _ => none
  | .pwrcap _ => none
  | .pwrshareWrite _ _ => none
  | .partcfg _ _ _ => none
  | .ctrsel _ _ _ => none
  | .sendlaunch _ _ => none
  | .bar4Access _ _ _ _ => none
  | .dierst _ => none
  | .peerclr _ => none
  | .fabricLinkChange _ _ => none
  | .attreq _ => none
  | .attestationDone => none
  | .alarmlogRead => none
  | .securityAlarm _ => none
  | .boot _ _ => none
  | .registerWrite _ _ _ _ => none
  | .coefficientUpdate _ _ _ _ _ _ => none
  | .ptpSync _ _ _ _ _ => none
  | .ptpFollowUp _ _ _ _ => none
  | .ptpDelayReq _ _ _ _ => none
  | .ptpDelayResp _ _ _ _ _ => none
  | .ptpAnnounce _ _ _ => none
  | .syncTimeout => none
  | .holdoverTick => none
  | .timeUnitFailover => none
  | .fitnessExchange _ _ _ _ _ => none
  | .driftRequest _ _ _ _ _ => none
  | .driftReady _ _ _ _ => none
  | .driftStream _ _ _ _ _ _ => none
  | .launchWindowWrite _ _ _ => none
  | .imageDiscard _ => none
  | .peerRequest _ _ _ _ _ _ _ _ _ _ => none
  | .driftAcknowledgement _ _ _ _ _ => none
  | .cxlLinkChange _ _ => none

/-! ## Encoding checks (R296 step 4) -/

/-- A scope code of a memory form other than 7 (R282). -/
def scopeOk (c : BitVec 3) : Bool := decide (c.toNat ≤ 4)

/-- A capability register number (R275). -/
def capReg (n : BitVec 5) : Bool := decide (n.toNat < 8)

/-- A queue register number (R275). -/
def queueReg (n : BitVec 5) : Bool := decide (n.toNat < 8)

/-- A register pair D, D + 1 (R326): even and not s0. -/
def evenReg (d : BitVec 5) : Bool := decide (d.toNat % 2 = 0 ∧ d ≠ 0)

/-- A vector destination (R281). -/
def vecReg (n : BitVec 5) : Bool := decide (n.toNat < 16)

/-- The size and operation of an ATOM (R297). -/
def atomOk (o : BitVec 4) (s : BitVec 2) : Bool := decide (o.toNat ≤ 8 ∨ (o.toNat ≤ 11 ∧ (s = 1 ∨ s = 2)))

/-- Types 000 to 101: the floats (R299). -/
def floatType (t : BitVec 3) : Bool := decide (t.toNat ≤ 5)

/-- Types 110 and 111: the integers (R299). -/
def intType (t : BitVec 3) : Bool := decide (6 ≤ t.toNat)

/-- Types 000, 001 and 010 of the special functions (R148). -/
def sfuType (t : BitVec 3) : Bool := decide (t.toNat ≤ 2)

/-- The numbers of the state registers (R276). -/
def assignedReg (n : BitVec 14) : Bool :=
  decide (n.toNat ≤ 3 ∨ (0x10 ≤ n.toNat ∧ n.toNat ≤ 0x17) ∨ (0x20 ≤ n.toNat ∧ n.toNat ≤ 0x21) ∨
    (0x30 ≤ n.toNat ∧ n.toNat ≤ 0x39) ∨ (0x40 ≤ n.toNat ∧ n.toNat ≤ 0x42) ∨ (0x50 ≤ n.toNat ∧ n.toNat ≤ 0x52) ∨
    (0x60 ≤ n.toNat ∧ n.toNat ≤ 0x61) ∨ (0x70 ≤ n.toNat ∧ n.toNat ≤ 0x71))

/-- Does the instruction pass the encoding checks that its fields alone decide? An event is no word. -/
def encodingOk : Instr → Bool
  | .add _ _ _ => true
  | .sub _ _ _ => true
  | .mul _ _ _ => true
  | .mulh _ _ _ => true
  | .mulhu _ _ _ => true
  | .div _ _ _ => true
  | .divu _ _ _ => true
  | .rem _ _ _ => true
  | .remu _ _ _ => true
  | .and _ _ _ => true
  | .or _ _ _ => true
  | .xor _ _ _ => true
  | .shl _ _ _ => true
  | .shr _ _ _ => true
  | .sra _ _ _ => true
  | .slt _ _ _ => true
  | .sltu _ _ _ => true
  | .min _ _ _ => true
  | .max _ _ _ => true
  | .minu _ _ _ => true
  | .maxu _ _ _ => true
  | .clz _ _ => true
  | .popc _ _ => true
  | .sel _ _ _ _ => true
  | .bfx _ _ w p => decide (p.toNat + w.toNat + 1 ≤ 64)
  | .bfi _ _ w p => decide (p.toNat + w.toNat + 1 ≤ 64)
  | .addi _ _ _ => true
  | .andi _ _ _ => true
  | .ori _ _ _ => true
  | .xori _ _ _ => true
  | .shli _ _ _ => true
  | .shri _ _ _ => true
  | .srai _ _ _ => true
  | .slti _ _ _ => true
  | .sltiu _ _ _ => true
  | .lih _ _ => true
  | .gadr _ _ _ => true
  | .ladr _ _ _ => true
  | .beq _ _ _ => true
  | .bne _ _ _ => true
  | .blt _ _ _ => true
  | .bge _ _ _ => true
  | .bltu _ _ _ => true
  | .bgeu _ _ _ => true
  | .jal _ _ => true
  | .jalr _ _ _ => true
  | .wfe _ _ _ => true
  | .ldb _ _ _ => true
  | .ldbu _ _ _ => true
  | .ldh _ _ _ => true
  | .ldhu _ _ _ => true
  | .ldw _ _ _ => true
  | .ldwu _ _ _ => true
  | .ldd _ _ _ => true
  | .ldacq _ _ _ c => scopeOk c
  | .stb _ _ _ => true
  | .sth _ _ _ => true
  | .stw _ _ _ => true
  | .std _ _ _ => true
  | .strel _ _ _ c => scopeOk c
  | .fence _ c => scopeOk c
  | .fenceRel _ c => scopeOk c
  | .fenceAcq _ c => scopeOk c
  | .atom _ _ _ o s c => scopeOk c && atomOk o s
  | .atomCap _ a _ o s => capReg a && atomOk o s
  | .cas d _ _ _ c => scopeOk c && evenReg d
  | .casCap d a _ _ => capReg a && evenReg d
  | .ringenq d _ _ => evenReg d
  | .ringdeq d _ => evenReg d
  | .cld d _ _ => capReg d
  | .cst _ b _ => capReg b
  | .cbnd d a b => capReg d && capReg a && decide (b.toNat % 2 = 0)
  | .cperm d a _ => capReg d && capReg a
  | .barinit _ _ => true
  | .bararr _ _ => true
  | .bardrop _ _ => true
  | .barjoin _ _ => true
  | .barwait _ _ _ => true
  | .gbarGroup _ _ => true
  | .gjoin _ _ => true
  | .gleave _ _ => true
  | .gkill _ _ => true
  | .send _ b n => decide (n.toNat ≤ 28) && decide (n.toNat = 0 → b = 0) && decide (b.toNat + n.toNat ≤ 32)
  | .sendi _ _ => true
  | .fwd _ b k n => decide (k.toNat ≤ 11 ∧ n.toNat ≤ 30) && decide (n.toNat = 0 → b = 0) && decide (b.toNat + n.toNat ≤ 32)
  | .spawn _ _ b n => decide (n.toNat ≤ 28) && decide (n.toNat = 0 → b = 0) && decide (b.toNat + n.toNat ≤ 32)
  | .jcwait _ _ => true
  | .migrate _ _ _ => true
  | .qrd _ a => queueReg a
  | .qwr d _ => queueReg d
  | .qlen _ a => queueReg a
  | .cldd _ a _ => capReg a
  | .cstd a _ _ => capReg a
  | .srrd _ n => assignedReg n
  | .srwr _ n => assignedReg n
  | .srset _ n => assignedReg n
  | .srclr _ n => assignedReg n
  | .svc _ => true
  | .bkpt _ => true
  | .tlbgen _ _ => true
  | .ctxsave _ _ _ => true
  | .ctxload _ _ => true
  | .timerdTime d => evenReg d
  | .timerdStatus d => decide (d.toNat ≠ 0)
  | .clkreq _ => true
  | .pmrd d n => evenReg d && decide (n.toNat ≤ 32)
  | .rand _ => true
  | .clkwait _ _ => true
  | .vclaim _ _ => true
  | .vsync _ => true
  | .vsetvl _ _ => true
  | .vld v _ _ _ _ => vecReg v
  | .vlds v _ _ _ _ _ => vecReg v
  | .vldt _ _ _ _ _ _ => true
  | .vgath v _ _ _ _ _ => vecReg v
  | .vst v _ _ _ _ => vecReg v
  | .vsts v _ _ _ _ _ => vecReg v
  | .vscat v _ _ _ _ _ => vecReg v
  | .vadd v _ _ _ _ => vecReg v
  | .vsub v _ _ _ _ => vecReg v
  | .vmul v _ _ _ _ => vecReg v
  | .vfma v _ _ _ t => vecReg v && floatType t
  | .vmax v _ _ _ _ => vecReg v
  | .vmin v _ _ _ _ => vecReg v
  | .vabs v _ _ _ => vecReg v
  | .vneg v _ _ _ => vecReg v
  | .vcvt v _ b _ _ _ => vecReg v && decide (b.toNat % 16 ≤ 7)
  | .vcmp d _ _ _ _ x => decide (d.toNat ≠ 0 ∧ x.toNat ≤ 5)
  | .vselm v _ _ _ => vecReg v
  | .vredsum _ _ _ t => floatType t
  | .vredmax _ _ _ t => floatType t
  | .vexp2 v _ _ t => vecReg v && sfuType t
  | .vlog2 v _ _ t => vecReg v && sfuType t
  | .vrcp v _ _ t => vecReg v && sfuType t
  | .vrsq v _ _ t => vecReg v && sfuType t
  | .vtanh v _ _ t => vecReg v && sfuType t
  | .vbcast _ _ _ _ => true
  | .vext _ _ _ => true
  | .vins _ _ _ => true
  | .vperm _ _ _ _ => true
  | .vxall _ _ => true
  | .vand v _ _ _ t => vecReg v && intType t
  | .vor v _ _ _ t => vecReg v && intType t
  | .vxor v _ _ _ t => vecReg v && intType t
  | .vshl v _ _ _ t => vecReg v && intType t
  | .vshr v _ _ _ t _ => vecReg v && intType t
  | .viota v _ t => vecReg v && intType t
  | .mops d a b x => decide (d.toNat ≠ 0 ∧ x.toNat ≤ 6) && decide (4 ≤ x.toNat → b = 0) && decide (5 ≤ x.toNat → a = 0)
  | .mpop _ _ _ x => decide (x.toNat ≤ 1)
  | .vldexp v _ _ _ t => vecReg v && floatType t
  | .job _ _ _ => true
  | .jobm _ _ _ _ => true
  | .jobtest d a => decide (d ≠ a)
  | .gissue _ _ => true
  | .tswap _ _ => true
  | .accrd _ _ _ _ => true
  | .accwr _ _ _ _ => true
  | .imx _ => true
  | .unassignedOpcode _ => false
  | .cutMarker _ _ _ _ => true
  | .uniformReport _ _ _ _ => true
  | .uniformGrant _ _ _ _ => true
  | .frozen _ _ => true
  | .broken _ _ _ => true
  | .prepare _ _ => true
  | .ready _ _ _ _ => true
  | .commit _ _ _ => true
  | .ended _ _ _ => true
  | .done _ => true
  | .cutCompleteReport _ _ _ _ => true
  | .fallbackVoteArrival _ _ _ => true
  | .mma _ => true
  | .mmat _ => true
  | .accz _ => true
  | .acccvt _ => true
  | .accld _ => true
  | .wbfill _ => true
  | .copy _ => true
  | .copy2d _ => true
  | .deal _ => true
  | .gathb _ => true
  | .redw _ => true
  | .fill _ => true
  | .selround _ => true
  | .calve _ => true
  | .drift _ => true
  | .moraineSet _ => true
  | .moraineFlush _ => true
  | .unassignedEngineOpcode _ => true
  | .jobCompletion _ => true
  | .matrixJobBegin _ => true
  | .copyJobBegin _ => true
  | .queueEntryFreed _ => true
  | .mailboxAdvance _ => true
  | .messageArrival _ => true
  | .meshHop _ => true
  | .handlerFlakeStart _ => true
  | .threadMessageArrival _ => true
  | .atomicFlake _ => true
  | .completionFlake _ => true
  | .ratioNotice _ => true
  | .runQueueTake _ => true
  | .runQueueAging _ => true
  | .postedStoreAck _ => true
  | .storeReject _ _ => true
  | .impreciseTrap _ => true
  | .loadDataReturn _ => true
  | .kill _ => true
  | .groupDirectoryApply _ => true
  | .qdead _ => true
  | .barrierDeadline _ _ => true
  | .generationNotice _ _ => true
  | .glacierWriteReject _ => true
  | .migrationBatch _ => true
  | .launchCheckDone _ _ => true
  | .launchCounterPoll _ => true
  | .launchLeaveWaiting _ => true
  | .spawnDistribute _ => true
  | .launchEnd _ => true
  | .resumeRestore _ => true
  | .preemptionComplete _ => true
  | .counterRotation _ => true
  | .pcSample _ => true
  | .dieFence _ => true
  | .dieResetComplete _ => true
  | .peerDeclaredDown _ => true
  | .arbiterEvaluation _ => true
  | .transitionEnd _ => true
  | .uniformMinimum _ => true
  | .uniformApply _ => true
  | .floeAction _ => true
  | .floeCut _ => true
  | .cutComplete _ => true
  | .straggler _ => true
  | .fallbackVote _ => true
  | .ptpIntervalTimer _ _ => true
  | .selectionTimer _ => true
  | .selectionRound _ => true
  | .moraineRingSpace _ => true
  | .postedStoreLanding _ => true
  | .yield => true
  | .fin => true
  | .drain => true
  | .gbarWired => true
  | .tret => true
  | .gendrainCl => true
  | .gendrainPk => true
  | .vrel => true
  | .flakeOverrun _ => true
  | .serviceFlakeTrap _ _ _ => true
  | .atomicReply _ _ => true
  | .preciseTrap _ _ _ => true
  | .joinCounterDecrement => true
  | .ringStall _ _ => true
  | .pageWalk _ _ _ _ _ _ => true
  | .refreshWindowStart _ => true
  | .refreshWindowEnd _ => true
  | .launchArm _ _ => true
  | .prelaunch _ _ => true
  | .pwrcap _ => true
  | .pwrshareWrite _ _ => true
  | .partcfg _ _ _ => true
  | .ctrsel _ _ _ => true
  | .sendlaunch _ _ => true
  | .bar4Access _ _ _ _ => true
  | .dierst _ => true
  | .peerclr _ => true
  | .fabricLinkChange _ _ => true
  | .attreq _ => true
  | .attestationDone => true
  | .alarmlogRead => true
  | .securityAlarm _ => true
  | .boot _ _ => true
  | .registerWrite _ _ _ _ => true
  | .coefficientUpdate _ _ _ _ _ _ => true
  | .ptpSync _ _ _ _ _ => true
  | .ptpFollowUp _ _ _ _ => true
  | .ptpDelayReq _ _ _ _ => true
  | .ptpDelayResp _ _ _ _ _ => true
  | .ptpAnnounce _ _ _ => true
  | .syncTimeout => true
  | .holdoverTick => true
  | .timeUnitFailover => true
  | .fitnessExchange _ _ _ _ _ => true
  | .driftRequest _ _ _ _ _ => true
  | .driftReady _ _ _ _ => true
  | .driftStream _ _ _ _ _ _ => true
  | .launchWindowWrite _ _ _ => true
  | .imageDiscard _ => true
  | .peerRequest _ _ _ _ _ _ _ _ _ _ => true
  | .driftAcknowledgement _ _ _ _ _ => true
  | .cxlLinkChange _ _ => true

end Sys2Proof
end

