-- ==== Sys2Proof/Machine/Translate.lean ====
section
/-!
DEFINITION. Sys2Proof/Machine/Translate.lean: the physical map, the page-table walk, the TLBs, and the resolution of
an address to the place in memory it names (R64, R76, R107-R117).
-/

namespace Sys2Proof.Machine

open Sys2Proof

/-! ## The physical map (R76) -/

/-- The CXL capacity enumerated over the four root ports (13, CXL). -/
def State.cxlBytes (s : State) : Nat := (upFrom 0 4).foldl (fun n p => n + s.pkg.cxlCap.get 0 p) 0

/-- The root port that serves a CXL physical address: capacity is contiguous in root-port order. -/
def State.cxlPort (s : State) (pa : Nat) : Nat :=
  let off := pa - 0x10000000000
  let c0 := s.pkg.cxlCap.get 0 0
  let c1 := c0 + s.pkg.cxlCap.get 0 1
  let c2 := c1 + s.pkg.cxlCap.get 0 2
  if off < c0 then 0 else if off < c1 then 1 else if off < c2 then 2 else 3

inductive PhysKind where
  | hbm | lpddr | cxl | hostWindow (port : Nat) | control
deriving DecidableEq, Repr

/-- What a physical address holds, if anything. -/
def State.phys (s : State) (pa : Nat) : Option PhysKind :=
  if pa < 0x06000000000 then some .hbm
  else if pa < 0x08000000000 then none
  else if pa < 0x10000000000 then some .lpddr
  else if pa < 0x90000000000 then (if pa - 0x10000000000 < s.cxlBytes then some .cxl else none)
  else if pa < 0xA0000000000 then none
  else if pa < 0xB0000000000 then some (.hostWindow 0)
  else if pa < 0xC0000000000 then some (.hostWindow 1)
  else if pa < 0xC0000600000 then some .control
  else none

/-- The tier of a physical kind: 0 HBM and device control space, 1 the rest. -/
def PhysKind.tier : PhysKind → Nat
  | .hbm => 0
  | .control => 0
  | .lpddr => 1
  | .cxl => 1
  | .hostWindow _ => 1

/-- The memory key of a physical byte: a host window byte is host memory at HWBASE (R127). -/
def State.physKey (s : State) (part pa : Nat) : Nat :=
  if 0xA0000000000 ≤ pa ∧ pa < 0xC0000000000 then
    hostKey ((pa / 2 ^ 40 - 10) * 2 ^ 66 + ((s.part part).hwbase.toNat + pa % 2 ^ 40) % 2 ^ 64)
  else pa

/-! ## The walk (R107-R111) -/

/-- The kinds of access that a leaf permits separately (R111). -/
inductive Acc where
  | read | write | atomic | fetch
deriving DecidableEq, Repr

/-- A leaf: the bytes it maps, its frame, and U, X, W, R as bits 3 to 0. -/
structure Leaf where
  size  : Nat
  frame : Nat
  perm  : BitVec 4
deriving DecidableEq, Repr

/-- Eight bytes at a physical address, as a partition's walkers read them: an uncached read, of host memory through its
window, and of bytes with an error or behind a link that is down as they stand (DESIGN CHOICE, log 89). Where the
address holds no memory there is no entry (DESIGN CHOICE, log 92). -/
def State.physWord (s : State) (part pa : Nat) : Nat :=
  if (s.phys pa).isNone then 0 else s.peek (s.physKey part pa) 8

/-- Does the address-space directory entry exist, and where is its level-0 table? An entry with a reserved bit set
faults every translation under its ASID (DESIGN CHOICE, log 92). -/
def State.dirRoot (s : State) (part : Nat) (asid : BitVec 16) : Option Nat :=
  let e := s.physWord part ((s.part part).asdir.toNat + 8 * asid.toNat)
  if e % 2 = 1 ∧ natBits e 1 15 = 0 ∧ natBits e 44 20 = 0 then some (natBits e 16 28 * 2 ^ 16) else none

/-- A leaf's size by its size code. -/
def leafSize (code : Nat) : Nat :=
  if code = 0 then 4096 else if code = 1 then 65536 else if code = 2 then 2 ^ 21 else 2 ^ 30

/-- May a leaf with this size code stand at this level? -/
def sizeFits (level code : Nat) : Bool :=
  (level == 1 && code == 3) || (level == 2 && code == 2) || (level == 3 && (code == 0 || code == 1))

/-- One entry of a walk at a level: a fault, a leaf, or the next table. -/
inductive Pte where
  | fault
  | leaf (l : Leaf)
  | table (base : Nat)
deriving DecidableEq, Repr

/-- A leaf may run past the end of the memory that its frame begins in; the bytes past it fault (DESIGN CHOICE,
log 92). -/
def State.readPte (s : State) (level e : Nat) : Pte :=
  let frame := natBits e 12 32 * 4096
  let size := natBits e 58 2
  let reserved := natBits e 60 4 + natBits e 44 13 + natBits e 6 6
  if e % 2 = 0 ∨ reserved ≠ 0 then .fault
  else match s.phys frame with
    | none => .fault
    | some k =>
      if k.tier ≠ natBits e 57 1 then .fault
      else if natBits e 1 1 = 1 then
        if sizeFits level size && frame % leafSize size == 0 then
          .leaf ⟨leafSize size, frame, BitVec.ofNat 4 (natBits e 2 1 + 2 * natBits e 3 1 + 4 * natBits e 4 1 + 8 * natBits e 5 1)⟩
        else .fault
      else if level = 3 ∨ size ≠ 0 ∨ natBits e 2 4 ≠ 0 ∨ frame % 4096 ≠ 0 then .fault
      else .table frame

/-- The levels of a walk from `level` on: the low index bit and the index width of each. -/
def State.walkFrom (s : State) (part va : Nat) : List (Nat × Nat × Nat) → Nat → Option Leaf
  | [], _ => none
  | (level, lo, width) :: rest, base =>
    match s.readPte level (s.physWord part (base + 8 * natBits va lo width)) with
    | .fault => none
    | .leaf l => some l
    | .table b => s.walkFrom part va rest b

def walkLevels : List (Nat × Nat × Nat) := [(0, 39, 13), (1, 30, 9), (2, 21, 9), (3, 12, 9)]

/-- The walk of an address space for a virtual address. -/
def State.walk (s : State) (part : Nat) (asid : BitVec 16) (va : Nat) : Option Leaf :=
  match s.dirRoot part asid with
  | none => none
  | some root => s.walkFrom part va walkLevels root

/-- R111, R231: does a leaf permit an access at a level? -/
def permits (perm : BitVec 4) (acc : Acc) (sup : Bool) : Bool :=
  let r := perm.getLsbD 0
  let w := perm.getLsbD 1
  let x := perm.getLsbD 2
  let u := perm.getLsbD 3
  (sup || u) && match acc with
    | .read => r
    | .write => w
    | .atomic => r && w
    | .fetch => x && (!sup || !u)

/-! ## TLBs (R112, R114) -/

/-- A cluster's copy of an ASID's generation (DEDUCED, log 48). -/
def State.genOf (s : State) (cluster : Nat) (asid : BitVec 16) : BitVec 32 := (s.cluster cluster).gens.get 0 asid.toNat

/-- ASGEN (R276): the executing thread's address space with its generation. -/
def State.asgen (s : State) : Word :=
  w64 (field (s.genOf (clusterOf s.me) s.th.asid).toNat 16 + s.th.asid.toNat)

def TlbEntry.hits (e : TlbEntry) (part : Nat) (asid : BitVec 16) (gen : BitVec 32) (va : Nat) : Bool :=
  e.asid == asid && e.part == part && e.gen == gen && e.va == va / e.size * e.size

/-- Which TLB of a core an access looks in before its cluster's: an engine looks in neither. -/
inductive TlbSel where
  | fetch | data | engine
deriving DecidableEq, Repr

def Core.tlb (c : Core) : TlbSel → List TlbEntry
  | .fetch => c.itlb
  | .data => c.dtlb
  | .engine => []

/-- The leaf that translates a virtual address for a core: from the core's TLB, its cluster's, or a walk. -/
def State.leafFor (s : State) (core : Nat) (sel : TlbSel) (part : Nat) (asid : BitVec 16) (va : Nat) : Option Leaf :=
  let gen := s.genOf (clusterOf core) asid
  match ((s.core core).tlb sel ++ (s.cluster (clusterOf core)).tlb).find? fun e => e.hits part asid gen va with
  | some e => some ⟨e.size, e.frame, e.perm⟩
  | none => s.walk part asid va

/-! ## Places -/

/-- What an address names. -/
inductive Place where
  /-- a byte of a core's scratchpad; by the private alias or by the global address -/
  | spad (core off : Nat) (alias_ : Bool)
  | glacier (die off : Nat)
  /-- bulk memory of a kind at a physical address -/
  | bulk (kind : PhysKind) (pa : Nat)
deriving DecidableEq, Repr

/-- Does a place lie in bulk memory? -/
def Place.isBulk : Place → Bool
  | .bulk .hbm _ => true
  | .bulk .lpddr _ => true
  | .bulk .cxl _ => true
  | _ => false

/-- Why an address names nothing the access may reach; each has a job status (R82). -/
inductive AddrFault where
  | translation | layout | noCore | window
deriving DecidableEq, Repr

def AddrFault.status : AddrFault → BitVec 8
  | .translation => 0x01
  | .layout => 0x02
  | .noCore => 0x05
  | .window => 0x04

/-- Whose access it is: the core it is made for (none for a unit, R465), its partition, ASID and level, and whether
an engine makes it. -/
structure Issuer where
  core : Option Nat
  part : Nat
  asid : BitVec 16
  sup  : Bool
  engine : Bool := false
deriving DecidableEq, Repr

def Thread.issuer (t : Thread) (core : Nat) : Issuer := { core := some core, part := t.part, asid := t.asid, sup := t.lev }

/-- The core whose TLBs serve an access; a unit's accesses walk as the first core's cluster would without entries. -/
def Issuer.leaf (i : Issuer) (s : State) (fetch : Bool) (va : Nat) : Option Leaf :=
  match i.core with
  | some c => s.leafFor c (if i.engine then .engine else if fetch then .fetch else .data) i.part i.asid va
  | none => s.walk i.part i.asid va

/-- The fate of a weight-buffer window address that no access of this kind may use (R14, R64): a row above 23 names no
core and comes first where several are broken (DEDUCED, log 100), a broken layout or a cell outside the partition comes
next, and any other is an operand outside its limits. -/
def State.windowFault (s : State) (part a : Nat) : AddrFault :=
  let row := natBits a 37 5
  if 24 ≤ row then .noCore
  else if natBits a 44 8 ≠ 0 ∨ natBits a 34 3 ≠ 0 ∨ natBits a 20 12 ≠ 0 ∨ natBits a 32 2 = 3 then .layout
  else if !s.hasCluster part (natBits a 42 2 * 24 + row) then .layout
  else .window

/-- R64, R66, R14, R465: resolve an address for an access. A row or column above 23 decides the fate of a scratchpad
address that breaks its layout elsewhere too (DEDUCED, log 100). -/
def State.resolve (s : State) (i : Issuer) (addr : Word) (acc : Acc) : Except AddrFault Place :=
  let a := addr.toNat
  let cls := natBits a 52 4
  if natBits a 56 8 ≠ 0 then .error .layout
  else if cls = 0 then
    if a < 0x20000 then
      match i.core with
      | some c => if acc = .fetch then .error .layout else .ok (.spad c a true)
      | none => .error .layout
    else if a < 0x100000000 then .error .layout
    else match i.leaf s (acc = .fetch) (natBits a 0 52) with
      | none => .error .translation
      | some l =>
        if !permits l.perm acc i.sup then .error .translation
        else
          let pa := l.frame + a % l.size
          match s.phys pa with
          | none => .error .translation
          | some k => .ok (.bulk k pa)
  else if acc = .fetch then .error .layout
  else if cls = 1 then
    let row := natBits a 37 5
    let col := natBits a 32 5
    if row ≥ 24 ∨ col ≥ 24 then .error .noCore
    else if natBits a 44 8 ≠ 0 ∨ natBits a 17 15 ≠ 0 then .error .layout
    else
      let c := coreAt (natBits a 42 2) row col
      if s.hasCore i.part c then .ok (.spad c (natBits a 0 17) false) else .error .layout
  else if cls = 2 then
    let die := natBits a 42 2
    if natBits a 44 8 ≠ 0 ∨ natBits a 29 13 ≠ 0 then .error .layout
    else if s.hasGlacier i.part die then .ok (.glacier die (natBits a 0 29)) else .error .layout
  else if cls = 3 then .error (s.windowFault i.part a)
  else .error .layout

/-- The memory key of a place. -/
def State.keyOf (s : State) (part : Nat) : Place → Nat
  | .spad c off _ => spadKey c off
  | .glacier d off => glacierKey d off
  | .bulk _ pa => s.physKey part pa

/-- Memory that a CXL port's down link (13, CXL) or a fenced die (R273) keeps from being reached. -/
def State.unreachable (s : State) : Place → Bool
  | .bulk .cxl pa => !s.pkg.cxlUp.getLsbD (s.cxlPort pa)
  | .bulk _ _ => false
  | .spad c _ _ => s.pkg.fenced.getLsbD (dieOf c)
  | .glacier d _ => s.pkg.fenced.getLsbD d

/-! ## The refresh calendar (R73) -/

/-- Is bank `b` refreshing at the present device time? -/
def State.refreshing (s : State) (b : Nat) : Bool :=
  let r := s.time.ns % 64000
  decide (2000 * b ≤ r ∧ r < 2000 * b + 2000)

/-- GLREF: the start of the earliest window of a bank that has not yet ended (R74). -/
def State.glref (s : State) (b : Nat) : Nat :=
  let base := s.time.ns / 64000 * 64000
  if s.time.ns % 64000 < 2000 * b + 2000 then base + 2000 * b else base + 64000 + 2000 * b

/-- The bank of a glacier key. -/
def keyBank (k : Nat) : Nat := k % 2 ^ 29 / 2 ^ 24

/-- Is the bank of a glacier key refreshing? -/
def State.keyRefreshing (s : State) (k : Nat) : Bool := isGlacierKey k && s.refreshing (keyBank k)

/-- The accesses of engines and of the selection unit that wait at glacier ports: memory key, and number of arrival. -/
def State.unitWaits (s : State) : List (Nat × Nat) :=
  s.jobs.filterMap (·.2.waits) ++ s.domains.filterMap (·.2.waits)

/-- The numbers, by arrival, of the accesses that wait at one die's port for the bank of a key. -/
def State.waitingAt (s : State) (k : Nat) : List Nat :=
  (s.stores.filter fun p => isGlacierKey p.key && p.peer.isNone && !p.landed && p.key / 2 ^ 24 == k / 2 ^ 24).filterMap
      (·.arrival) ++
    (s.portQueue.filter fun x => x.key / 2 ^ 24 == k / 2 ^ 24).map (·.number) ++
    (s.unitWaits.filter fun x => x.1 / 2 ^ 24 == k / 2 ^ 24).map (·.2)

/-- Must an access to a key wait at its port: its bank refreshes, or accesses that arrived before it have not proceeded?
One that has not arrived yet has no number. -/
def State.portHolds (s : State) (k : Nat) (number : Option Nat) : Bool :=
  isGlacierKey k && (s.keyRefreshing k || (s.waitingAt k).any fun n => match number with
    | some x => decide (n < x)
    | none => true)

/-- The refreshing bank of a glacier place. -/
def State.busyBank (s : State) : Place → Option Nat
  | .glacier _ off => if s.refreshing (off / 2 ^ 24) then some (off / 2 ^ 24) else none
  | _ => none

/-! ## Glacier bindings (R70-R72) -/

/-- Does a binding that is not suspended for its domain hold the granule? -/
def State.boundBy (s : State) (die granule : Nat) (skip : Option Nat) : Bool :=
  s.bindings.any fun b =>
    b.die == die && decide (b.first ≤ granule ∧ granule < b.first + b.count) &&
      !(skip.isSome && b.domain == skip && b.launch.isNone)

def State.bound (s : State) (die granule : Nat) : Bool := s.boundBy die granule none

/-- The number of binders of a granule: a block that lists it in two of its fields counts twice (DESIGN CHOICE,
log 92). -/
def State.bindCount (s : State) (die granule : Nat) : Nat :=
  (s.bindings.filter fun b => b.die == die && decide (b.first ≤ granule ∧ granule < b.first + b.count)).length

/-- Is a glacier place in a bound granule? -/
def State.placeBound (s : State) : Place → Bool
  | .glacier d off => s.bound d (off / 65536)
  | _ => false

end Sys2Proof.Machine
end

