-- ==== Sys2Proof/Machine/Ops.lean ====
section
/-!
DEFINITION. Sys2Proof/Machine/Ops.lean: the operations that instructions and events share: messages (R47-R56), the
partition's rings (R259), groups (R38-R40, R351), the end of a thread (R29), taking a trap and returning from one
(R233-R236), and the waits of releases and tokens (R81, R82, R90).
-/

namespace Sys2Proof.Machine

open Sys2Proof

/-! ## Cause codes (R237) -/

def Cause.illegal : BitVec 8 := 0x01
def Cause.priv : BitVec 8 := 0x02
def Cause.misalign : BitVec 8 := 0x03
def Cause.ifetchFault : BitVec 8 := 0x04
def Cause.loadFault : BitVec 8 := 0x05
def Cause.storeFault : BitVec 8 := 0x06
def Cause.storeReject : BitVec 8 := 0x07
def Cause.capFault : BitVec 8 := 0x08
def Cause.atomUncarried : BitVec 8 := 0x09
def Cause.noLanes : BitVec 8 := 0x0A
def Cause.migrateBlocked : BitVec 8 := 0x0B
def Cause.jobFault : BitVec 8 := 0x0C
def Cause.copyCount : BitVec 8 := 0x0D
def Cause.qdead : BitVec 8 := 0x0E
def Cause.ringStall : BitVec 8 := 0x0F
def Cause.svc : BitVec 8 := 0x10
def Cause.bkpt : BitVec 8 := 0x11
def Cause.flakeOverrun : BitVec 8 := 0x12
def Cause.straggler : BitVec 8 := 0x13
def Cause.mchk : BitVec 8 := 0x14
def Cause.joinFail : BitVec 8 := 0x15

/-! ## Message headers (R48) -/

def hKind (h : Word) : Nat := wbits h 60 4
def hPrio (h : Word) : Nat := wbits h 58 2
def hRadius (h : Word) : Nat := wbits h 53 5
def hDie (h : Word) : Nat := wbits h 51 2
/-- The hint's row and column: beyond 23 they are treated as 23 (R14). -/
def hRow (h : Word) : Nat := min (wbits h 46 5) 23
def hCol (h : Word) : Nat := min (wbits h 41 5) 23
def hExact (h : Word) : Bool := wbit h 40
def hCount (h : Word) : Nat := wbits h 32 8
def hEntry (h : Word) : Nat := wbits h 0 32
/-- The hint core. -/
def hCore (h : Word) : Nat := coreAt (hDie h) (hRow h) (hCol h)

def mkHeader (kind prio radius core : Nat) (exact : Bool) (count entry : Nat) : Word :=
  w64 (field kind 60 + field prio 58 + field radius 53 + field (dieOf core) 51 + field (rowOf core) 46 +
    field (colOf core) 41 + field exact.toNat 40 + field count 32 + entry)

/-- The entry of a kind-5 reply (R55). -/
def replyEntry : Nat := 0xFFFFFFFF

/-- R55: a kind-5 message that completes an atomic. -/
def Msg.isReply (m : Msg) : Bool := hKind m.header == 5 && hEntry m.header == replyEntry

/-- The MESHID of no core: a message of the host or of a launch controller (R261). -/
def noSender : BitVec 32 := 0xFFFFFFFF

/-- s3 of the work that a message starts: the sender's MESHID, or all ones for the host's (R261). -/
def senderWord (m : BitVec 32) : Word := if m = noSender then BitVec.allOnes 64 else m.setWidth 64

/-- The core that a sideband sender names. -/
def senderCore (m : BitVec 32) : Nat := coreOfCtx (ctxOfMesh m)

/-- The MESHID of a context of this package. -/
def State.meshOf (s : State) (ctx : Nat) : BitVec 32 := meshId s.pkg.chip ctx

/-- A message enters the mesh. -/
def State.inject (s : State) (m : Msg) : State :=
  { s with mesh := s.mesh ++ [{ m with id := s.nextId }], nextId := s.nextId + 1 }

/-- A message that a context sends, formed with its sideband (R50). -/
def State.msgFrom (s : State) (ctx : Nat) (header : Word) (payload : List Word) (origin : Origin) : Msg :=
  let t := s.thAt ctx
  { id := 0, header, payload, sender := s.meshOf ctx, part := t.part, launch := t.launch, origin, lev := t.lev,
    asid := t.asid, thread := none, at_ := coreOfCtx ctx, entered := false, taker := none, blocked := false }

/-- R53: a core's egress port of a priority is stalled while its message waits at a full mailbox (DEDUCED, log 43). -/
def State.egressBlocked (s : State) (core prio : Nat) : Bool :=
  s.mesh.any fun m => m.blocked && hPrio m.header == prio && m.sender != noSender && senderCore m.sender == core

/-! ## Rings (R259) -/

inductive RingSel where
  | fault | floe | sample | migrate
deriving DecidableEq, Repr

def Part.ring (p : Part) : RingSel → Ring
  | .fault => p.fault
  | .floe => p.floe
  | .sample => p.sample
  | .migrate => p.migrate

def Part.setRing (p : Part) (r : Ring) : RingSel → Part
  | .fault => { p with fault := r }
  | .floe => { p with floe := r }
  | .sample => { p with sample := r }
  | .migrate => { p with migrate := r }

def Ring.addr (r : Ring) : Nat := wbits r.base 6 58 * 64

/-- log2 of the entries of an enabled ring. -/
def Ring.size? (r : Ring) : Option Nat :=
  let n := wbits r.base 0 6
  if 4 ≤ n ∧ n ≤ 20 ∧ 0x20000 ≤ r.addr then some n else none

/-- The units that act for no core: supervisor level, no alias (R465). -/
def unitIssuer (part : Nat) (asid : BitVec 16) : Issuer := { core := none, part, asid, sup := true }

def satInc32 (x : BitVec 32) : BitVec 32 := if x = BitVec.allOnes 32 then x else x + 1

/-- Write a record of 64-bit words to a ring; the answer says whether it was written (DEDUCED, log 75). -/
def State.ringPut (s : State) (p : Nat) (sel : RingSel) (rec : List Nat) : State × Bool :=
  let r := (s.part p).ring sel
  match r.size? with
  | none => (s, false)
  | some n =>
    let drop := (s.setPart p ((s.part p).setRing { r with dropped := satInc32 r.dropped } sel), false)
    if (r.producer - r.consumer).toNat = 2 ^ n then drop
    else
      let a := w64 (r.addr + r.producer.toNat % 2 ^ n * (8 * rec.length))
      match s.resolve (unitIssuer p 0) a .write with
      | .ok (.bulk k pa) =>
        if k = .control ∨ s.unreachable (.bulk k pa) then drop
        else
          let s := s.land (s.keyOf p (.bulk k pa)) (rec.flatMap (leBytes 8))
          (s.setPart p ((s.part p).setRing { r with producer := r.producer + 1 } sel), true)
      | _ => drop

/-- A fault record (R236, R259), and MSI-X vector 0 where it is written (R262). -/
def State.faultRecord (s : State) (p id ctx : Nat) (cause : BitVec 8) (addr epc : Word) : State :=
  match s.ringPut p .fault
      [field (id % 2 ^ 32) 32 + field ctx 16 + cause.toNat, addr.toNat, epc.toNat, s.time.ns] with
  | (s, true) => s.msix p 0
  | (s, false) => s

/-! ## The light context (R36) -/

/-- The first faulting address kept with a completed token. -/
def Thread.tokenAddr (t : Thread) (r : Nat) : Word := match t.token r with | .done a => a | _ => 0

def Thread.tcause (t : Thread) : Word := w64 (field t.notice.toNat 9 + field t.imprecise.toNat 8 + t.cause.toNat)

/-- The mode word. -/
def Thread.modeWord (t : Thread) : Word :=
  w64 (field (t.tid % 2 ^ 32) 32 + field t.rn.toNat 31 + field t.jn.toNat 30 + field t.nest.toNat 29 +
    field t.plev.toNat 28 + field t.lev.toNat 27 + field (t.level % 4) 24 + field t.cellmask.toNat 16 +
    field t.regrant.toNat 13 + field t.clip.toNat 12 + field t.ftz.toNat 11 + field t.rmode.toNat 8 + t.fpstat.toNat)

/-- The capability extension: c0 to c7, then their tags. -/
def Thread.capWords (t : Thread) : List Word :=
  ((upFrom 0 8).flatMap fun i => [(t.cap i).bits.setWidth 64, ((t.cap i).bits >>> 64).setWidth 64]) ++
    [w64 ((upFrom 0 8).foldl (fun n i => n + field (t.cap i).tag.toNat i) 0)]

/-- The state extension. -/
def Thread.stateWords (t : Thread) : List Word :=
  [t.tcause, t.taddr, t.epc, w64 (t.sfrq.length + field t.dropped.toNat 8 + field t.skid.toNat 16),
    w64 (t.fmtA.toNat + field t.fmtB.toNat 4 + field t.fmtC.toNat 8 + field t.sclA.toNat 12 + field t.sclB.toNat 21 +
      field t.sclC.toNat 30 + field t.glref.toNat 39),
    w64 ((upFrom 1 31).foldl (fun n r => n + field (t.unread r).toNat r) 0)] ++
    (upFrom 0 8).map fun i => (t.sfrq.getD i (0, 0)).1

/-- Would any word of the state extension be nonzero? -/
def Thread.hasStateExt (t : Thread) : Bool := t.stateWords.any fun w => w != 0

def Thread.hasCaps (t : Thread) : Bool := (upFrom 0 8).any fun i => (t.cap i).tag

/-- The header's count of dwords for a thread message. -/
def Thread.messageCount (t : Thread) : Nat := 37 + (if t.hasStateExt then 14 else 0) + (if t.hasCaps then 17 else 0)

/-- The payload of a thread message: the light context of 296 bytes with its ASGEN, and its extensions. -/
def Thread.context (t : Thread) (asgen : Word) : List Word :=
  [t.pc] ++ (upFrom 1 31).map t.S ++ [asgen, t.join, t.srseed, t.flurcnt, t.modeWord] ++
    (if t.hasCaps then t.capWords else []) ++ if t.hasStateExt then t.stateWords else []

/-- The mode word's fields. -/
def Thread.takeMode (t : Thread) (w : Word) : Thread :=
  { t with
    tid := wbits w 32 32, rn := wbit w 31, jn := wbit w 30, nest := wbit w 29, plev := wbit w 28, lev := wbit w 27,
    level := wbits w 24 2, cellmask := BitVec.ofNat 8 (wbits w 16 8), regrant := wbit w 13, clip := wbit w 12,
    ftz := wbit w 11, rmode := BitVec.ofNat 3 (wbits w 8 3), fpstat := BitVec.ofNat 8 (wbits w 0 8) }

/-- The capability extension is taken; without one every capability register takes zero. -/
def Thread.takeCaps (t : Thread) (ws : List Word) : Thread :=
  { t with c := (upFrom 0 8).foldl (fun c i =>
      let x : Cap := ⟨(ws.getD (2 * i + 1) 0 : Word) ++ (ws.getD (2 * i) 0 : Word), wbit (ws.getD 16 0) i⟩
      if x = {} then c else c.insert i x) [] }

/-- The state extension is taken; without one its registers take zero. What the package keeps of a token and of a
record beside the words stays. -/
def Thread.takeState (t : Thread) (ws : List Word) : Thread :=
  let w (i : Nat) : Word := ws.getD i 0
  { t with
    cause := BitVec.ofNat 8 (wbits (w 0) 0 8), imprecise := wbit (w 0) 8, notice := wbit (w 0) 9, taddr := w 1
    epc := w 2, dropped := BitVec.ofNat 8 (wbits (w 3) 8 8), skid := BitVec.ofNat 16 (wbits (w 3) 16 16)
    sfrq := (upFrom 0 (min (wbits (w 3) 0 4) 8)).map fun i => (w (6 + i), (t.sfrq.getD i (0, 0)).2)
    fmtA := BitVec.ofNat 4 (wbits (w 4) 0 4), fmtB := BitVec.ofNat 4 (wbits (w 4) 4 4)
    fmtC := BitVec.ofNat 4 (wbits (w 4) 8 4), sclA := BitVec.ofNat 9 (wbits (w 4) 12 9)
    sclB := BitVec.ofNat 9 (wbits (w 4) 21 9), sclC := BitVec.ofNat 9 (wbits (w 4) 30 9)
    glref := BitVec.ofNat 5 (wbits (w 4) 39 5)
    tok := (upFrom 1 31).foldl (fun k r => if wbit (w 5) r then k.insert r (.done (t.tokenAddr r)) else k) [] }

/-- A thread takes every value of a thread message's payload: its count says which extensions it has. -/
def Thread.takeContext (t : Thread) (ws : List Word) : Thread :=
  let n := ws.length
  let caps := if n = 54 ∨ n = 68 then (ws.drop 37).take 17 else []
  let ext := if n = 51 ∨ n = 68 then ws.drop (n - 14) else []
  let t := { t with
    pc := ws.getD 0 0
    s := (upFrom 1 31).foldl (fun k r => if ws.getD r 0 = 0 then k else k.insert r (ws.getD r 0)) []
    asid := (ws.getD 32 0).setWidth 16, join := ws.getD 33 0, srseed := ws.getD 34 0, flurcnt := ws.getD 35 0 }
  ((t.takeMode (ws.getD 36 0)).takeCaps caps).takeState ext

/-! ## Threads wherever they stand (R27) -/

/-- Change the thread that a message carries, and with it the context in its payload. -/
def Msg.mapThread (f : Thread → Thread) (m : Msg) : Msg :=
  match m.thread with
  | none => m
  | some t => { m with thread := some (f t), payload := (f t).context (m.payload.getD 32 0) }

def Entry.mapThread (f : Thread → Thread) : Entry → Entry
  | .msg m => .msg (m.mapThread f)
  | .thread t => .thread (f t)

def RunEntry.mapThread (f : Thread → Thread) (e : RunEntry) : RunEntry := { e with entry := e.entry.mapThread f }

/-- The message that a context holds may carry a thread. -/
def Mode.mapThread (f : Thread → Thread) : Mode → Mode
  | .starting m => .starting (m.mapThread f)
  | m => m

/-- The message that leaves for another chip. -/
def Fabric.message? : Fabric → Option Msg
  | .msg _ m => some m
  | _ => none

/-- A thread may be on its way to another chip. -/
def Fabric.mapThread (f : Thread → Thread) : Fabric → Fabric
  | .msg chip m => .msg chip (m.mapThread f)
  | x => x

/-- Change every thread, on a context, queued, migrating or held in an image. -/
def State.mapThreads (s : State) (f : Thread → Thread) : State :=
  { s with
    ctxs := s.ctxs.mapVal fun _ c => { mode := c.mode.mapThread f, th := f c.th }
    cores := s.cores.mapVal fun _ c =>
      { c with
        runq := c.runq.map (RunEntry.mapThread f)
        backlog := c.backlog.map (RunEntry.mapThread f)
        mail := c.mail.map (Msg.mapThread f) }
    mesh := s.mesh.map (Msg.mapThread f)
    outbox := s.outbox.map (Fabric.mapThread f)
    images := s.images.mapVal fun _ i =>
      { i with
        threads := i.threads.map fun p => (p.1, f p.2)
        queued := i.queued.map fun p => (p.1, p.2.mapThread f)
        captured := i.captured.map (Msg.mapThread f) } }

/-- Is this the thread with a partition's number? -/
def Thread.isTid (t : Thread) (part tid : Nat) : Bool := t.part == part && t.tid == tid && t.flake.isNone

/-- Change one thread wherever it stands. -/
def State.onThread (s : State) (part tid : Nat) (f : Thread → Thread) : State :=
  s.mapThreads fun t => if t.isTid part tid then f t else t

/-! ## Groups (R38-R40, R351) -/

/-- One completion of the open phase, where it is due: the group after it, and the members it wakes with the phase. -/
def Group.completeOnce (g : Group) : Group × List (Nat × BitVec 16) :=
  if g.opened ∧ g.count ≤ g.arrived.length then
    let woken := g.arrived.map fun t => (t, g.phase + 1)
    if g.held.isEmpty then
      ({ g with phase := g.phase + 1, opened := false, count := 0, arrived := [], late := [] }, woken)
    else
      ({ g with phase := g.phase + 1, count := g.members.length, arrived := g.held, held := [], late := [] }, woken)
  else (g, [])

/-- CompleteIfDue: a phase opened by held arrivals may complete at once; it then holds none. -/
def Group.completeIfDue (g : Group) : Group × List (Nat × BitVec 16) :=
  let (g1, w1) := g.completeOnce
  let (g2, w2) := g1.completeOnce
  (g2, w1 ++ w2)

/-- Arrive(t, g) of a member. -/
def Group.arrive (g : Group) (tid : Nat) : Group × List (Nat × BitVec 16) :=
  let g := if g.opened then g else { g with opened := true, count := g.members.length, arrived := [], late := [] }
  if g.late.contains tid then ({ g with held := g.held ++ [tid] }, [])
  else ({ g with arrived := g.arrived ++ [tid] }).completeIfDue

/-- A member takes its arrival back (R239, R351). -/
def Group.withdraw (g : Group) (tid : Nat) : Group :=
  { g with arrived := g.arrived.erase tid, held := g.held.erase tid }

/-- A member leaves or ends (DEDUCED, log 46). -/
def Group.leave (g : Group) (tid : Nat) : Group × List (Nat × BitVec 16) :=
  let members := g.members.erase tid
  if members.isEmpty then ({}, [])
  else if g.opened && !g.late.contains tid then
    ({ g with members, count := g.count - 1, arrived := g.arrived.erase tid }).completeIfDue
  else ({ g with members, late := g.late.erase tid, held := g.held.erase tid }, [])

def Group.join (g : Group) (tid : Nat) : Group :=
  { g with members := g.members ++ [tid], late := if g.opened then g.late ++ [tid] else g.late }

/-- A GBAR of a completed phase ends: S[D] takes the phase. -/
def Thread.groupWake (t : Thread) (phase : BitVec 16) : Thread :=
  match t.wait with
  | .groupBar _ d _ _ => (t.setS d (phase.setWidth 64)).retire
  | _ => t

/-- The instruction of a thread that stands on a context completes (State.acquireLate). -/
def State.acquireTid (s : State) (part tid : Nat) : State :=
  match s.ctxOfTid part tid with
  | some k => s.acquireLate k
  | none => s

/-- Wake the arrivals of completed phases. -/
def State.groupWakes (s : State) (part : Nat) (ws : List (Nat × BitVec 16)) : State :=
  ws.foldl (fun s w => (s.acquireTid part w.1).onThread part w.1 fun t => t.groupWake w.2) s

def State.setGroup (s : State) (part g : Nat) (x : Group) : State :=
  s.setPart part { s.part part with groups := (s.part part).groups.insert g x }

/-- The groups a thread is in, lowest number first. -/
def State.groupsOf (s : State) (part tid : Nat) : List Nat :=
  ((s.part part).groups.filter fun p => p.2.members.contains tid).map (·.1)

def State.leaveGroup (s : State) (part tid g : Nat) : State :=
  let (x, ws) := ((s.part part).groups.get {} g).leave tid
  (s.setGroup part g x).groupWakes part ws

/-! ## The end of a thread (R28, R29) -/

/-- A GKILL that waits for a thread to end (R39). -/
def Thread.killEnded (t : Thread) (part tid : Nat) : Thread :=
  if t.part = part then
    match t.wait with
    | .gkill d n left => { t with wait := .gkill d n (left.erase tid) }
    | _ => t
  else t

/-- A thread that has ended leaves its groups, and a GKILL that waits for it goes on. -/
def State.threadLeaves (s : State) (t : Thread) : State :=
  let s := (s.groupsOf t.part t.tid).foldl (fun s g => s.leaveGroup t.part t.tid g) s
  let s := s.setPart t.part { s.part t.part with
    ops := (s.part t.part).ops.filter fun o => o.tid != t.tid || o.kind == GroupOpKind.kill }
  s.mapThreads fun u => u.killEnded t.part t.tid

/-- A thread's decrement goes to its join counter; it takes the place of one that its FIN has sent and that is not yet
performed (R345). -/
def State.sendDecrement (s : State) (t : Thread) (failed fin : Bool) : State :=
  if t.join = 0 then s
  else { s with
    decrements := (s.decrements.filter fun d => !(d.fin && d.part == t.part && d.tid == t.tid)) ++
      [{ addr := t.join, failed, part := t.part, tid := t.tid, fin }] }

/-- What a thread's end does elsewhere: its join counter is told, it leaves its groups, and a GKILL that waits for it
goes on. -/
def State.threadGone (s : State) (t : Thread) (failed : Bool) : State :=
  (s.sendDecrement t failed false).threadLeaves t

/-- The context becomes idle. -/
def State.idle (s : State) (ctx : Nat) : State := s.setCtx ctx {}

/-- The thread of a context ends. -/
def State.endThread (s : State) (ctx : Nat) (failed : Bool) : State :=
  (s.threadGone (s.thAt ctx) failed).idle ctx

/-- EndFailed (R236). -/
def State.endFailed (s : State) (ctx : Nat) (code : BitVec 8) (addr epc : Word) : State :=
  let t := s.thAt ctx
  (s.faultRecord t.part t.tid ctx code addr epc).endThread ctx true

/-! ## Join counters at their owner (R30, R360) -/

/-- The atomic operation that makes a join counter zero answers the JCWAIT that sleeps on it. -/
def wakeJoin (m : List Host.Cell) (k n : Nat) (c : Ctx) : Ctx :=
  match c.th.wait with
  | .join j =>
    if overlaps j 8 k n ∧ Memory.readLE m j 6 = 0 then
      { c with th := { c.th with wait := .joinHit (Memory.readLE m j 8) } }
    else c
  | _ => c

/-- A write of the atomic port lands. -/
def State.landAtomic (s : State) (k n x : Nat) : State :=
  let s := s.landLE k n x
  { s with ctxs := s.ctxs.mapVal fun _ c => wakeJoin s.mem k n c }

/-- Change a join counter's word at its owner: the count by an amount modulo 2^48, the failures by one, saturating. -/
def joinWord (w add : Nat) (failed : Bool) : Nat :=
  let f := natBits w 48 16
  field (if failed then min (f + 1) 0xFFFF else f) 48 + (natBits w 0 48 + add) % 2 ^ 48

/-- A core's atomic port performs one operation in a V cycle (R101). -/
def State.usePort (s : State) (core : Nat) : State := s.setCore core { s.core core with portBusy := true }

/-- Has a core's atomic port had its operation of this V cycle, or is the tick past the turn of atomics? -/
def State.portTaken (s : State) (core : Nat) : Bool := (s.core core).portBusy || s.closed

/-- A child's end is counted at the counter's owner: one less, and one failure more where it failed. A counter with an
uncorrectable error is left as it is (DESIGN CHOICE, log 102). -/
def State.countEnd (s : State) (counter : Word) (failed : Bool) : State :=
  let k := counter.toNat
  if isSpadKey k ∧ (s.badGranule? k 8).isNone then
    (s.usePort (coreOfKey k)).landAtomic k 8 (joinWord (s.peek k 8) (2 ^ 48 - 1) failed)
  else s

/-! ## Failed flakes (R56, R63) -/

/-- The notify handler that a launch declares: its entry (R192, byte 0x070). A launch that has ended has none any more
(DESIGN CHOICE, log 90). -/
def State.notifyOf (s : State) (launch : Nat) : Option Nat :=
  match s.launches.look? launch with
  | some l =>
    if l.state ≠ .ended ∧ wbit (l.block.get 0 14) 63 then some (wbits (l.block.get 0 14) 0 32) else none
  | none => none

/-- What a failed-flake completion says of its cause: payload word 1 from bit 0 up, and word 2. -/
structure FlakeFailure where
  core   : Nat
  spent  : Nat
  word   : Nat
  reason : Nat
  cause  : BitVec 8
  addr   : Word
deriving DecidableEq, Repr

/-- A failed-flake completion to a core, of the launch that sent the failed message; without a notify handler it is
discarded and counted. -/
def State.failedFlake (s : State) (m : Msg) (dest : Option Nat) (chain : Word) (f : FlakeFailure) : State :=
  match dest, s.notifyOf m.launch with
  | some core, some entry =>
    s.inject { m with
      header := mkHeader 5 2 0 core true 4 entry
      payload := [m.header,
        w64 (field (s.meshOf (svcCtx f.core)).toNat 32 + field (f.spent % 256) 24 + field (f.word % 256) 16 +
          field f.reason 8 + f.cause.toNat), f.addr, chain]
      sender := s.meshOf (svcCtx f.core), origin := .hardware, thread := none
      at_ := f.core, entered := false, taker := none, blocked := false, inPort := s.egressBlocked f.core 2 }
  | _, _ => s.setPart m.part { s.part m.part with failflake := (s.part m.part).failflake + 1 }

/-- A reply to the context that issued an atomic (R63). -/
def State.reply (s : State) (m : Msg) (from_ : Nat) (old : Word) (status : BitVec 8) (ringStatus : Nat) : State :=
  let ctx := wbits (m.payload.getD 1 0) 24 2
  s.inject { m with
    header := mkHeader 5 2 0 (senderCore m.sender) true 2 replyEntry
    payload := [old, w64 (status.toNat + field ctx 8 + field ringStatus 16)]
    sender := s.meshOf (svcCtx from_), origin := .hardware, thread := none
    at_ := from_, entered := false, taker := none, blocked := false, inPort := s.egressBlocked from_ 2 }

/-- The failed-flake completion of a refused message (R56). Where no core has sent the message there is none to tell, and
the refusal is counted (DESIGN CHOICE, log 90). -/
def State.refusal (s : State) (m : Msg) (core reason : Nat) : State :=
  let flake := hKind m.header == 1 || hKind m.header == 3
  let chain := if flake then m.payload.getD 0 0 else 0
  let dest :=
    if flake then some (senderCore (BitVec.ofNat 32 (wbits chain 32 32)))
    else if m.sender = noSender then none else some (senderCore m.sender)
  s.failedFlake m dest chain
    { core, spent := if flake then wbits chain 0 8 else 0, word := 0xFF, reason, cause := 0, addr := 0 }

/-- The migrating thread of a refused message ends under R236. One of another chip stands in the payload alone: a CLDD
has sent it (R330), and no other thread here has its number. -/
def State.refuseThread (s : State) (m : Msg) : State :=
  let ctx := ctxOfMesh m.sender
  match m.thread with
  | some t => (s.faultRecord t.part t.tid ctx m.cause m.fault t.pc).threadGone t true
  | none =>
    let t := ({ launch := m.launch, part := m.part } : Thread).takeContext m.payload
    (s.faultRecord m.part t.tid ctx Cause.capFault m.fault t.pc).sendDecrement { t with tid := 0 } true false

/-- R56: a router or core refuses a message. A spawn message's join counter counts a failure first (R402). A refused
ratio notice draws no completion and is not counted: the arbiter that sent it has no core (DESIGN CHOICE, log 90). -/
def State.refuse (s : State) (m : Msg) (core reason : Nat) : State :=
  let kind := hKind m.header
  if kind = 4 then s.reply m core 0 Cause.storeFault 0
  else if kind = 2 then s.refuseThread m
  else if (kind = 5 ∨ kind = 7) ∧ m.origin = .hardware ∨ kind = 6 then s
  else if m.origin = .spawn ∧ m.payload.getD 0 0 ≠ 0 then
    { s with decrements := s.decrements ++
        [{ addr := m.payload.getD 0 0, failed := true, part := m.part, tid := 0, fin := false, refused := some (m, core, reason) }] }
  else s.refusal m core reason

/-- A message leaves the mailbox of a core. -/
def State.leaveMail (s : State) (core id : Nat) : State :=
  s.setCore core { s.core core with mail := (s.core core).mail.filter fun m => m.id != id }

/-- A flake ends: the service context holds none, and its message leaves the mailbox (R52). -/
def State.flakeDone (s : State) (ctx : Nat) : State :=
  match (s.thAt ctx).flake with
  | none => s.idle ctx
  | some f =>
    (s.leaveMail (coreOfCtx ctx) f.msg).idle ctx

/-- R60: a trap in inline code ends the flake of a service context and sends a failed-flake completion. -/
def State.endFlake (s : State) (ctx : Nat) (code : BitVec 8) (addr : Word) : State :=
  let t := s.thAt ctx
  match t.flake with
  | none => s.idle ctx
  | some f =>
    let m : Msg :=
      { id := 0, header := f.header, payload := [], sender := f.sender, part := t.part, launch := t.launch,
        origin := .hardware, lev := t.lev, asid := t.asid, thread := none, at_ := coreOfCtx ctx, entered := false,
        taker := none, blocked := false }
    (s.failedFlake m (some (senderCore (BitVec.ofNat 32 (wbits f.chain 32 32)))) f.chain
      { core := coreOfCtx ctx, spent := f.spent, word := t.pc.toNat / 4, reason := 0, cause := code, addr }).flakeDone ctx

/-! ## Taking a trap and returning from it (R233, R235, R413) -/

/-- The registers of a context that enters its handler. -/
def Thread.enterTrap (t : Thread) (vec : Word) (code : BitVec 8) (addr epc : Word) (imprecise notice : Bool) : Thread :=
  { t.srDirty.unconsume with
    cause := code, imprecise, notice, taddr := addr, epc, plev := t.lev, lev := true, nest := true, pc := vec,
    wait := .ready, latch := [], imx := none }

/-- TVEC of an address space (R232). -/
def State.vector (s : State) (asid : BitVec 16) : Word := s.tvec.get 0 asid.toNat

/-- TakeTrap (R233). -/
def State.takeTrap (s : State) (ctx : Nat) (code : BitVec 8) (addr epc : Word) (imprecise notice : Bool) : State :=
  let t := s.thAt ctx
  if t.nest ∨ s.vector t.asid = 0 then s.endFailed ctx code addr epc
  else s.setThAt ctx (t.enterTrap (s.vector t.asid) code addr epc imprecise notice)

/-- TrapPrecise(code, addr) of the executing instruction (R7): on the service context the flake ends. -/
def State.trapAt (s : State) (ctx : Nat) (code : BitVec 8) (addr : Word) : State :=
  match (s.thAt ctx).flake with
  | some _ => s.endFlake ctx code addr
  | none => s.takeTrap ctx code addr (s.thAt ctx).pc false false

/-- The executing instruction traps: it has had no effect. -/
def State.trap (s : State) (code : BitVec 8) (addr : Word) : State := s.undone.trapAt s.cur code addr

def State.illegal (s : State) : State := s.trap Cause.illegal 0

/-- A member that leaves its GBAR for a trap withdraws its arrival (R239, R351). -/
def State.withdrawGroup (s : State) (ctx : Nat) : State :=
  let t := s.thAt ctx
  match t.wait with
  | .groupBar g _ _ _ =>
    let p := s.part t.part
    s.setPart t.part { p with
      ops := p.ops.filter fun o => !(o.kind == GroupOpKind.arrive && o.tid == t.tid)
      groups := p.groups.insert g ((p.groups.get ({} : Group) g).withdraw t.tid) }
  | _ => s

/-- The address that a held record names (R238). -/
def recordAddr (r : Word) : Word := w64 (wbits r 0 56)

/-- An imprecise trap for the head record of the SFRQ (R239): SKID counts the instructions completed after the one
that posted the record's store (DEDUCED, log 81). -/
def State.takeRecord (s : State) (ctx : Nat) (epc : Word) : State :=
  let t := s.thAt ctx
  match t.sfrq with
  | [] => s
  | (r, posted) :: _ =>
    let s := s.withdrawGroup ctx
    let s := s.setThAt ctx { s.thAt ctx with skid := BitVec.ofNat 16 (t.done - posted) }
    s.takeTrap ctx (if wbits r 59 5 = 3 then Cause.jobFault else Cause.storeReject) (recordAddr r) epc true false

/-- A record enters the SFRQ of a context's thread (R238): a full queue drops it. -/
def Thread.addRecord (t : Thread) (r : Word) (posted : Nat) : Thread :=
  if t.sfrq.length < 8 then { t.srDirty with sfrq := t.sfrq ++ [(r, posted)] }
  else { t.srDirty with dropped := if t.dropped = 0xFF then t.dropped else t.dropped + 1 }

/-- A notice (R233): held while a handler runs, merging into one of its cause; otherwise taken at the boundary. -/
def State.raiseNotice (s : State) (ctx : Nat) (code : BitVec 8) (addr : Word) : State :=
  let t := s.thAt ctx
  if t.nest then
    if code = Cause.ringStall then s.setThAt ctx { t with ringNote := some (t.ringNote.getD addr) }
    else s.setThAt ctx { t with joinNote := some (t.joinNote.getD addr) }
  else (s.withdrawGroup ctx).takeTrap ctx code addr t.pc false true

/-- Restore what a trap saved: PC without its low two bits, level and nest (R235, R413). -/
def Thread.leaveTrap (t : Thread) : Thread :=
  { t.srDirty with
    pc := t.epc &&& ~~~3#64, lev := t.plev, nest := false, wait := .ready, latch := [], acquired := [], imx := none
    done := t.done + 1 }

/-! ## Operands that may be tokens (R81, R82) -/

/-- The first register of a list that holds a pending token. -/
def Thread.firstPending (t : Thread) (rs : List Nat) : Option Nat := rs.find? t.pending

/-- The first read of a failed token traps JOB_FAULT: the token has been read, and its acquire stands (R82). -/
def State.readFault (s : State) (addr : Word) : State :=
  (s.setTh { s.th with acquired := [] }).trapAt s.cur Cause.jobFault addr

/-- An instruction that reads and writes these scalar registers: it sleeps on a pending token, traps on the first
read of a failed one, and otherwise runs with each first read of a completed token an acquire. -/
def State.withRegs (s : State) (reads writes : List Nat) (body : State → State) : State :=
  match s.th.firstPending (reads ++ writes) with
  | some r => s.sleep (.token r)
  | none =>
    match reads.find? s.th.failedToken with
    | some r => (s.consumeTokens [r]).readFault (s.th.tokenAddr r)
    | none => body (s.consumeTokens reads)

/-! ## Releases (R90) -/

/-- Is a posted store a context's thread's? A thread is known by its number wherever it has gone; a flake has none. -/
def Posted.isOf (p : Posted) (ctx : Nat) (t : Thread) : Bool :=
  p.tid == t.tid && p.part == t.part && (p.ctx == ctx || p.tid != 0)

/-- Does a posted store happen before what a context's thread does next: is it the thread's, or ordered before it by a
queue edge (R93)? -/
def Posted.before (p : Posted) (ctx : Nat) (t : Thread) : Bool := p.isOf ctx t || p.after.contains (t.part, t.tid)

/-- Does a release of a context's thread wait for a posted store that is not yet acknowledged or rejected? With `sys`
stores to other chips count; one whose peer was declared down counts as acknowledged (R265). -/
def State.unackedAt (s : State) (ctx : Nat) (sys : Bool) : Bool :=
  s.stores.any fun p => p.before ctx (s.thAt ctx) && !p.lost && (sys || p.peer.isNone)

def State.unacked (s : State) (sys : Bool) : Bool := s.unackedAt s.cur sys

/-- What a release does once the earlier accesses of its party have performed. -/
def State.whenReleased (s : State) (sys : Bool) (body : State → State) : State :=
  if s.unacked sys then s.sleep (.stores sys) else body s

end Sys2Proof.Machine
end

