-- ==== Sys2Proof/Config.lean ====
section
/-!
DEFINITION. Sys2Proof/Config.lean: what the manual leaves open and no proof may see. Every constant here has no
body; the log entries in notes/assumptions name them.
-/

namespace Sys2Proof.Config

/-- The five special functions of R148. -/
inductive Sfu where
  | exp2 | log2 | rcp | rsq | tanh
deriving DecidableEq, Repr

/-- R148, R149: which of the results that the bound permits the part gives for one input and rounding mode. -/
opaque sfuPick : Sfu → BitVec 32 → BitVec 3 → Nat

/-- A free 64-bit value for each use; State.free numbers the uses. -/
opaque freeWord : Nat → BitVec 64

/-- R170: what a field of a descriptor that only the selection unit writes holds once a program has written it, by the
address of the field and the unit's own count. -/
opaque spoiltField : BitVec 64 → BitVec 64 → BitVec 64

/-- A free choice for each use. -/
opaque freeBit : Nat → Bool

/-- R11: the HBM stack, and the LPDDR6 channel, that holds a byte of physical memory: the manual gives the counts of both
and no interleave. -/
opaque hbmStack : Nat → Nat
opaque lpddrChannel : Nat → Nat

/-- R214: the clock quality that the package announces of itself (clockClass, clockAccuracy, offsetScaledLogVariance in the
layout of R215), and its clockIdentity. -/
opaque clockQuality : BitVec 32
opaque clockIdentity : BitVec 64

/-- R271: the bytes of SHA-512 over a byte string; the manual names the hash and does not define it. -/
opaque sha512 : List (BitVec 8) → Nat → BitVec 8

/-- R270, R271: byte `i` of the ECDSA signature over a report (r, then s, 66 bytes each). -/
opaque signature : List (BitVec 8) → Nat → BitVec 8

/-- R270: byte `i` of the identity public key (x, then y, 66 bytes each). -/
opaque identityKey : Nat → BitVec 8

/-- R271: byte `i` of the SHA-512 of the firmware image. -/
opaque firmwareHash : Nat → BitVec 8

end Sys2Proof.Config
end

