-- ==== Sys2Proof/Machine/Float.lean ====
section
/-!
DEFINITION. Sys2Proof/Machine/Float.lean: the number formats (R128-R131) and exact arithmetic on their values
(R417): every finite value of every format is a sign, a natural significand and a power of two.
-/

namespace Sys2Proof.Machine

open Sys2Proof

/-- The formats of R128 that hold elements. -/
inductive Fmt where
  | fp32 | bf16 | fp16 | e4m3 | e5m2 | zf8 | e2m1 | int8 | int32
deriving DecidableEq, Repr

/-- The format of a 4-bit code in an element role. -/
def Fmt.ofCode (c : Nat) : Option Fmt :=
  if c = 0 then some .fp32 else if c = 1 then some .bf16 else if c = 2 then some .fp16
  else if c = 3 then some .e4m3 else if c = 4 then some .e5m2 else if c = 5 then some .zf8
  else if c = 6 then some .e2m1 else if c = 7 then some .int8 else none

/-- The element type of a vector instruction's T field. -/
def Fmt.ofType (t : Nat) : Fmt :=
  if t = 0 then .fp32 else if t = 1 then .bf16 else if t = 2 then .fp16 else if t = 3 then .e4m3
  else if t = 4 then .e5m2 else if t = 5 then .zf8 else if t = 6 then .int32 else .int8

/-- Width in bits. -/
def Fmt.width : Fmt → Nat
  | .fp32 => 32 | .bf16 => 16 | .fp16 => 16 | .e4m3 => 8 | .e5m2 => 8 | .zf8 => 8 | .e2m1 => 4 | .int8 => 8
  | .int32 => 32

def Fmt.isInt : Fmt → Bool
  | .int8 => true | .int32 => true | _ => false

/-- E4M3, E5M2, ZF8 and E2M1. -/
def Fmt.isNarrow : Fmt → Bool
  | .e4m3 => true | .e5m2 => true | .zf8 => true | .e2m1 => true | _ => false

/-- FP32, BF16 and FP16: the formats that round to infinity and that FTZ concerns. -/
def Fmt.isWide : Fmt → Bool
  | .fp32 => true | .bf16 => true | .fp16 => true | _ => false

/-- Fraction bits of a binary float. -/
def Fmt.frac : Fmt → Nat
  | .fp32 => 23 | .bf16 => 7 | .fp16 => 10 | .e4m3 => 3 | .e5m2 => 2 | .e2m1 => 1 | _ => 0

def Fmt.expBits : Fmt → Nat
  | .fp32 => 8 | .bf16 => 8 | .fp16 => 5 | .e4m3 => 4 | .e5m2 => 5 | .e2m1 => 2 | _ => 0

def Fmt.bias : Fmt → Nat
  | .fp32 => 127 | .bf16 => 127 | .fp16 => 15 | .e4m3 => 7 | .e5m2 => 15 | .e2m1 => 1 | _ => 0

/-- The power of two of the least significant bit of a subnormal. -/
def Fmt.quantum (f : Fmt) : Int := 1 - (f.bias : Int) - (f.frac : Int)

/-- An exact value: NaN (or NaR), an infinity, or (-1)^neg × m × 2^e; m = 0 is a signed zero. -/
inductive Num where
  | nan
  | inf (neg : Bool)
  | fin (neg : Bool) (m : Nat) (e : Int)
deriving DecidableEq, Repr

def Num.zero : Num := .fin false 0 0

/-- A binary float's value (R129). -/
def decodeBinary (f : Fmt) (bits : Nat) : Num :=
  let neg := natBits bits (f.frac + f.expBits) 1 == 1
  let ex := natBits bits f.frac f.expBits
  let fr := natBits bits 0 f.frac
  let top := 2 ^ f.expBits - 1
  let special : Option Num :=
    match f with
    | .e4m3 => if ex = top ∧ fr = 7 then some .nan else none
    | .e2m1 => none
    | _ => if ex = top then some (if fr = 0 then .inf neg else .nan) else none
  match special with
  | some x => x
  | none =>
    if ex = 0 then .fin neg fr f.quantum
    else .fin neg (2 ^ f.frac + fr) (f.quantum + (ex : Int) - 1)

/-- The length of the run of bits equal to `b` from bit `i - 1` of `p` downward. -/
def runFrom (p : Nat) (b : Bool) : Nat → Nat
  | 0 => 0
  | i + 1 => if p.testBit i == b then 1 + runFrom p b i else 0

/-- The magnitude of a ZF8 payload in units of 2^-12: every one is a whole number of them (R131). -/
def zf8Mag (p : Nat) : Nat :=
  if p = 0 then 0
  else
    let b := p.testBit 6
    let k := runFrom p b 7
    let m := 6 - k
    let e := if m ≥ 1 then natBits p (m - 1) 1 else 0
    let w := m - 1
    let f := natBits p 0 w
    let up := if b then 2 * (k - 1) + e + 12 else 12 + e - 2 * k
    (2 ^ w + f) * 2 ^ up / 2 ^ w

def decodeZf8 (bits : Nat) : Num :=
  let p := natBits bits 0 7
  let neg := natBits bits 7 1 == 1
  if p = 0 then (if neg then .nan else .zero) else .fin neg (zf8Mag p) (-12)

/-- The value of a two's-complement integer. -/
def numOfInt (i : Int) : Num := .fin (decide (i < 0)) i.natAbs 0

/-- Two's-complement reading of the low `n` bits (R7). -/
def signedN (x n : Nat) : Int := (BitVec.ofNat n x).toInt

/-- The exact value of an encoding. -/
def Fmt.decode (f : Fmt) (bits : Nat) : Num :=
  match f with
  | .zf8 => decodeZf8 bits
  | .int8 => numOfInt (signedN bits 8)
  | .int32 => numOfInt (signedN bits 32)
  | f => decodeBinary f (bits % 2 ^ f.width)

/-! ## Exact operations (R417) -/

def Num.isNan : Num → Bool
  | .nan => true | _ => false

def Num.isZero : Num → Bool
  | .fin _ 0 _ => true | _ => false

def Num.neg : Num → Num
  | .nan => .nan
  | .inf s => .inf (!s)
  | .fin s m e => .fin (!s) m e

def Num.abs : Num → Num
  | .nan => .nan
  | .inf _ => .inf false
  | .fin _ m e => .fin false m e

def Num.isNeg : Num → Bool
  | .nan => false
  | .inf s => s
  | .fin s _ _ => s

/-- The value times a power of two. -/
def Num.scale (x : Num) (k : Int) : Num :=
  match x with
  | .fin s m e => .fin s m (e + k)
  | x => x

/-- The value as a whole multiple of 2^e, where e is at most its own power. -/
def alignTo (s : Bool) (m : Nat) (e low : Int) : Int :=
  let n : Int := (m * 2 ^ (e - low).toNat : Nat)
  if s then -n else n

/-- An exact sum, and whether a NaN arises from values that are none. `down` is the rounding mode RDN, which gives
an exact zero sum of opposite signs its minus sign. -/
def Num.add (down : Bool) : Num → Num → Num × Bool
  | .nan, _ => (.nan, false)
  | _, .nan => (.nan, false)
  | .inf s, .inf t => if s = t then (.inf s, false) else (.nan, true)
  | .inf s, _ => (.inf s, false)
  | _, .inf t => (.inf t, false)
  | .fin s m e, .fin t n g =>
    if m = 0 ∧ n = 0 then (.fin (if s = t then s else down) 0 0, false)
    else
      let low := min e g
      let v := alignTo s m e low + alignTo t n g low
      if v = 0 then (.fin down 0 0, false) else (.fin (decide (v < 0)) v.natAbs low, false)

def Num.mul : Num → Num → Num × Bool
  | .nan, _ => (.nan, false)
  | _, .nan => (.nan, false)
  | .inf s, .inf t => (.inf (s != t), false)
  | .inf s, .fin t n _ => if n = 0 then (.nan, true) else (.inf (s != t), false)
  | .fin s m _, .inf t => if m = 0 then (.nan, true) else (.inf (s != t), false)
  | .fin s m e, .fin t n g => (.fin (s != t) (m * n) (e + g), false)

/-- The magnitude of m × 2^e against n × 2^g. -/
def magLt (m : Nat) (e : Int) (n : Nat) (g : Int) : Bool :=
  let low := min e g
  decide (m * 2 ^ (e - low).toNat < n * 2 ^ (g - low).toNat)

/-- By value: zeros are equal; false with a NaN. -/
def Num.lt : Num → Num → Bool
  | .nan, _ => false
  | _, .nan => false
  | .inf s, .inf t => s && !t
  | .inf s, .fin _ _ _ => s
  | .fin _ _ _, .inf t => !t
  | .fin s m e, .fin t n g =>
    if m = 0 ∧ n = 0 then false
    else
      let low := min e g
      decide (alignTo s m e low < alignTo t n g low)

def Num.eq (x y : Num) : Bool := !x.isNan && !y.isNan && !x.lt y && !y.lt x

/-- The order of VMAX, VMIN and .fmax: +0 counts as greater than -0 (R419, R297). -/
def Num.ltSigned (x y : Num) : Bool :=
  x.lt y || (x.isZero && y.isZero && x.isNeg && !y.isNeg)

/-- The power of two of the leading bit of a finite nonzero value. -/
def leadExp (m : Nat) (e : Int) : Int := (Nat.log2 m : Int) + e

end Sys2Proof.Machine
end

