-- ==== Sys2Proof/Machine/Flags.lean ====
section
/-!
DEFINITION. Sys2Proof/Machine/Flags.lean: the flags of FPSTAT (R142) and RoundTo, which computes them with its
result (R133-R136, R139), and ScaleFor (R141).
-/

namespace Sys2Proof.Machine

open Sys2Proof

/-! ## FPSTAT (R142) -/

def Flag.invalid : BitVec 8 := 0x01
def Flag.divzero : BitVec 8 := 0x02
def Flag.overflow : BitVec 8 := 0x04
def Flag.underflow : BitVec 8 := 0x08
def Flag.inexact : BitVec 8 := 0x10
def Flag.saturate : BitVec 8 := 0x20
def Flag.sclclamp : BitVec 8 := 0x40
def Flag.narp : BitVec 8 := 0x80

/-- A flag set under a condition. -/
def flagIf (b : Bool) (f : BitVec 8) : BitVec 8 := if b then f else 0

/-- The rounding modes of R132. -/
inductive RMode where
  | rne | rtz | rdn | rup | sr
deriving DecidableEq, Repr

def RMode.ofCode (c : Nat) : RMode :=
  if c = 1 then .rtz else if c = 2 then .rdn else if c = 3 then .rup else if c = 4 then .sr else .rne

/-- What RoundTo gives: the encoding, the flags it sets, and whether it made its one draw. -/
structure Rounded where
  bits  : Nat
  flags : BitVec 8 := 0
  drew  : Bool := false
deriving DecidableEq, Repr

/-- The sign bit of an encoding. -/
def Fmt.signBit (f : Fmt) (neg : Bool) : Nat := if neg then 2 ^ (f.width - 1) else 0

/-- The canonical NaN, or NaR; the formats without one give 0 (R129, R134). -/
def Fmt.nanBits : Fmt → Nat
  | .fp32 => 0x7FC00000 | .bf16 => 0x7FC0 | .fp16 => 0x7E00 | .e4m3 => 0x7F | .e5m2 => 0x7E | .zf8 => 0x80
  | _ => 0

def Fmt.infBits (f : Fmt) (neg : Bool) : Nat := f.signBit neg + (2 ^ f.expBits - 1) * 2 ^ f.frac

/-- The encoding of the largest magnitude of a sign: 128 below and 127 above for INT8. -/
def Fmt.maxBits (f : Fmt) (neg : Bool) : Nat :=
  match f with
  | .fp32 => f.signBit neg + 0x7F7FFFFF
  | .bf16 => f.signBit neg + 0x7F7F
  | .fp16 => f.signBit neg + 0x7BFF
  | .e4m3 => f.signBit neg + 0x7E
  | .e5m2 => f.signBit neg + 0x7B
  | .zf8 => f.signBit neg + 0x7F
  | .e2m1 => f.signBit neg + 0x7
  | .int8 => if neg then 0x80 else 0x7F
  | .int32 => if neg then 0x80000000 else 0x7FFFFFFF

/-- A zero with a sign: ZF8 and the integers have one zero. -/
def Fmt.zeroBits (f : Fmt) (neg : Bool) : Nat := if f.isInt || f == .zf8 then 0 else f.signBit neg

/-- R134: NaN, NaR and infinities. -/
def roundSpecial (f : Fmt) : Option Bool → Rounded
  | none =>
    match f with
    | .zf8 => ⟨0x80, Flag.narp, false⟩
    | .e2m1 => ⟨0, Flag.invalid, false⟩
    | .int8 => ⟨0, Flag.invalid, false⟩
    | .int32 => ⟨0, Flag.invalid, false⟩
    | f => ⟨f.nanBits, 0, false⟩
  | some neg =>
    match f with
    | .zf8 => ⟨0x80, Flag.invalid ||| Flag.narp, false⟩
    | .e4m3 => ⟨f.maxBits neg, Flag.saturate ||| Flag.inexact, false⟩
    | .e2m1 => ⟨f.maxBits neg, Flag.saturate ||| Flag.inexact, false⟩
    | .int8 => ⟨f.maxBits neg, Flag.saturate ||| Flag.inexact, false⟩
    | .int32 => ⟨f.maxBits neg, Flag.saturate ||| Flag.inexact, false⟩
    | f => ⟨f.infBits neg, 0, false⟩

/-- The smallest nonzero magnitude of a narrow format, as a power of two (R135). -/
def Fmt.tiny : Fmt → Int
  | .e4m3 => -9 | .e5m2 => -16 | .zf8 => -12 | .e2m1 => -1 | _ => 0

/-- The smallest normal, as a power of two; ZF8 and E2M1 count their smallest magnitude (R142). -/
def Fmt.minNormal (f : Fmt) : Int :=
  match f with
  | .zf8 => -12
  | .e2m1 => -1
  | f => 1 - (f.bias : Int)

/-- The largest magnitude with a sign: significand and power of two. -/
def Fmt.largest (f : Fmt) (neg : Bool) : Nat × Int :=
  match f with
  | .fp32 => (2 ^ 24 - 1, 104)
  | .bf16 => (255, 120)
  | .fp16 => (2047, 5)
  | .e4m3 => (448, 0)
  | .e5m2 => (57344, 0)
  | .zf8 => (4096, 0)
  | .e2m1 => (6, 0)
  | .int8 => (if neg then 128 else 127, 0)
  | .int32 => (if neg then 2 ^ 31 else 2 ^ 31 - 1, 0)

/-- The last payload, from `p` down, whose ZF8 magnitude is at most m × 2^e. -/
def zf8Below (m : Nat) (e : Int) : Nat → Nat
  | 0 => 0
  | p + 1 => if magLt m e (zf8Mag (p + 1)) (-12) then zf8Below m e p else p + 1

/-- The neighbour at or below a magnitude: its index on the format's grid, the remainder above it and the distance
to the next, as natural numbers on one scale; and the power of two of a grid step of a binary float. -/
structure Below where
  index : Nat
  rem   : Nat
  gap   : Nat
  q     : Int
deriving DecidableEq, Repr

def below (f : Fmt) (m : Nat) (e : Int) : Below :=
  match f with
  | .zf8 =>
    let p := zf8Below m e 127
    let low := min e (-12)
    let v := m * 2 ^ (e - low).toNat
    let a := zf8Mag p * 2 ^ (-12 - low).toNat
    let b := zf8Mag (p + 1) * 2 ^ (-12 - low).toNat
    ⟨p, v - a, b - a, 0⟩
  | f =>
    let q := if f.isInt then 0 else max (leadExp m e - (f.frac : Int)) f.quantum
    if q ≤ e then ⟨m * 2 ^ (e - q).toNat, 0, 1, q⟩
    else
      let d := 2 ^ (q - e).toNat
      ⟨m / d, m % d, d, q⟩

/-- Does the mode pick the upper neighbour (R133 step 7)? `r` is the draw. -/
def picksUp (mode : RMode) (neg : Bool) (r : Nat) (b : Below) : Bool :=
  match mode with
  | .rne => decide (b.gap < 2 * b.rem ∨ (2 * b.rem = b.gap ∧ b.index % 2 = 1))
  | .rtz => false
  | .rdn => neg
  | .rup => !neg
  | .sr => decide (r * b.gap < b.rem * 2 ^ 32)

/-- The encoding of a grid index with a sign. -/
def Fmt.encodeIndex (f : Fmt) (neg : Bool) (n : Nat) (q : Int) : Nat :=
  match f with
  | .zf8 => if n = 0 then 0 else f.signBit neg + n
  | .int8 => if neg then (256 - n) % 256 else n
  | .int32 => if neg then (2 ^ 32 - n) % 2 ^ 32 else n
  | f => f.signBit neg + (q - f.quantum).toNat * 2 ^ f.frac + n

/-- RoundTo of an exact value (R133-R136, R139). `ftz` says that FTZ applies; `r` is the draw, should one be made. -/
def roundTo (x : Num) (f : Fmt) (mode : RMode) (ftz : Bool) (r : Nat) : Rounded :=
  match x with
  | .nan => roundSpecial f none
  | .inf s => roundSpecial f (some s)
  | .fin neg m e =>
    if m = 0 then ⟨f.zeroBits neg, 0, false⟩
    else
      let lead := leadExp m e
      let sr := mode == .sr
      if f.isNarrow ∧ lead < f.tiny then
        let up := magLt r f.tiny m (e + 32)
        ⟨if up then f.encodeIndex neg 1 f.quantum else f.zeroBits neg, Flag.underflow ||| Flag.inexact, true⟩
      else if ftz ∧ f.isWide ∧ lead < f.minNormal then
        ⟨f.zeroBits neg, Flag.underflow ||| Flag.inexact, sr⟩
      else
        let (lm, le) := f.largest neg
        if !f.isWide ∧ magLt lm le m e then
          ⟨f.maxBits neg, Flag.overflow ||| Flag.saturate ||| Flag.inexact, sr⟩
        else
          let b := below f m e
          let inexact := b.rem != 0
          let n := if inexact && picksUp mode neg r b then b.index + 1 else b.index
          if f.isWide ∧ magLt lm le n b.q then
            let away := match mode with
              | .rne => true | .sr => true | .rdn => neg | .rup => !neg | .rtz => false
            ⟨if away then f.infBits neg else f.maxBits neg, Flag.overflow ||| Flag.inexact, sr⟩
          else
            ⟨f.encodeIndex neg n b.q,
              flagIf inexact Flag.inexact ||| flagIf (inexact && !f.isInt && decide (lead < f.minNormal)) Flag.underflow,
              sr⟩

/-- An operand under FTZ: a subnormal of a wide format reads as zero of its sign (R139) (DEDUCED, log 63). -/
def ftzOperand (ftz : Bool) (f : Fmt) (x : Num) : Num :=
  match x with
  | .fin s m e => if ftz ∧ f.isWide ∧ m ≠ 0 ∧ leadExp m e < f.minNormal then .fin s 0 0 else x
  | x => x

/-- ScaleFor (R141): the E8M0 code and its flags. -/
def scaleFor (amax : Num) (emax : Int) : Nat × BitVec 8 :=
  match amax with
  | .nan => (0xFF, 0)
  | .inf _ => (0xFF, 0)
  | .fin _ m e =>
    if m = 0 then (0, 0)
    else
      let x := leadExp m e - emax
      if x < -127 then (0, Flag.sclclamp)
      else if x > 127 then (0xFE, Flag.saturate)
      else ((x + 127).toNat, 0)

/-- emax(fmt) of R141. -/
def Fmt.emax : Fmt → Int
  | .e4m3 => 8 | .e5m2 => 15 | .zf8 => 12 | .e2m1 => 2 | .int8 => 6 | .fp16 => 15 | .bf16 => 127
  | .fp32 => 127 | .int32 => 30

end Sys2Proof.Machine
end

