-- ==== Sys2Proof/Machine/Sfu.lean ====
section
/-!
DEFINITION. Sys2Proof/Machine/Sfu.lean: the special functions of R148. Each has its exact and special cases; every
other result is one of the FP32 values that the bound permits, and Config.sfuPick, which no proof can see into,
says which (R149).
-/

namespace Sys2Proof.Machine

open Sys2Proof

/-! ## Exact bracketing by integer arithmetic -/

/-- The fixed-point precision of the series below. -/
def fixBits : Nat := 320

def fixOne : Nat := 2 ^ fixBits

/-- The integer square root: bits from `k - 1` down added to `acc`. -/
def isqrtFrom (n : Nat) : Nat → Nat → Nat
  | 0, acc => acc
  | k + 1, acc => isqrtFrom n k (if (acc + 2 ^ k) * (acc + 2 ^ k) ≤ n then acc + 2 ^ k else acc)

/-- ln 2 as the sum of 1 / (k 2^k), down to k = 1. -/
def ln2From : Nat → Nat
  | 0 => 0
  | k + 1 => fixOne / ((k + 1) * 2 ^ (k + 1)) + ln2From k

def fixLn2 : Nat := ln2From fixBits

/-- The terms of e^y from the k-th on. -/
def expTerms (y : Nat) : Nat → Nat → Nat → Nat
  | 0, _, _ => 0
  | n + 1, k, term => term + expTerms y n (k + 1) (term * y / fixOne / (k + 1))

/-- 2^f for a fraction f in fixed point. -/
def fixExp2 (f : Nat) : Nat := expTerms (f * fixLn2 / fixOne) 100 0 fixOne

/-- The terms of atanh z from the k-th odd power on. -/
def atanhTerms (z2 : Nat) : Nat → Nat → Nat → Nat
  | 0, _, _ => 0
  | n + 1, k, power => power / (2 * k + 1) + atanhTerms z2 n (k + 1) (power * z2 / fixOne)

/-- log2 of m / 2^l in [1, 2), in fixed point. -/
def fixLog2 (m l : Nat) : Nat :=
  let z := (m - 2 ^ l) * fixOne / (m + 2 ^ l)
  2 * atanhTerms (z * z / fixOne) 110 0 z * fixOne / fixLn2

/-- The FP32 encoding at or below a positive value. -/
def fp32Below (m : Nat) (e : Int) : Nat :=
  let b := below .fp32 m e
  Fmt.fp32.encodeIndex false b.index b.q

/-! ## Results -/

/-- The FP32 result of a special function and the flags of its case; the bound's candidates are encodings without a
sign, and `neg` is the result's sign. -/
inductive SfuOut where
  | exact (bits : Nat) (flags : BitVec 8)
  | oneOf (neg : Bool) (candidates : List Nat)
deriving DecidableEq, Repr

/-- The values within one ulp of a value between an encoding and the next (DEDUCED, log 47). -/
def oneUlp (neg : Bool) (a : Nat) : SfuOut := .oneOf neg [a, a + 1]

/-- The values within two ulps; the one above is left out where a binade begins at the upper neighbour. -/
def twoUlp (neg : Bool) (a : Nat) : SfuOut :=
  .oneOf neg ([a - 1, a, a + 1] ++ if (a + 1) % 2 ^ 23 = 0 then [] else [a + 2])

def fp32Inf (neg : Bool) : Nat := Fmt.fp32.infBits neg
def fp32One (neg : Bool) : Nat := Fmt.fp32.signBit neg + 0x3F800000
def fp32Nan : Nat := 0x7FC00000

/-- The encoding of (-1)^neg × m × 2^e that FP32 holds exactly. -/
def fp32Exact (neg : Bool) (m : Nat) (e : Int) : Nat := Fmt.fp32.signBit neg + fp32Below m e

def sfuExp2 : Num → SfuOut
  | .nan => .exact fp32Nan 0
  | .inf neg => .exact (if neg then 0 else fp32Inf false) 0
  | .fin neg m e =>
    if m = 0 then .exact (fp32One false) 0
    else
      let whole : Nat := if 0 ≤ e then m * 2 ^ e.toNat else m / 2 ^ (-e).toNat
      let frac : Nat := if 0 ≤ e then 0 else m % 2 ^ (-e).toNat
      if !neg ∧ 128 ≤ whole then .exact (fp32Inf false) (Flag.overflow ||| Flag.inexact)
      else if neg ∧ 150 ≤ whole then .exact 0 (Flag.underflow ||| Flag.inexact)
      else if frac = 0 then
        .exact (fp32Below 1 (if neg then -(whole : Int) else whole)) 0
      else
        let f := frac * 2 ^ (fixBits - (-e).toNat)
        if neg then oneUlp false (fp32Below (fixExp2 (fixOne - f)) (-(whole : Int) - 1 - fixBits))
        else oneUlp false (fp32Below (fixExp2 f) ((whole : Int) - fixBits))

def isPow2 (m : Nat) : Bool := m == 2 ^ Nat.log2 m

def sfuLog2 : Num → SfuOut
  | .nan => .exact fp32Nan 0
  | .inf neg => if neg then .exact fp32Nan Flag.invalid else .exact (fp32Inf false) 0
  | .fin neg m e =>
    if m = 0 then .exact (fp32Inf true) Flag.divzero
    else if neg then .exact fp32Nan Flag.invalid
    else
      let n := leadExp m e
      if isPow2 m then .exact (if n = 0 then 0 else fp32Exact (decide (n < 0)) n.natAbs 0) 0
      else
        let v : Int := n * fixOne + fixLog2 m (Nat.log2 m)
        oneUlp (decide (v < 0)) (fp32Below v.natAbs (-fixBits))

def sfuRcp : Num → SfuOut
  | .nan => .exact fp32Nan 0
  | .inf neg => .exact (Fmt.fp32.signBit neg) 0
  | .fin neg m e =>
    if m = 0 then .exact (fp32Inf neg) Flag.divzero
    else if leadExp m e < -128 ∨ (leadExp m e = -128 ∧ isPow2 m) then
      .exact (fp32Inf neg) (Flag.overflow ||| Flag.inexact)
    else if isPow2 m then .exact (fp32Exact neg 1 (-leadExp m e)) 0
    else oneUlp neg (fp32Below (2 ^ 200 / m) (-e - 200))

def sfuRsq : Num → SfuOut
  | .nan => .exact fp32Nan 0
  | .inf neg => if neg then .exact fp32Nan Flag.invalid else .exact 0 0
  | .fin neg m e =>
    if m = 0 then .exact (fp32Inf neg) Flag.divzero
    else if neg then .exact fp32Nan Flag.invalid
    else
      let n := leadExp m e
      if isPow2 m && n % 2 == 0 then .exact (fp32Exact false 1 (-(n / 2))) 0
      else
        let (m, e) := if e % 2 = 0 then (m, e) else (2 * m, e - 1)
        twoUlp false (fp32Below (isqrtFrom (2 ^ 400 / m) 201 0) (-(e / 2) - 200))

/-- The fixed-point tanh of x = m / 2^k below 16, by e^(2x). -/
def fixTanh (m k : Nat) : Nat :=
  let y := 2 * m * 2 ^ (fixBits - k) * fixOne / fixLn2
  let big := fixExp2 (y % fixOne) * 2 ^ (y / fixOne)
  (big - fixOne) * fixOne / (big + fixOne)

def sfuTanh : Num → SfuOut
  | .nan => .exact fp32Nan 0
  | .inf neg => .exact (fp32One neg) 0
  | .fin neg m e =>
    if m = 0 then .exact (Fmt.fp32.signBit neg) 0
    else
      let a :=
        if leadExp m e < -12 then fp32Below m e - 1
        else if 4 ≤ leadExp m e then 0x3F7FFFFF
        else if 0 ≤ e then fp32Below (fixTanh (m * 2 ^ e.toNat) 0) (-fixBits)
        else fp32Below (fixTanh m (-e).toNat) (-fixBits)
      match twoUlp neg a with
      | .oneOf s l => .oneOf s (l.filter fun c => decide (c ≤ 0x3F800000))
      | r => r

/-- Does FTZ make VEXP2's FP32 result +0: is the operand a finite value below -126? -/
def exp2Flushed : Num → Bool
  | .fin neg m e => neg && magLt 126 0 m e
  | _ => false

/-- VEXP2 where FTZ applies or does not: a flushed result sets underflow and inexact (R139). -/
def sfuExp2Ftz (ftz : Bool) (x : Num) : SfuOut :=
  if ftz && exp2Flushed x then .exact 0 (Flag.underflow ||| Flag.inexact) else sfuExp2 x

def sfuOf (ftz : Bool) : Config.Sfu → Num → SfuOut
  | .exp2 => sfuExp2Ftz ftz
  | .log2 => sfuLog2
  | .rcp => sfuRcp
  | .rsq => sfuRsq
  | .tanh => sfuTanh

/-- The FP32 result and its flags: of several permitted values the part's own, always the same for one input and
rounding mode. -/
def sfuResult (fn : Config.Sfu) (ftz : Bool) (x : Num) (input : Nat) (mode : BitVec 3) : Nat × BitVec 8 :=
  match sfuOf ftz fn x with
  | .exact b f => (b, f)
  | .oneOf neg l =>
    let r := l.getD (Config.sfuPick fn (BitVec.ofNat 32 input) mode % l.length) 0
    (Fmt.fp32.signBit neg + r, Flag.inexact ||| flagIf (decide (0 < r ∧ r < 0x00800000)) Flag.underflow)

end Sys2Proof.Machine
end

