-- ==== Sys2Proof/Machine/Operands.lean ====
section
/-!
DEFINITION. Sys2Proof/Machine/Operands.lean: the operand forms of instructions: vector and broadcast operands, lanes
by element type (R281, R415), masks and active elements (R416), elements that are rounded with their draws and flags,
and the routes that a data address gives a load, a store or an atomic (R64, R68, R258).
-/

namespace Sys2Proof.Machine

open Sys2Proof

/-! ## Vector operands (R281, R415) -/

/-- The scalar registers that a VA or VB field reads: a value of 16 or more broadcasts one. -/
def vreads (f : BitVec 5) : List Nat := if 16 ≤ f.toNat then [f.toNat - 16] else []

/-- Lane e of a VA or VB operand. -/
def Thread.vlane (t : Thread) (f : BitVec 5) (e : Nat) : BitVec 32 :=
  if 16 ≤ f.toNat then (t.S (f.toNat - 16)).setWidth 32 else t.lane f.toNat e

/-- The element bits of a lane. -/
def elemBits (f : Fmt) (lane : BitVec 32) : Nat := lane.toNat % 2 ^ f.width

/-- The lane that an element is written as: INT8 extends its sign, every other element has zeros above. -/
def laneOf (f : Fmt) (bits : Nat) : BitVec 32 :=
  match f with
  | .int8 => (BitVec.ofNat 8 bits).signExtend 32
  | f => BitVec.ofNat 32 (bits % 2 ^ f.width)

/-- Bytes that an element takes in memory. -/
def Fmt.bytes (f : Fmt) : Nat := f.width / 8

/-- Is element e active under a mask field (R416)? -/
def Thread.active (t : Thread) (m : BitVec 3) (e : Nat) : Bool := decide (e < t.vl) && (t.M m.toNat).getLsbD e

/-- The active elements, in increasing index. -/
def Thread.actives (t : Thread) (m : BitVec 3) : List Nat := (upFrom 0 t.vl).filter (t.active m)

/-- Write lanes of a vector register. -/
def Thread.setLanes (t : Thread) (r : Nat) (xs : List (Nat × BitVec 32)) : Thread :=
  xs.foldl (fun t x => t.setLane r x.1 x.2) t

/-! ## Rounding with the context's draws and flags (R136, R138, R143) -/

def Thread.mode (t : Thread) : RMode := RMode.ofCode t.rmode.toNat

/-- The 32 bits that the next draw of the context gives. -/
def Thread.draw32 (t : Thread) : Nat := (Machine.flurry t.srseed t.flurcnt).toNat / 2 ^ 32

/-- OR flags into FPSTAT. -/
def Thread.orFlags (t : Thread) (f : BitVec 8) : Thread :=
  if f = 0 then t else { t.srDirty with fpstat := t.fpstat ||| f }

/-- RoundTo for a context: its encoding, and the thread with the draw and the flags it took. -/
def Thread.round (t : Thread) (x : Num) (f : Fmt) (mode : RMode) (ftz : Bool) : Nat × Thread :=
  let r := roundTo x f mode ftz t.draw32
  let t := t.orFlags r.flags
  (r.bits, if r.drew then { t.srDirty with flurcnt := t.flurcnt + 1 } else t)

/-- An element's exact value as an operand: decoded, with FTZ (R417). -/
def Thread.operand (t : Thread) (f : Fmt) (lane : BitVec 32) : Num := ftzOperand t.ftz f (f.decode (elemBits f lane))

/-- Write each active element of vD in increasing index; `g` sees the thread before any write, and gives the lane
with the thread's draws and flags so far. -/
def Thread.mapActive (t : Thread) (d : Nat) (es : List Nat) (g : Thread → Nat → BitVec 32 × Thread) : Thread :=
  let (t1, xs) := es.foldl (fun (a : Thread × List (Nat × BitVec 32)) e =>
    let (x, u) := g a.1 e
    (u, a.2 ++ [(e, x)])) (t, [])
  t1.setLanes d xs

/-- The preamble of a vector instruction (R416): NOLANES, the empty length, then the operands. -/
def State.vector_ (s : State) (emptyRuns : Bool) (reads writes : List Nat) (body : State → State) : State :=
  if s.th.grant = 0 then s.trap Cause.noLanes 0
  else if s.th.vl = 0 ∧ !emptyRuns then s.retire
  else s.withRegs reads writes body

/-! ## Routes of data addresses -/

/-- R258: does device control space answer an 8-byte access of a partition's supervisor code at this address? -/
def controlReach (part pa n : Nat) (sup : Bool) : Bool :=
  sup && n == 8 &&
    ((decide (0xC0000400000 ≤ pa) && (pa - 0xC0000400000) / 2 ^ 16 == part) ||
      (decide (pa < 0xC0000400000) && (pa - 0xC0000000000) / 2 ^ 17 == part))

/-- Is a memory key a byte of device control space? -/
def isControlKey (k : Nat) : Bool := decide (0xC0000000000 ≤ k ∧ k < 0xC0000600000)

/-- The place a scalar access of the executing thread names, or a fault. Inline code reaches only the alias (R60). -/
def State.dataPlace (s : State) (addr : Word) (n : Nat) (acc : Acc) : Option Place :=
  match s.resolve (s.th.issuer s.me) addr acc with
  | .error _ => none
  | .ok p =>
    if s.th.flake.isSome then
      match p with
      | .spad _ _ true => some p
      | _ => none
    else
      match p with
      | .bulk .control pa => if acc = .atomic ∨ !controlReach s.th.part pa n s.th.lev then none else some p
      | p => some p

/-- Does a posted store of one of a core's contexts lie in these bytes (R98)? -/
def State.pendingOf (s : State) (core k n : Nat) : Bool :=
  s.stores.any fun p => coreOfCtx p.ctx == core && p.peer.isNone && overlaps p.key p.bytes.length k n

/-- Must an access of the executing thread to these bytes wait for posted stores (R88, R93-R96)? By a global address it
waits for every store of its core to them: whatever the core's contexts have read of one another, or are ordered after
by a queue edge, it then does not read older bytes. An alias access looks only at the stores that a fence, acquire or
release of its thread (R99), or a queue edge to it, has ordered before it. -/
def State.storePending (s : State) (al : Bool) (k n : Nat) : Bool :=
  s.stores.any fun p =>
    coreOfCtx p.ctx == s.me && p.peer.isNone &&
      (!al || (if p.isOf s.cur s.th then p.ordered else p.after.contains (s.th.part, s.th.tid))) &&
      overlaps p.key p.bytes.length k n

/-- Where a load's bytes come from (R66, R68, R34). -/
inductive Route where
  /-- the own scratchpad, at once; `global` says by the loopback port -/
  | own (key : Nat) (global_ : Bool)
  /-- a present line of the remote read cache -/
  | cached (key : Nat) (l : RrcLine)
  /-- a neighbour's scratchpad: the line is filled -/
  | neighbour (key : Nat)
  /-- glacier, bulk memory, host memory, control space -/
  | far (key : Nat)
  /-- a scratchpad outside the cluster -/
  | outside (core : Nat)
deriving DecidableEq, Repr

def State.loadRoute (s : State) (p : Place) : Route :=
  let key := s.keyOf s.th.part p
  match p with
  | .spad c _ al =>
    if al then .own key false
    else if c = s.me then .own key true
    else if clusterOf c = clusterOf s.me then
      match rrcLookup (s.core s.me) key with
      | some l => .cached key l
      | none => .neighbour key
    else .outside c
  | _ => .far key

/-- R67, R245: the address that MCHK reports for a bad granule under an access (DEDUCED, log 41). -/
def mchkAddr (addr : Word) (key granule : Nat) : Word := addr - w64 key + w64 granule

/-- The value of `n` bytes as a register takes it. -/
def extend (signed : Bool) (n x : Nat) : Word := if signed then signExtendN (8 * n) x else w64 x

/-- The line of a neighbour's scratchpad, as its owner holds it now. -/
def State.fetchLine (s : State) (key : Nat) : RrcLine := ⟨lineOf key, Memory.readBytes s.mem (lineOf key) 64⟩

/-- Is a posted store of another thread of the core among these bytes? -/
def State.foreignStore (s : State) (k n : Nat) (p : Posted) : Bool :=
  coreOfCtx p.ctx == s.me && p.peer.isNone && !p.isOf s.cur s.th && overlaps p.key p.bytes.length k n

/-- The executing thread has read these bytes in a line that posted stores of the core's other threads have updated (R96). -/
def State.markSeen (s : State) (k n : Nat) : State :=
  if s.stores.any (s.foreignStore k n) then
    { s with stores := s.stores.map fun p =>
        if s.foreignStore k n p then { p with seen := (s.th.part, s.th.tid) :: p.seen } else p }
  else s

/-- Read `n` bytes by a route at once, with the remote read cache's fill or use (R68). A line with an uncorrectable error
beside the bytes that the read names is not kept (R245) (DEDUCED, log 99). -/
def State.readRoute (s : State) (r : Route) (n : Nat) : Nat × State :=
  match r with
  | .own k _ => (s.peek k n, s)
  | .cached k l => (l.read k n, (s.markSeen k n).setCore s.me (rrcTouch (s.core s.me) l))
  | .neighbour k =>
    let l := s.fetchLine k
    (l.read k n, if (s.badGranule? (lineOf k) 64).isSome then s else s.setCore s.me (rrcFill (s.core s.me) l))
  | .far k => (s.peek k n, s)
  | .outside _ => (0, s)

/-- Must a load by this route wait for posted stores (R88, R98)? -/
def State.routeWaits (s : State) (r : Route) (n : Nat) : Bool :=
  match r with
  | .own k g => s.storePending (!g) k n
  | .cached _ _ => false
  | .neighbour k => s.pendingOf s.me (lineOf k) 64
  | .far k => s.storePending false k n
  | .outside _ => false

def Route.key : Route → Nat
  | .own k _ => k
  | .cached k _ => k
  | .neighbour k => k
  | .far k => k
  | .outside _ => 0

/-- The granule with an uncorrectable error that a read by this route meets, among the bytes that the read names; an error
in the cache itself only drops the line (Turn.dropRemote). -/
def State.routeError (s : State) (r : Route) (n : Nat) : Option Nat :=
  match r with
  | .cached _ _ => none
  | .outside _ => none
  | r => s.badGranule? r.key n

/-! ## Posting a store (R68, R77, R90, R191) -/

/-- Must an alias store wait for posted stores to the same bytes that are ordered before it (R93, R99)? -/
def State.aliasWaits (s : State) (p : Place) (n : Nat) : Bool :=
  match p with
  | .spad c off true => s.storePending true (spadKey c off) n
  | _ => false

/-- A posted store of the executing thread leaves. -/
def State.post (s : State) (addr : Word) (key : Nat) (peer : Option Nat) (bytes : List Byte) (tag : Option Bool)
    (asid : BitVec 16) : State :=
  { s with
    stores := s.stores ++
      [{ id := s.nextId, tid := s.th.tid, part := s.th.part, ctx := s.cur, addr, key, peer, bytes, tag,
         posted := s.th.done + 1, asid, gen := s.genOf (clusterOf s.me) asid }]
    nextId := s.nextId + 1 }

/-- A store of bytes to a place: the alias is written at once, and an atomic that comes to the core's port afterwards has
its turn in the next V cycle (R101); every other store is posted. A store to a neighbour updates a present line of the
remote read cache. An alias store behind an ordered store of its thread to the same bytes waits (State.aliasWaits). -/
def State.storeAt (s : State) (p : Place) (addr : Word) (bytes : List Byte) (tag : Option Bool) : State :=
  let key := s.keyOf s.th.part p
  match p with
  | .spad _ _ true =>
    match tag with
    | none => (s.usePort s.me).land key bytes
    | some b => (s.usePort s.me).landTagged key bytes b
  | _ =>
    let s := match p with
      | .spad c _ _ => if clusterOf c = clusterOf s.me ∧ c ≠ s.me then s.rrcUpdate s.me key bytes else s
      | _ => s
    s.post addr key none bytes tag s.th.asid

end Sys2Proof.Machine
end

