-- ==== Sys2Proof/Machine/Alu.lean ====
section
/-!
DEFINITION. Sys2Proof/Machine/Alu.lean: the scalar arithmetic family, opcodes 0x01 to 0x2B.
-/

namespace Sys2Proof.Machine

open Sys2Proof

/-- An instruction whose encoding checks decide first (R296 step 4): it traps ILLEGAL, or runs. -/
def State.checked (s : State) (i : Instr) (body : State → State) : State :=
  if encodingOk i then body s else s.illegal

/-! ## Shared forms -/

/-- An R-format operation on S[A] and S[B]. -/
def State.opR (s : State) (d a b : BitVec 5) (f : Word → Word → Word) : State :=
  s.withRegs [a.toNat, b.toNat] [d.toNat] fun s => s.finishS d.toNat (f (s.th.S a.toNat) (s.th.S b.toNat))

/-- An operation on S[A] alone. -/
def State.opUnary (s : State) (d a : BitVec 5) (f : Word → Word) : State :=
  s.withRegs [a.toNat] [d.toNat] fun s => s.finishS d.toNat (f (s.th.S a.toNat))

/-- An I-format operation on S[A] and the signed immediate, which IMX may extend. -/
def State.opI (s : State) (d a : BitVec 5) (i : BitVec 14) (f : Word → Word → Word) : State :=
  s.opUnary d a fun x => f x (s.th.imm14 i)

/-- 1 where a comparison holds, else 0. -/
def boolWord (b : Bool) : Word := if b then 1 else 0

/-- The low six bits of a shift operand (R398). -/
def shiftAmount (x : Word) : Nat := wbits x 0 6

/-! ## The operations (R312, R322, R332, R339, R370, R381, R390, R398) -/

def mulHigh (x y : Word) : Word := BitVec.ofInt 64 (x.toInt * y.toInt / 2 ^ 64)

def mulHighU (x y : Word) : Word := w64 (x.toNat * y.toNat / 2 ^ 64)

/-- DIV: toward zero; a zero divisor gives all ones, and -2^63 by -1 gives -2^63. -/
def divS (x y : Word) : Word := if y = 0 then BitVec.allOnes 64 else BitVec.ofInt 64 (x.toInt.tdiv y.toInt)

def divU (x y : Word) : Word := if y = 0 then BitVec.allOnes 64 else w64 (x.toNat / y.toNat)

/-- REM: what DIV leaves; a zero divisor gives the dividend. -/
def remS (x y : Word) : Word := if y = 0 then x else BitVec.ofInt 64 (x.toInt.tmod y.toInt)

def remU (x y : Word) : Word := if y = 0 then x else w64 (x.toNat % y.toNat)

/-- The leading zero bits of the low `n` bits. -/
def leadingZeros (x : Word) : Nat → Nat
  | 0 => 0
  | n + 1 => if x.getLsbD n then 0 else 1 + leadingZeros x n

/-- The set bits among the low `n`. -/
def countOnes (x : Word) : Nat → Nat
  | 0 => 0
  | n + 1 => (x.getLsbD n).toNat + countOnes x n

def extractField (x : Word) (p width : Nat) : Word := w64 (wbits x p width)

/-- The low `width` bits of `x` at position `p` of `old`. -/
def insertField (old x : Word) (p width : Nat) : Word :=
  let mask : Word := w64 (field (2 ^ width - 1) p)
  (old &&& ~~~mask) ||| (w64 (field (wbits x 0 width) p))

/-- GADR: an alias offset becomes the executing core's global address (R348). -/
def globalForm (core : Nat) (x : Word) : Word := if x.toNat ≤ 0x1FFFF then w64 (spadKey core x.toNat) else x

/-- LADR: a global address of the executing core's scratchpad becomes an alias offset (R365). -/
def aliasForm (core : Nat) (x : Word) : Word := if x.toNat / 2 ^ 17 = spadKey core 0 / 2 ^ 17 then w64 (wbits x 0 17) else x

/-! ## Meanings -/

def execAdd (d a b : BitVec 5) (s : State) : Out := .next (s.opR d a b (· + ·))
def execSub (d a b : BitVec 5) (s : State) : Out := .next (s.opR d a b (· - ·))
def execMul (d a b : BitVec 5) (s : State) : Out := .next (s.opR d a b (· * ·))
def execMulh (d a b : BitVec 5) (s : State) : Out := .next (s.opR d a b mulHigh)
def execMulhu (d a b : BitVec 5) (s : State) : Out := .next (s.opR d a b mulHighU)
def execDiv (d a b : BitVec 5) (s : State) : Out := .next (s.opR d a b divS)
def execDivu (d a b : BitVec 5) (s : State) : Out := .next (s.opR d a b divU)
def execRem (d a b : BitVec 5) (s : State) : Out := .next (s.opR d a b remS)
def execRemu (d a b : BitVec 5) (s : State) : Out := .next (s.opR d a b remU)
def execAnd (d a b : BitVec 5) (s : State) : Out := .next (s.opR d a b (· &&& ·))
def execOr (d a b : BitVec 5) (s : State) : Out := .next (s.opR d a b (· ||| ·))
def execXor (d a b : BitVec 5) (s : State) : Out := .next (s.opR d a b (· ^^^ ·))
def execShl (d a b : BitVec 5) (s : State) : Out := .next (s.opR d a b fun x y => x <<< shiftAmount y)
def execShr (d a b : BitVec 5) (s : State) : Out := .next (s.opR d a b fun x y => x >>> shiftAmount y)
def execSra (d a b : BitVec 5) (s : State) : Out := .next (s.opR d a b fun x y => x.sshiftRight (shiftAmount y))
def execSlt (d a b : BitVec 5) (s : State) : Out := .next (s.opR d a b fun x y => boolWord (x.slt y))
def execSltu (d a b : BitVec 5) (s : State) : Out := .next (s.opR d a b fun x y => boolWord (x.ult y))
def execMin (d a b : BitVec 5) (s : State) : Out := .next (s.opR d a b fun x y => if x.slt y then x else y)
def execMax (d a b : BitVec 5) (s : State) : Out := .next (s.opR d a b fun x y => if x.slt y then y else x)
def execMinu (d a b : BitVec 5) (s : State) : Out := .next (s.opR d a b fun x y => if x.ult y then x else y)
def execMaxu (d a b : BitVec 5) (s : State) : Out := .next (s.opR d a b fun x y => if x.ult y then y else x)
def execClz (d a : BitVec 5) (s : State) : Out := .next (s.opUnary d a fun x => w64 (leadingZeros x 64))
def execPopc (d a : BitVec 5) (s : State) : Out := .next (s.opUnary d a fun x => w64 (countOnes x 64))

def execSel (d a b c : BitVec 5) (s : State) : Out :=
  .next <| s.withRegs [a.toNat, b.toNat, c.toNat] [d.toNat] fun s =>
    s.finishS d.toNat (if s.th.S c.toNat = 0 then s.th.S b.toNat else s.th.S a.toNat)

def execBfx (d a : BitVec 5) (w p : BitVec 6) (s : State) : Out :=
  .next <| s.checked (.bfx d a w p) fun s => s.opUnary d a fun x => extractField x p.toNat (w.toNat + 1)

/-- BFI reads D as a source (R322). -/
def execBfi (d a : BitVec 5) (w p : BitVec 6) (s : State) : Out :=
  .next <| s.checked (.bfi d a w p) fun s => s.opR d a d fun x old => insertField old x p.toNat (w.toNat + 1)

def execAddi (d a : BitVec 5) (i : BitVec 14) (s : State) : Out := .next (s.opI d a i (· + ·))
def execAndi (d a : BitVec 5) (i : BitVec 14) (s : State) : Out := .next (s.opI d a i (· &&& ·))
def execOri (d a : BitVec 5) (i : BitVec 14) (s : State) : Out := .next (s.opI d a i (· ||| ·))
def execXori (d a : BitVec 5) (i : BitVec 14) (s : State) : Out := .next (s.opI d a i (· ^^^ ·))
def execShli (d a : BitVec 5) (n : BitVec 6) (s : State) : Out := .next (s.opUnary d a fun x => x <<< n.toNat)
def execShri (d a : BitVec 5) (n : BitVec 6) (s : State) : Out := .next (s.opUnary d a fun x => x >>> n.toNat)
def execSrai (d a : BitVec 5) (n : BitVec 6) (s : State) : Out := .next (s.opUnary d a fun x => x.sshiftRight n.toNat)
def execSlti (d a : BitVec 5) (i : BitVec 14) (s : State) : Out := .next (s.opI d a i fun x y => boolWord (x.slt y))
def execSltiu (d a : BitVec 5) (i : BitVec 14) (s : State) : Out := .next (s.opI d a i fun x y => boolWord (x.ult y))

/-- LIH: the signed 19-bit value shifted left by 14 (R369). -/
def execLih (d : BitVec 5) (i : BitVec 19) (s : State) : Out :=
  .next <| s.withRegs [] [d.toNat] fun s => s.finishS d.toNat ((i.signExtend 64) <<< 14)

def execGadr (d a : BitVec 5) (i : BitVec 14) (s : State) : Out := .next (s.opI d a i fun x y => globalForm s.me (x + y))
def execLadr (d a : BitVec 5) (i : BitVec 14) (s : State) : Out := .next (s.opI d a i fun x y => aliasForm s.me (x + y))

end Sys2Proof.Machine
end

