-- ==== Sys2Proof/Machine/Branch.lean ====
section
/-!
DEFINITION. Sys2Proof/Machine/Branch.lean: branches and jumps, opcodes 0x30 to 0x37, and the traps that are an
instruction's whole effect (SVC, BKPT).
-/

namespace Sys2Proof.Machine

open Sys2Proof

/-- The displacement of a branch or jump in bytes, from the instruction's own address (R278, R284). -/
def wordOffset (x : Word) : Word := x <<< 2

/-- R60: in inline code a branch's target lies forward within the code, whether it is taken or not. -/
def Thread.inlineTarget (t : Thread) (disp : Word) : Bool :=
  match t.flake with
  | none => true
  | some f => decide (0 < disp.toInt ∧ (t.pc.toNat / 4 : Int) + disp.toInt < f.code.length)

/-- A conditional branch (R321). -/
def State.branch (s : State) (a b : BitVec 5) (i : BitVec 14) (cond : Word → Word → Bool) : State :=
  let disp := s.th.imm14 i
  if s.th.inlineTarget disp then
    s.withRegs [a.toNat, b.toNat] [] fun s =>
      if cond (s.th.S a.toNat) (s.th.S b.toNat) then s.setTh (s.th.retireTo (s.th.at_ + wordOffset disp))
      else s.retire
  else s.illegal

def execBeq (a b : BitVec 5) (i : BitVec 14) (s : State) : Out := .next (s.branch a b i fun x y => x == y)
def execBne (a b : BitVec 5) (i : BitVec 14) (s : State) : Out := .next (s.branch a b i fun x y => x != y)
def execBlt (a b : BitVec 5) (i : BitVec 14) (s : State) : Out := .next (s.branch a b i fun x y => x.slt y)
def execBge (a b : BitVec 5) (i : BitVec 14) (s : State) : Out := .next (s.branch a b i fun x y => !x.slt y)
def execBltu (a b : BitVec 5) (i : BitVec 14) (s : State) : Out := .next (s.branch a b i fun x y => x.ult y)
def execBgeu (a b : BitVec 5) (i : BitVec 14) (s : State) : Out := .next (s.branch a b i fun x y => !x.ult y)

/-- Jump to a target with the link in D. -/
def State.jump (s : State) (d : Nat) (target : Word) : State :=
  s.setTh ((s.th.setS d (s.th.at_ + 4)).retireTo target)

/-- JAL (R359). -/
def execJal (d : BitVec 5) (i : BitVec 19) (s : State) : Out :=
  .next <| s.withRegs [] [d.toNat] fun s => s.jump d.toNat (s.th.at_ + wordOffset (s.th.imm19 i))

/-- JALR (R359): S[A] is read before D is written; a misaligned target traps at the jump. -/
def execJalr (d a : BitVec 5) (i : BitVec 14) (s : State) : Out :=
  .next <| s.withRegs [a.toNat] [d.toNat] fun s =>
    let t := s.th.S a.toNat + s.th.imm14 i
    if wbits t 0 2 ≠ 0 then s.trap Cause.misalign t else s.jump d.toNat t

/-- SVC traps precisely; the handler reads the code from the word (R409). -/
def execSvc (_code : BitVec 14) (s : State) : Out := .next (s.trap Cause.svc 0)

/-- BKPT traps precisely (R323). -/
def execBkpt (_code : BitVec 14) (s : State) : Out := .next (s.trap Cause.bkpt 0)

end Sys2Proof.Machine
end

