-- ==== Sys2Proof/Machine/LoadStore.lean ====
section
/-!
DEFINITION. Sys2Proof/Machine/LoadStore.lean: scalar loads and stores, acquire loads, release stores, fences, DRAIN,
WFE and FIN, and the migration that a load outside the cluster makes (R34-R37).
-/

namespace Sys2Proof.Machine

open Sys2Proof

/-! ## Migration (R34-R37) -/

/-- Has a context's thread kicked a job that is not complete? -/
def State.jobsOpen (s : State) (ctx : Nat) : Bool :=
  s.jobs.any fun j =>
    j.2.state != .complete && j.2.members.any fun m => m.ctx == ctx && m.tid == (s.thAt ctx).tid && j.2.part == (s.thAt ctx).part

/-- Does a migration of a context's thread wait: for its stores and jobs (R34), for stores that a queue edge orders before
it (R93), and for stores whose bytes it has read in a line of the remote read cache (R96)? -/
def State.unsettled (s : State) (ctx : Nat) : Bool :=
  let t := s.thAt ctx
  s.unackedAt ctx true || s.jobsOpen ctx || s.stores.any fun p => !p.lost && p.seen.contains (t.part, t.tid)

/-- What of a thread a migration carries (R36, R37): masks, lanes, the lane request, the ring count and held notices
stay behind; capabilities travel where one is tagged (DEDUCED, log 40). -/
def Thread.depart (t : Thread) : Thread :=
  { t with
    m := [], v := [], c := if t.hasCaps then t.c else [], request := 0, slabs := 0, vl := 0, ringFails := 0,
    ringNote := none, joinNote := none, wait := .ready, latch := [], acquired := [], wake := 0, imx := none
    dirty := BitVec.allOnes 65 }

/-- Migrate the executing thread for an access (R34 steps 1 to 3): it waits for its stores and jobs, then a held
grant traps MIGRATE_BLOCKED, and otherwise the thread leaves as a kind-2 message. `code` is the cause it ends with
should the message be refused (R56); `chip` names a peer for CLDD (R330). -/
def State.migrate (s : State) (core radius : Nat) (exact : Bool) (addr : Word) (code : BitVec 8) (chip : Option Nat) :
    State :=
  let t := s.th
  if s.unsettled s.cur then s.sleep .settle
  else if t.grant ≠ 0 then s.trap Cause.migrateBlocked addr
  else if s.egressBlocked s.me t.level then s.sleep (.egress t.level)
  else
    let u := t.depart
    let m := { s.msgFrom s.cur (mkHeader 2 t.level radius core exact u.messageCount 0) (u.context s.asgen)
        .hardware with thread := some u, cause := code, fault := addr }
    let s := s.idle s.cur
    match chip with
    | none => s.inject m
    | some c => { s with outbox := s.outbox ++ [.msg c m] }

/-! ## Loads (R366-R368) -/

/-- The address that MCHK reports for a scalar read that meets an uncorrectable error (R67, R245). -/
def scalarMchk (addr : Word) (key granule : Nat) : Word := if isSpadKey key then mchkAddr addr key granule else addr

/-- The trap of an uncorrectable error that the executing instruction's read meets. -/
def State.mchk (s : State) (addr : Word) (key granule : Nat) : State := s.trap Cause.mchk (scalarMchk addr key granule)

/-- A scalar load of `n` bytes into D. An acquire load empties the remote read cache before its read; one that waits for
its data acquires when they come. -/
def State.load (s : State) (d : Nat) (addr : Word) (n : Nat) (signed acq : Bool) : State :=
  if addr.toNat % n ≠ 0 then s.trap Cause.misalign addr
  else match s.dataPlace addr n .read with
  | none => s.trap Cause.loadFault addr
  | some p =>
    if s.unreachable p then s.trap Cause.loadFault addr
    else match s.loadRoute p with
    | .outside core => s.migrate core 0 false addr Cause.loadFault none
    | _ =>
      let s := if acq then s.acquire else s
      let r := s.loadRoute p
      if s.routeWaits r n then s.sleep (.line r.key)
      else match r with
      | .neighbour k => s.sleep (.load d n signed k addr true (s.genOf (clusterOf s.me) s.th.asid) (s.th.at_ + 4) acq)
      | .far k => s.sleep (.load d n signed k addr false (s.genOf (clusterOf s.me) s.th.asid) (s.th.at_ + 4) acq)
      | r =>
        match s.routeError r n with
        | some g => s.mchk addr r.key g
        | none =>
          let (v, s) := s.readRoute r n
          s.finishS d (extend signed n v)

/-- The I-format loads. -/
def State.loadI (s : State) (d a : BitVec 5) (i : BitVec 14) (n : Nat) (signed : Bool) : State :=
  s.withRegs [a.toNat] [d.toNat] fun s => s.load d.toNat (s.th.S a.toNat + s.th.imm14 i) n signed false

def execLdb (d a : BitVec 5) (i : BitVec 14) (s : State) : Out := .next (s.loadI d a i 1 true)
def execLdbu (d a : BitVec 5) (i : BitVec 14) (s : State) : Out := .next (s.loadI d a i 1 false)
def execLdh (d a : BitVec 5) (i : BitVec 14) (s : State) : Out := .next (s.loadI d a i 2 true)
def execLdhu (d a : BitVec 5) (i : BitVec 14) (s : State) : Out := .next (s.loadI d a i 2 false)
def execLdw (d a : BitVec 5) (i : BitVec 14) (s : State) : Out := .next (s.loadI d a i 4 true)
def execLdwu (d a : BitVec 5) (i : BitVec 14) (s : State) : Out := .next (s.loadI d a i 4 false)
def execLdd (d a : BitVec 5) (i : BitVec 14) (s : State) : Out := .next (s.loadI d a i 8 false)

/-- The size in bytes of a memory form (R282). -/
def memSize (sz : BitVec 2) : Nat := 2 ^ sz.toNat

/-- LDACQ (R366): an acquire at its scope; the model orders at every scope (log 8). -/
def execLdacq (d a : BitVec 5) (sz : BitVec 2) (c : BitVec 3) (s : State) : Out :=
  .next <| s.checked (.ldacq d a sz c) fun s =>
    s.withRegs [a.toNat] [d.toNat] fun s => s.load d.toNat (s.th.S a.toNat) (memSize sz) false true

/-- The data of a waiting load arrives (R68): its acquire comes first, a line is filled, and the register is written. -/
def State.loadReturns (s : State) (ctx : Nat) : State :=
  let t := s.thAt ctx
  match t.wait with
  | .load d n signed key addr fill _ after acq =>
    match s.badGranule? key n with
    | some g => s.trapAt ctx Cause.mchk (scalarMchk addr key g)
    | none =>
      let s := { s.acquireLate ctx with cur := ctx }
      let s := if acq then s.acquire else s
      let (v, s) := s.readRoute (if fill then .neighbour key else .far key) n
      s.setTh ((s.th.setS d (extend signed n v)).retireTo after)
  | _ => s

/-! ## Stores (R405-R407) -/

/-- A plain store of the low `n` bytes of a value. -/
def State.storeTo (s : State) (addr : Word) (n : Nat) (v : Word) : State :=
  if addr.toNat % n ≠ 0 then s.trap Cause.misalign addr
  else match s.dataPlace addr n .write with
  | none => s.trap Cause.storeFault addr
  | some p =>
    if s.aliasWaits p n then s.sleep (.line (s.keyOf s.th.part p))
    else (s.storeAt p addr (leBytes n v.toNat) none).retire

/-- The S-format stores. -/
def State.storeS (s : State) (a b : BitVec 5) (i : BitVec 14) (n : Nat) : State :=
  s.withRegs [a.toNat, b.toNat] [] fun s => s.storeTo (s.th.S a.toNat + s.th.imm14 i) n (s.th.S b.toNat)

def execStb (a b : BitVec 5) (i : BitVec 14) (s : State) : Out := .next (s.storeS a b i 1)
def execSth (a b : BitVec 5) (i : BitVec 14) (s : State) : Out := .next (s.storeS a b i 2)
def execStw (a b : BitVec 5) (i : BitVec 14) (s : State) : Out := .next (s.storeS a b i 4)
def execStd (a b : BitVec 5) (i : BitVec 14) (s : State) : Out := .next (s.storeS a b i 8)

/-- Scope code 4, .sy: the only scope that waits for stores to other chips (R90). -/
def isSy (c : BitVec 3) : Bool := c == 4

/-- STREL (R407): the checks of a plain store, then the release wait, then the write. -/
def execStrel (a b : BitVec 5) (sz : BitVec 2) (c : BitVec 3) (s : State) : Out :=
  .next <| s.checked (.strel a b sz c) fun s =>
    s.withRegs [a.toNat, b.toNat] [] fun s =>
      let addr := s.th.S a.toNat
      let n := memSize sz
      if addr.toNat % n ≠ 0 then s.trap Cause.misalign addr
      else if (s.dataPlace addr n .write).isNone then s.trap Cause.storeFault addr
      else s.whenReleased (isSy c) fun s => s.storeTo addr n (s.th.S b.toNat)

/-! ## Fences and waits (R91, R106, R240, R340, R343) -/

/-- The lost stores of the executing thread: their peers, each once (R106). -/
def State.lostPeers (s : State) : List Nat :=
  ((s.stores.filter fun p => p.isOf s.cur s.th && p.lost).filterMap (·.peer)).eraseDups

/-- The lost stores are reported once. -/
def State.dropLost (s : State) : State :=
  { s with stores := s.stores.filter fun p => !(p.isOf s.cur s.th && p.lost) }

/-- FENCE of a kind: does it release, does it acquire. Every kind orders the alias pair (R99) (DEDUCED, log 37). -/
def State.fence (s : State) (d : BitVec 5) (c : BitVec 3) (rel acq : Bool) : State :=
  s.withRegs [] [d.toNat] fun s =>
    let finish (s : State) (st : Nat) : State :=
      let s := if acq then s.acquire else { s with stores := s.orderStores }
      s.finishS d.toNat (w64 st)
    if isSy c then s.whenReleased true fun s => finish s.dropLost s.lostPeers.length
    else if rel then s.whenReleased false fun s => finish s 0
    else finish s 0

def execFence (d : BitVec 5) (c : BitVec 3) (s : State) : Out :=
  .next <| s.checked (.fence d c) fun s => s.fence d c true true

def execFenceRel (d : BitVec 5) (c : BitVec 3) (s : State) : Out :=
  .next <| s.checked (.fenceRel d c) fun s => s.fence d c true false

def execFenceAcq (d : BitVec 5) (c : BitVec 3) (s : State) : Out :=
  .next <| s.checked (.fenceAcq d c) fun s => s.fence d c false true

/-- DRAIN waits for every posted store; it is no release and no acquire. -/
def execDrain (s : State) : Out := .next (s.whenReleased true State.retire)

/-- WFE (R441, R442): it registers at the owner's port on the word it reads, or completes where the word differs. A port
that has performed an operation in this V cycle makes it wait for the next: a write of the same V cycle would come after
it. No line of the remote read cache outlives the word it takes (R96). -/
def execWfe (d a b : BitVec 5) (s : State) : Out :=
  .next <| match s.th.wait with
  | .wfeHit w => (s.dropAt (s.th.S a.toNat)).finishS d.toNat w
  | _ =>
    s.withRegs [a.toNat, b.toNat] [d.toNat] fun s =>
      let addr := s.th.S a.toNat
      let cls := wbits addr 52 12
      if !(cls == 1 || decide (addr.toNat < 0x20000)) then s.trap Cause.loadFault addr
      else if addr.toNat % 8 ≠ 0 then s.trap Cause.misalign addr
      else match s.dataPlace addr 8 .read with
      | none => s.trap Cause.loadFault addr
      | some p =>
        let k := s.keyOf s.th.part p
        if s.storePending (decide (addr.toNat < 0x20000)) k 8 then s.sleep (.line k)
        else if (s.core (coreOfKey k)).portBusy then s.sleep (.port (coreOfKey k))
        else match s.badGranule? k 8 with
        | some g => s.mchk addr k g
        | none =>
          let w := w64 (s.peek k 8)
          if w ≠ s.th.S b.toNat then (s.dropAt addr).finishS d.toNat w else s.sleep (.wfe k)

/-- FIN (R345, R28): it ends a flake; it ends a thread once its stores are acknowledged or rejected, and its join
counter's decrement, where it has one, is performed; under a handler the thread ends failed. -/
def State.fin (s : State) : State :=
  if s.th.flake.isSome then s.flakeDone s.cur
  else if s.unackedAt s.cur true then s.sleep .finStores
  else if s.th.nest then s.endFailed s.cur s.th.cause s.th.taddr s.th.pc
  else if s.th.join = 0 then s.dropLost.endThread s.cur false
  else (s.dropLost.sendDecrement s.th false true).sleep .finish

def execFin (s : State) : Out := .next s.fin

end Sys2Proof.Machine
end

