-- ==== Sys2Proof/Machine/Sync.lean ====
section
/-!
DEFINITION. Sys2Proof/Machine/Sync.lean: what an owner's atomic port does (R100-R102, R316-R320, R391, R392, R30), and
the instructions that reach it: ATOM, CAS, the barrier and ring instructions, and JCWAIT.
-/

namespace Sys2Proof.Machine

open Sys2Proof

/-! ## The atomic port -/

/-- The signed reading of an n-byte value. -/
def signedBytes (x n : Nat) : Int := signedN x (8 * n)

/-- The float format of an atomic: BF16 for 2 bytes, FP32 for 4 (R297). -/
def atomFmt (n : Nat) : Fmt := if n = 2 then .bf16 else .fp32

def atomFadd (n old x : Nat) : Nat :=
  let f := atomFmt n
  (roundTo (Num.add false (f.decode old) (f.decode x)).1 f .rne false 0).bits

def atomFmax (n old x : Nat) : Nat :=
  let f := atomFmt n
  let a := f.decode old
  let b := f.decode x
  if a.isNan || b.isNan then f.nanBits else if a.ltSigned b then x else old

def atomFmin (n old x : Nat) : Nat :=
  let f := atomFmt n
  let a := f.decode old
  let b := f.decode x
  if a.isNan || b.isNan then f.nanBits else if b.ltSigned a then x else old

/-- The value an ATOM operation leaves (R297), for an n-byte old value and operand. -/
def atomValue (o n old x : Nat) : Nat :=
  match o with
  | 0 => (old + x) % 2 ^ (8 * n)
  | 1 => x
  | 2 => old &&& x
  | 3 => old ||| x
  | 4 => old ^^^ x
  | 5 => if signedBytes x n < signedBytes old n then x else old
  | 6 => if signedBytes old n < signedBytes x n then x else old
  | 7 => if x < old then x else old
  | 8 => if old < x then x else old
  | 9 => atomFadd n old x
  | 10 => atomFmax n old x
  | _ => atomFmin n old x

/-- ATOM and CAS at the owner. -/
inductive AtomicOp where
  | rmw (o n x : Nat)
  | cas (n exp new : Nat)
deriving DecidableEq, Repr

def AtomicOp.bytes : AtomicOp → Nat
  | .rmw _ n _ => n
  | .cas n _ _ => n

/-- The indivisible read and write: the old value, whether a compare failed, and the state after it. -/
def State.perform (s : State) (k : Nat) (op : AtomicOp) : Nat × Bool × State :=
  match op with
  | .rmw o n x =>
    let old := s.peek k n
    (old, false, s.landAtomic k n (atomValue o n old x))
  | .cas n exp new =>
    let old := s.peek k n
    if old = exp then (old, false, s.landAtomic k n new) else (old, true, s)

/-- May the route carry it (R126)? -/
def carries (p : Place) (op : AtomicOp) : Bool :=
  match p with
  | .bulk .cxl _ => false
  | .bulk (.hostWindow _) _ =>
    match op with
    | .rmw o n _ => decide (o ≤ 1 ∧ (n = 4 ∨ n = 8))
    | .cas n _ _ => decide (n = 4 ∨ n = 8)
  | _ => true

/-- May a location of this place be named at a scope code (R315)? Scope 7 has the capability's reach. -/
def inScope (me : Nat) (p : Place) (scope : Nat) : Bool :=
  match p with
  | .spad c _ _ =>
    if scope = 0 then c == me else if scope = 1 then clusterOf c == clusterOf me
    else if scope = 2 then dieOf c == dieOf me else true
  | .glacier _ _ => false
  | .bulk .control _ => false
  | .bulk _ _ => decide (3 ≤ scope)

/-- An atomic flake to a core (R63): word 1 holds the F field, the opcode and the issuing context. -/
def State.sendAtomic (s : State) (core : Nat) (addr : Word) (f opcode : Nat) (rest : List Word) (k : ReplyFor) : State :=
  if s.egressBlocked s.me 2 then s.sleep (.egress 2)
  else
    let w1 := w64 (f + field opcode 16 + field (s.cur % 4) 24)
    let s := s.undone.rrcDrop s.me (spadKey core (wbits addr 0 17))
    (s.inject (s.msgFrom s.cur (mkHeader 4 2 0 core true (2 + rest.length) 0) (addr :: w1 :: rest) .hardware)).sleep
      (.reply k addr none)

/-- Complete an atomic whose old value is known. -/
def State.finishAtomic (s : State) (k : ReplyFor) (old : Word) (st : Nat) : State :=
  match k with
  | .atom d => s.finishS d old
  | .cas d _ => (s.setTh (s.th.setS (d + 1) (w64 st))).finishS d old
  | .ring d => (s.setTh (s.th.setS (d + 1) (w64 st))).finishS d old
  | .barrier d => s.finishS d old

/-- An operation of the executing context at the port of its own core: it waits where the port has performed one in this
V cycle, the service context's among them. -/
def State.atPort (s : State) (body : State → State) : State :=
  if (s.core s.me).portBusy then s.sleep (.port s.me) else body (s.usePort s.me)

/-- ATOM or CAS at an address (R314, R315, R326): `f` is the F field of the flake's word 1. -/
def State.atomicAt (s : State) (addr : Word) (scope f opcode : Nat) (op : AtomicOp) (rest : List Word) (k : ReplyFor) :
    State :=
  let n := op.bytes
  if addr.toNat % n ≠ 0 then s.trap Cause.misalign addr
  else match s.resolve (s.th.issuer s.me) addr .atomic with
  | .error _ => s.trap Cause.storeFault addr
  | .ok p =>
    if !inScope s.me p scope then s.trap Cause.storeFault addr
    else if !carries p op then s.trap Cause.atomUncarried addr
    else
      let key := s.keyOf s.th.part p
      let al := decide (addr.toNat < 0x20000)
      if s.storePending al key n then s.sleep (.line key)
      else
        let here (s : State) : State :=
          match s.badGranule? key n with
          | some g => s.mchk addr key g
          | none =>
            let (old, failed, s) := s.perform key op
            s.finishAtomic k (w64 old) failed.toNat
        match p with
        | .spad c _ _ => if c = s.me then s.atPort here else s.sendAtomic c addr f opcode rest k
        | _ => here s

/-- The F field of ATOM and CAS (R282). -/
def atomF (o : Nat) (sz : BitVec 2) (scope : Nat) : Nat := field o 5 + field sz.toNat 3 + scope

/-- The low n bytes of a register. -/
def lowBytes (x : Word) (n : Nat) : Nat := wbits x 0 (8 * n)

def State.atomR (s : State) (d b : BitVec 5) (o : BitVec 4) (sz : BitVec 2) (scope : Nat) (addr : Word) : State :=
  s.atomicAt addr scope (atomF o.toNat sz scope) 0x4F (.rmw o.toNat (memSize sz) (lowBytes (s.th.S b.toNat) (memSize sz)))
    [s.th.S b.toNat] (.atom d.toNat)

/-- ATOM (R314); inline code may use scope .co only (R60). -/
def execAtom (d a b : BitVec 5) (o : BitVec 4) (sz : BitVec 2) (c : BitVec 3) (s : State) : Out :=
  .next <| s.checked (.atom d a b o sz c) fun s =>
    if s.th.flake.isSome && c != 0 then s.illegal
    else s.withRegs [a.toNat, b.toNat] [d.toNat] fun s => s.atomR d b o sz c.toNat (s.th.S a.toNat)

def State.casR (s : State) (d b : BitVec 5) (sz : BitVec 2) (scope : Nat) (addr : Word) : State :=
  let n := memSize sz
  let exp := lowBytes (s.th.S d.toNat) n
  let new := lowBytes (s.th.S b.toNat) n
  s.atomicAt addr scope (atomF 0 sz scope) 0x50 (.cas n exp new) [s.th.S b.toNat, s.th.S d.toNat]
    (.cas d.toNat (w64 exp))

/-- CAS (R326); in inline code only within the alias (R60). -/
def execCas (d a b : BitVec 5) (sz : BitVec 2) (c : BitVec 3) (s : State) : Out :=
  .next <| s.checked (.cas d a b sz c) fun s =>
    s.withRegs [a.toNat, b.toNat, d.toNat] [d.toNat, d.toNat + 1] fun s =>
      let addr := s.th.S a.toNat
      if s.th.flake.isSome ∧ addr.toNat % memSize sz = 0 ∧ 0x20000 ≤ addr.toNat then s.trap Cause.storeFault addr
      else s.casR d b sz c.toNat addr

/-! ## Capability forms (R124, R314) -/

def Cap.peer (c : Cap) : Nat := natBits c.bits.toNat 110 18
def Cap.perm (c : Cap) (bit : Nat) : Bool := c.bits.getLsbD bit
def Cap.kind (c : Cap) : Nat := natBits c.bits.toNat 102 2
def Cap.base (c : Cap) : Nat := natBits c.bits.toNat 50 52
def Cap.length (c : Cap) : Nat := natBits c.bits.toNat 10 40

/-- The address class of a kind (R121). -/
def Cap.cls (c : Cap) : Nat := if c.kind = 0 then 1 else if c.kind = 1 then 2 else 0

/-- The class address of base + offset. -/
def Cap.addr (c : Cap) (off : Int) : Word := w64 (c.cls * 2 ^ 52 + (((c.base : Int) + off) % 2 ^ 52).toNat)

/-- Is there a fabric route to a peer that is not down (R264, R265)? Without a route table every live port reaches
every peer (log 9). -/
def State.reaches (s : State) (peer : Nat) : Bool := s.pkg.ports != 0 && !s.pkg.isDown peer

def State.localPeer (s : State) (c : Cap) : Bool := c.peer == s.pkg.chip

/-- The checks of R124 for an access of `n` bytes at an offset; `needs` are permission bits (DEDUCED, log 38). -/
def State.capOk (s : State) (c : Cap) (off : Int) (n : Nat) (needs : List Nat) : Bool :=
  c.tag && c.kind != 3 && natBits c.bits.toNat 0 10 == 0 && decide (c.base + c.length ≤ 2 ^ 52) &&
    decide (0 ≤ off ∧ off + n ≤ c.length) && needs.all c.perm && (s.localPeer c || s.reaches c.peer)

/-- An atomic across the fabric: the context waits for the reply. -/
def State.fabricAtomic (s : State) (peer op n : Nat) (addr operand expected : Word) (k : ReplyFor) : State :=
  ({ s with outbox := s.outbox ++ [Fabric.atomic peer s.cur op n addr operand expected] } : State).sleep
    (.reply k addr (some peer))

/-- ATOM through a capability, at base + 0 of its peer. -/
def execAtomCap (d a b : BitVec 5) (o : BitVec 4) (sz : BitVec 2) (s : State) : Out :=
  .next <| s.checked (.atomCap d a b o sz) fun s =>
    if s.th.flake.isSome then s.illegal
    else s.withRegs [b.toNat] [d.toNat] fun s =>
      let c := s.th.cap a.toNat
      let addr := c.addr 0
      if !s.capOk c 0 (memSize sz) [107] then s.trap Cause.capFault addr
      else if s.localPeer c then s.atomR d b o sz 7 addr
      else if addr.toNat % memSize sz ≠ 0 then s.trap Cause.misalign addr
      else if c.kind = 1 then s.trap Cause.storeFault addr
      else s.fabricAtomic c.peer o.toNat (memSize sz) addr (s.th.S b.toNat) 0 (.atom d.toNat)

/-- CAS through a capability. -/
def execCasCap (d a b : BitVec 5) (sz : BitVec 2) (s : State) : Out :=
  .next <| s.checked (.casCap d a b sz) fun s =>
    if s.th.flake.isSome then s.trap Cause.storeFault ((s.th.cap a.toNat).addr 0)
    else s.withRegs [b.toNat, d.toNat] [d.toNat, d.toNat + 1] fun s =>
      let c := s.th.cap a.toNat
      let addr := c.addr 0
      if !s.capOk c 0 (memSize sz) [107] then s.trap Cause.capFault addr
      else if s.localPeer c then s.casR d b sz 7 addr
      else if addr.toNat % memSize sz ≠ 0 then s.trap Cause.misalign addr
      else if c.kind = 1 then s.trap Cause.storeFault addr
      else s.fabricAtomic c.peer 16 (memSize sz) addr (s.th.S b.toNat)
        (s.th.S d.toNat) (.cas d.toNat (w64 (lowBytes (s.th.S d.toNat) (memSize sz))))

/-! ## Barriers (R316-R320) -/

def barPhase (w0 : Nat) : Nat := natBits w0 48 16
def barExpected (w0 : Nat) : Nat := natBits w0 32 16
def barArrived (w0 : Nat) : Nat := natBits w0 16 16
def barError (w0 : Nat) : Nat := natBits w0 8 2
def barStage (w0 : Nat) : Nat := natBits w0 0 1

/-- Word 0 with its fields; the phase wraps at 2^16. -/
def barWord (w0 phase expected arrived error : Nat) : Nat :=
  field (phase % 65536) 48 + field expected 32 + field arrived 16 + natBits w0 10 6 * 2 ^ 10 + field error 8 +
    natBits w0 0 8

/-- The contexts of the owner core that sleep on a barrier whose phase has moved on, or that is in error, go on. -/
def wakeBarrier (w0 off : Nat) (c : Ctx) : Ctx :=
  match c.th.wait with
  | .barrier o p =>
    if o = off ∧ (barPhase w0 ≠ p.toNat ∨ barError w0 ≠ 0) then { c with th := { c.th with wait := .barrierHit } } else c
  | _ => c

/-- The port writes word 0 of a barrier, and its sleepers look again. -/
def State.setBarrier (s : State) (core off w0 : Nat) : State :=
  let s := s.landAtomic (spadKey core off) 8 w0
  { s with ctxs := s.ctxs.mapVal fun k c => if k / 4 = core then wakeBarrier w0 off c else c }

/-- CompleteIfDue (R319), on words 0 and 1 as they stand. -/
def State.completeBarrier (s : State) (core off : Nat) : State :=
  let key := spadKey core off
  let w0 := s.peek key 8
  let w1 := s.peek (key + 8) 8
  if barExpected w0 ≤ barArrived w0 ∧ (barStage w0 = 0 ∨ natBits w1 32 32 = natBits w1 0 32) then
    let s := s.landAtomic (key + 8) 8 (natBits w1 0 32)
    let s := s.landAtomic (key + 16) 8 0
    s.setBarrier core off (barWord w0 (barPhase w0 + 1) (barExpected w0) 0 (barError w0))
  else s

/-- Set a barrier's error field. -/
def State.barrierError (s : State) (core off e : Nat) : State :=
  let w0 := s.peek (spadKey core off) 8
  s.setBarrier core off (barWord w0 (barPhase w0) (barExpected w0) (barArrived w0) e)

/-- Has a barrier's deadline passed? -/
def State.barrierLate (s : State) (core off : Nat) : Bool :=
  let dl := s.peek (spadKey core off + 16) 8
  dl != 0 && decide (dl ≤ s.time.ns)

/-- Arrive(b) at the owner (R319); the answer says whether the arrival was taken. -/
def State.arriveBarrier (s : State) (core off b : Nat) : State × Bool :=
  let key := spadKey core off
  let s := if barError (s.peek key 8) = 0 ∧ s.barrierLate core off then s.barrierError core off 2 else s
  let w0 := s.peek key 8
  let w1 := s.peek (key + 8) 8
  if barError w0 ≠ 0 then (s, false)
  else if barStage w0 = 1 ∧ natBits w1 0 32 < natBits w1 32 32 + b then (s.barrierError core off 1, false)
  else if barExpected w0 < barArrived w0 + 1 then (s.barrierError core off 3, false)
  else
    let s := if barStage w0 = 1 then s.landAtomic (key + 8) 8 (field (natBits w1 32 32 + b) 32 + natBits w1 0 32) else s
    let s := s.setBarrier core off (barWord w0 (barPhase w0) (barExpected w0) (barArrived w0 + 1) (barError w0))
    (s.completeBarrier core off, true)

/-- BARJOIN and BARDROP at the owner; false where they trap ILLEGAL and change nothing. -/
def State.joinBarrier (s : State) (core off : Nat) : State × Bool :=
  let w0 := s.peek (spadKey core off) 8
  if barExpected w0 = 65535 then (s, false)
  else (s.setBarrier core off (barWord w0 (barPhase w0) (barExpected w0 + 1) (barArrived w0) (barError w0)), true)

def State.dropBarrier (s : State) (core off : Nat) : State × Bool :=
  let w0 := s.peek (spadKey core off) 8
  if barExpected w0 = 1 then (s, false)
  else
    let e := (barExpected w0 + 65535) % 65536
    ((s.setBarrier core off (barWord w0 (barPhase w0) e (barArrived w0) (barError w0))).completeBarrier core off, true)

/-- An operation of the port on a barrier: the old word 0, and the cause of its trap where it is refused. -/
def State.barrierOp (s : State) (core off opcode : Nat) : Nat × BitVec 8 × State :=
  let old := s.peek (spadKey core off) 8
  if opcode = 0x59 then
    let (s, ok) := s.arriveBarrier core off 0
    (old, if ok then 0 else Cause.copyCount, s)
  else if opcode = 0x5B then
    let (s, ok) := s.joinBarrier core off
    (old, if ok then 0 else Cause.illegal, s)
  else
    let (s, ok) := s.dropBarrier core off
    (old, if ok then 0 else Cause.illegal, s)

/-- The checks of R317 on a barrier address: its core and offset, or the cause. -/
def State.barrierAt (s : State) (addr : Word) : Except (BitVec 8) (Nat × Nat) :=
  let cls := wbits addr 52 12
  if !(cls == 1 || decide (addr.toNat < 0x20000)) then .error Cause.storeFault
  else if addr.toNat % 8 ≠ 0 then .error Cause.misalign
  else match s.resolve (s.th.issuer s.me) addr .atomic with
  | .ok (.spad c off _) => if 0x1FFE8 < off then .error Cause.storeFault else .ok (c, off)
  | _ => .error Cause.storeFault

/-- BARARR, BARDROP and BARJOIN: at the port of the own core, or by an atomic flake (DEDUCED, log 42). -/
def State.barrierInstr (s : State) (d : Nat) (addr : Word) (opcode : Nat) : State :=
  match s.barrierAt addr with
  | .error c => s.trap c addr
  | .ok (core, off) =>
    if s.storePending (decide (addr.toNat < 0x20000)) (spadKey core off) 24 then s.sleep (.line (spadKey core off))
    else if core = s.me then s.atPort fun s =>
      match s.badGranule? (spadKey core off) 24 with
      | some g => s.mchk addr (spadKey core off) g
      | none =>
        let (old, cause, s) := s.barrierOp core off opcode
        if cause = 0 then s.finishS d (w64 old)
        else s.trap cause (if cause = Cause.illegal then 0 else addr)
    else s.sendAtomic core addr 0 opcode [] (.barrier d)

/-- BARINIT (R318). -/
def execBarinit (a b : BitVec 5) (s : State) : Out :=
  .next <| s.withRegs [a.toNat, b.toNat] [] fun s =>
    let addr := s.th.S a.toNat
    let c := s.th.S b.toNat
    match s.barrierAt addr with
    | .error e => s.trap e addr
    | .ok (core, off) =>
      if core ≠ s.me then s.trap Cause.loadFault addr
      else if wbits c 0 16 = 0 then s.illegal
      else if s.storePending (decide (addr.toNat < 0x20000)) (spadKey core off) 24 then s.sleep (.line (spadKey core off))
      else s.atPort fun s =>
        let key := spadKey core off
        match s.badGranule? key 8 with
        | some g => s.mchk addr key g
        | none =>
        let w0 := s.peek key 8
        let s := s.landAtomic (key + 8) 8 (wbits c 32 32)
        let s := s.landAtomic (key + 16) 8 0
        (s.setBarrier core off (field ((barPhase w0 + 1) % 65536) 48 + field (wbits c 0 16) 32 + wbits c 16 1)).retire

/-- BARARR is a release (R319). -/
def execBararr (d a : BitVec 5) (s : State) : Out :=
  .next <| s.withRegs [a.toNat] [d.toNat] fun s =>
    match s.barrierAt (s.th.S a.toNat) with
    | .error c => s.trap c (s.th.S a.toNat)
    | .ok _ => s.whenReleased true fun s => s.barrierInstr d.toNat (s.th.S a.toNat) 0x59

def execBardrop (d a : BitVec 5) (s : State) : Out :=
  .next <| s.withRegs [a.toNat] [d.toNat] fun s => s.barrierInstr d.toNat (s.th.S a.toNat) 0x5A

def execBarjoin (d a : BitVec 5) (s : State) : Out :=
  .next <| s.withRegs [a.toNat] [d.toNat] fun s => s.barrierInstr d.toNat (s.th.S a.toNat) 0x5B

/-- BARWAIT (R320): an acquire where the phase has moved on. -/
def execBarwait (d a b : BitVec 5) (s : State) : Out :=
  .next <| s.withRegs [a.toNat, b.toNat] [d.toNat] fun s =>
    let addr := s.th.S a.toNat
    match s.barrierAt addr with
    | .error e => s.trap e addr
    | .ok (core, off) =>
      if core ≠ s.me then s.trap Cause.loadFault addr
      else if s.storePending (decide (addr.toNat < 0x20000)) (spadKey core off) 24 then s.sleep (.line (spadKey core off))
      else match s.badGranule? (spadKey core off) 8 with
      | some g => s.mchk addr (spadKey core off) g
      | none =>
        let w0 := s.peek (spadKey core off) 8
        let p := wbits (s.th.S b.toNat) 0 16
        if barError w0 ≠ 0 then s.trap Cause.copyCount addr
        else if barPhase w0 ≠ p then s.acquire.finishS d.toNat (w64 w0)
        else s.sleep (.barrier off (BitVec.ofNat 16 p))

/-! ## Rings (R391, R392, R242) -/

/-- The header of a ring at an offset: enq, deq, log2 of the entries and the offset of entry 0; none where it is
malformed. -/
def ringHeader (w0 w1 : Nat) : Option (Nat × Nat × Nat × Nat) :=
  let enq := natBits w0 32 32
  let deq := natBits w0 0 32
  let size := natBits w1 24 4
  let base := natBits w1 0 17
  if natBits w1 28 36 ≠ 0 ∨ natBits w1 17 7 ≠ 0 ∨ size = 0 ∨ 13 < size ∨
      0x20000 < base + 8 * 2 ^ size ∨ 2 ^ size < (enq + 2 ^ 32 - deq) % 2 ^ 32 then none
  else some (enq, deq, size, base)

/-- RINGENQ of a word, or RINGDEQ, at the owner: the value, the ring status and the state. -/
def State.ringOp (s : State) (core off : Nat) (enqueue : Option Word) : Word × Nat × State :=
  let key := spadKey core off
  match ringHeader (s.peek key 8) (s.peek (key + 8) 8) with
  | none => (0, 2, s)
  | some (enq, deq, size, base) =>
    let held := (enq + 2 ^ 32 - deq) % 2 ^ 32
    let entry (x : Nat) : Nat := spadKey core (base + 8 * (x % 2 ^ size))
    match enqueue with
    | some w =>
      if held = 2 ^ size then (0, 1, s)
      else
        let s := s.landAtomic (entry enq) 8 w.toNat
        (w64 enq, 0, s.landAtomic key 8 (field ((enq + 1) % 2 ^ 32) 32 + deq))
    | none =>
      if held = 0 then (0, 1, s)
      else (w64 (s.peek (entry deq) 8), 0, s.landAtomic key 8 (field enq 32 + (deq + 1) % 2 ^ 32))

/-- The granule with an uncorrectable error that a ring operation reads: of the header, or of the entry that RINGDEQ
takes. -/
def State.ringError (s : State) (core off : Nat) (enqueue : Bool) : Option Nat :=
  match s.badGranule? (spadKey core off) 16 with
  | some g => some g
  | none =>
    match ringHeader (s.peek (spadKey core off) 8) (s.peek (spadKey core off + 8) 8) with
    | some (enq, deq, size, base) =>
      if enqueue ∨ enq = deq then none else s.badGranule? (spadKey core (base + 8 * (deq % 2 ^ size))) 8
    | none => none

/-- R242: a failed attempt counts, and a successful one clears the count and a held notice. -/
def Thread.ringAttempt (t : Thread) (st : Nat) : Thread :=
  if st = 0 then { t with ringFails := 0, ringNote := none } else { t with ringFails := t.ringFails + 1 }

/-- RING_STALL: the count has reached 2^16 (DEDUCED, log 86). -/
def State.ringStalls (s : State) (ctx : Nat) (addr : Word) : State :=
  let t := s.thAt ctx
  if 65536 ≤ t.ringFails then
    let s := s.setThAt ctx { t with ringFails := 0 }
    if t.rn then s.raiseNotice ctx Cause.ringStall addr else s
  else s

/-- Complete a ring instruction: D, D + 1, and the count of failed attempts (DESIGN CHOICE, log 65). -/
def State.finishRing (s : State) (d : Nat) (v : Word) (st : Nat) (addr : Word) : State :=
  let s := s.setTh (s.th.ringAttempt st)
  (s.finishAtomic (.ring d) v st).ringStalls s.cur addr

/-- RINGENQ and RINGDEQ. The value that a failed RINGENQ writes is not stated by the manual (R392): it is a free value
(log 5). -/
def State.ringInstr (s : State) (d a : BitVec 5) (opcode : Nat) (word : Option Word) : State :=
  let addr := s.th.S a.toNat
  let cls := wbits addr 52 12
  if !(cls == 1 || decide (addr.toNat < 0x20000)) then s.trap Cause.storeFault addr
  else if addr.toNat % 16 ≠ 0 then s.trap Cause.misalign addr
  else match s.resolve (s.th.issuer s.me) addr .atomic with
  | .ok (.spad core off _) =>
    if s.storePending (decide (addr.toNat < 0x20000)) (spadKey core off) 16 then s.sleep (.line (spadKey core off))
    else if core = s.me then s.atPort fun s =>
      match s.ringError core off word.isSome with
      | some g => s.mchk addr (spadKey core off) g
      | none =>
        let (v, st, s) := s.ringOp core off word
        let (v, s) := if word.isSome ∧ st ≠ 0 then
            let (n, s) := s.takeFree
            (Config.freeWord n, s) else (v, s)
        s.finishRing d.toNat v st addr
    else s.sendAtomic core addr 0 opcode (match word with | some w => [w] | none => []) (.ring d.toNat)
  | _ => s.trap Cause.storeFault addr

def execRingenq (d a b : BitVec 5) (s : State) : Out :=
  .next <| s.checked (.ringenq d a b) fun s =>
    s.withRegs [a.toNat, b.toNat] [d.toNat, d.toNat + 1] fun s => s.ringInstr d a 0x51 (some (s.th.S b.toNat))

def execRingdeq (d a : BitVec 5) (s : State) : Out :=
  .next <| s.checked (.ringdeq d a) fun s =>
    s.withRegs [a.toNat] [d.toNat, d.toNat + 1] fun s => s.ringInstr d a 0x52 none

/-! ## Join counters (R30, R360) -/

/-- JCWAIT completes with the counter's word as it was when the count was zero: an acquire; a nonzero result raises
JOIN_FAIL (R243). -/
def State.finishJoin (s : State) (d : Nat) (addr : Word) (w : Nat) : State :=
  let s := s.acquire.finishS d (w64 (natBits w 48 16))
  if natBits w 48 16 ≠ 0 ∧ s.th.jn then s.raiseNotice s.cur Cause.joinFail addr else s

/-- JCWAIT (R360). -/
def execJcwait (d a : BitVec 5) (s : State) : Out :=
  .next <| match s.th.wait with
  | .joinHit w => s.finishJoin d.toNat (s.th.S a.toNat) w
  | _ => s.withRegs [a.toNat] [d.toNat] fun s =>
    let addr := s.th.S a.toNat
    if wbits addr 52 12 ≠ 1 then s.trap Cause.loadFault addr
    else if addr.toNat % 8 ≠ 0 then s.trap Cause.misalign addr
    else match s.dataPlace addr 8 .read with
    | none => s.trap Cause.loadFault addr
    | some p =>
      let k := s.keyOf s.th.part p
      if s.storePending false k 8 then s.sleep (.line k)
      else match s.badGranule? k 8 with
      | some g => s.mchk addr k g
      | none =>
        let w := s.peek k 8
        if natBits w 0 48 ≠ 0 then s.sleep (.join k) else s.finishJoin d.toNat addr w

end Sys2Proof.Machine
end

