-- ==== Sys2Proof/Machine/Capability.lean ====
section
/-!
DEFINITION. Sys2Proof/Machine/Capability.lean: capability registers in memory, derivation, and the accesses through
them (R121-R125, R327-R330).
-/

namespace Sys2Proof.Machine

open Sys2Proof

/-- The address checks of CLD and CST in R328's order: the private alias or class 0x1, then a multiple of 16; then what
the place itself refuses (DEDUCED, log 50). -/
def State.capPlace (s : State) (addr : Word) (acc : Acc) (fault : BitVec 8) : Except (BitVec 8) Place :=
  if ¬(addr.toNat < 0x20000 ∨ wbits addr 52 12 = 1) then .error fault
  else if addr.toNat % 16 ≠ 0 then .error Cause.misalign
  else match s.dataPlace addr 16 acc with
  | some (.spad c off al) => .ok (.spad c off al)
  | _ => .error fault

/-- CLD reads at the owner, past the remote read cache, of which no line outlives it (R96); at supervisor level it mints. -/
def execCld (d a : BitVec 5) (i : BitVec 14) (s : State) : Out :=
  .next <| s.checked (.cld d a i) fun s =>
    s.withRegs [a.toNat] [] fun s =>
      let addr := s.th.S a.toNat + s.th.imm14 i
      match s.capPlace addr .read Cause.loadFault with
      | .error c => s.trap c addr
      | .ok (.spad core off al) =>
        let key := spadKey core off
        if clusterOf core ≠ clusterOf s.me then s.migrate core 0 false addr Cause.loadFault none
        else if s.storePending al key 16 then s.sleep (.line key)
        else match s.badGranule? key 16 with
        | some g => s.mchk addr key g
        | none =>
          let c : Cap := ⟨BitVec.ofNat 128 (s.peek key 16), s.th.lev || s.tags.contains key⟩
          ((s.dropAt addr).setTh (s.th.setCap d.toNat c)).retire
      | .ok _ => s.trap Cause.loadFault addr

/-- CST posts a register with its tag. -/
def execCst (a b : BitVec 5) (i : BitVec 14) (s : State) : Out :=
  .next <| s.checked (.cst a b i) fun s =>
    s.withRegs [a.toNat] [] fun s =>
      let addr := s.th.S a.toNat + s.th.imm14 i
      match s.capPlace addr .write Cause.storeFault with
      | .error c => s.trap c addr
      | .ok (.spad core off al) =>
        let c := s.th.cap b.toNat
        if clusterOf core ≠ clusterOf s.me then s.migrate core 0 false addr Cause.loadFault none
        else if s.aliasWaits (.spad core off al) 16 then s.sleep (.line (spadKey core off))
        else (s.storeAt (.spad core off al) addr (leBytes 16 c.bits.toNat) (some c.tag)).retire
      | .ok _ => s.trap Cause.storeFault addr

/-- A capability with another base and length (R329). -/
def Cap.narrow (c : Cap) (off len : Nat) : Cap :=
  let n := c.bits.toNat
  ⟨BitVec.ofNat 128 (natBits n 102 26 * 2 ^ 102 + field ((c.base + off) % 2 ^ 52) 50 + field (len % 2 ^ 40) 10 +
    natBits n 0 10), true⟩

def execCbnd (d a b : BitVec 5) (s : State) : Out :=
  .next <| s.checked (.cbnd d a b) fun s =>
    s.withRegs [b.toNat, b.toNat + 1] [] fun s =>
      let c := s.th.cap a.toNat
      let off := (s.th.S b.toNat).toNat
      let len := (s.th.S (b.toNat + 1)).toNat
      if !c.tag then s.trap Cause.capFault 0
      else if c.length < off + len then s.trap Cause.capFault 0
      else (s.setTh (s.th.setCap d.toNat (c.narrow off len))).retire

/-- Mask bits 0 to 5 keep or clear G, C, M, A, W and R, bits 104 to 109 (R329). -/
def Cap.mask (c : Cap) (m : Word) : Cap :=
  let n := c.bits.toNat
  ⟨BitVec.ofNat 128 (natBits n 110 18 * 2 ^ 110 + field (natBits n 104 6 &&& wbits m 0 6) 104 + natBits n 0 104), true⟩

def execCperm (d a b : BitVec 5) (s : State) : Out :=
  .next <| s.checked (.cperm d a b) fun s =>
    s.withRegs [b.toNat] [] fun s =>
      let c := s.th.cap a.toNat
      if !c.tag then s.trap Cause.capFault 0
      else (s.setTh (s.th.setCap d.toNat (c.mask (s.th.S b.toNat)))).retire

/-- CLDD (R330): the ordinary load at the class address on the executing chip; the thread migrates to another
(DEDUCED, log 39). -/
def execCldd (d a : BitVec 5) (i : BitVec 14) (s : State) : Out :=
  .next <| s.checked (.cldd d a i) fun s =>
    s.withRegs [] [d.toNat] fun s =>
      let c := s.th.cap a.toNat
      let off := (s.th.imm14 i).toInt
      let addr := c.addr off
      let here := s.localPeer c
      if !s.capOk c off 8 (if here then [109] else [109, 106]) then s.trap Cause.capFault addr
      else if addr.toNat % 8 ≠ 0 then s.trap Cause.misalign addr
      else if here then s.load d.toNat addr 8 false false
      else if c.kind = 0 then
        s.migrate (coreOfKey addr.toNat) 0 true addr Cause.capFault (some c.peer)
      else if c.kind = 1 then s.migrate (coreAt (wbits addr 42 2) 0 0) 31 false addr Cause.capFault (some c.peer)
      else s.migrate (coreAt 0 0 0) 31 false addr Cause.capFault (some c.peer)

/-- CSTD (R330): the ordinary posted store on the executing chip; a posted store across the fabric to another. -/
def execCstd (a b : BitVec 5) (i : BitVec 14) (s : State) : Out :=
  .next <| s.checked (.cstd a b i) fun s =>
    s.withRegs [b.toNat] [] fun s =>
      let c := s.th.cap a.toNat
      let off := (s.th.imm14 i).toInt
      let addr := c.addr off
      if !s.capOk c off 8 (if c.kind = 1 then [108, 104] else [108]) then s.trap Cause.capFault addr
      else if addr.toNat % 8 ≠ 0 then s.trap Cause.misalign addr
      else if s.localPeer c then s.storeTo addr 8 (s.th.S b.toNat)
      else
        let bytes := leBytes 8 (s.th.S b.toNat).toNat
        let id := s.nextId
        let s := s.post addr addr.toNat (some c.peer) bytes none s.th.asid
        ({ s with outbox := s.outbox ++ [.store c.peer id addr bytes] } : State).retire

end Sys2Proof.Machine
end

