-- ==== Sys2Proof/Machine/MsgOps.lean ====
section
/-!
DEFINITION. Sys2Proof/Machine/MsgOps.lean: the instructions that send messages or move the thread (SEND, SENDI, FWD,
SPAWN, MIGRATE), and the queue registers (QRD, QWR, QLEN).
-/

namespace Sys2Proof.Machine

open Sys2Proof

/-- S[b] to S[b + n - 1]. -/
def Thread.regs (t : Thread) (b n : Nat) : List Word := (upFrom b n).map t.S

/-- Send a formed message, or wait while the egress port of its priority is stalled (R53). -/
def State.sendOr (s : State) (m : Msg) (after : State → State) : State :=
  let p := hPrio m.header
  if s.egressBlocked s.me p then s.sleep (.egress p) else after (s.inject m)

/-- A header with its count replaced. -/
def withCount (h : Word) (n : Nat) : Word := w64 (wbits h 40 24 * 2 ^ 40 + field n 32 + wbits h 0 32)

/-- SEND (R395): a release. -/
def execSend (a b n : BitVec 5) (s : State) : Out :=
  .next <| s.checked (.send a b n) fun s =>
    s.withRegs (a.toNat :: upFrom b.toNat n.toNat) [] fun s =>
      let h := s.th.S a.toNat
      if hKind h ≠ 0 then s.illegal
      else s.whenReleased true fun s =>
        s.sendOr (s.msgFrom s.cur (withCount h n.toNat) (s.th.regs b.toNat n.toNat) .send) State.retire

/-- The code words packed two to a payload word; an odd last one is padded with zero (R58). -/
def packCode : List (BitVec 32) → List Word
  | [] => []
  | [x] => [x.setWidth 64]
  | x :: y :: rest => (y ++ x) :: packCode rest

/-- The code words that SENDI has read leave once its thread's stores have performed: they are not read again. -/
def State.sendCode (s : State) (h : Word) (words : List Word) : State :=
  (s.latched words).whenReleased true fun s =>
    s.sendOr (s.msgFrom s.cur h (w64 (field (s.meshOf s.cur).toNat 32) :: words) .sendi) State.retire

/-- SENDI (R396). -/
def execSendi (a b : BitVec 5) (s : State) : Out :=
  .next <| s.withRegs [a.toNat, b.toNat] [] fun s =>
    let h := s.th.S a.toNat
    let len := hEntry h
    let c := hCount h
    if (hKind h ≠ 1 ∧ hKind h ≠ 3) ∨ len = 0 ∨ 12 < len ∨ c < 1 + ceilDiv len 2 ∨ 31 < c then s.illegal
    else
      let addr := s.th.S b.toNat
      let n := 8 * (c - 1)
      if addr.toNat % 8 ≠ 0 then s.trap Cause.misalign addr
      else if 0x20000 < addr.toNat + n ∨ 0x20000 ≤ addr.toNat then s.trap Cause.loadFault addr
      else if s.th.latch ≠ [] then s.sendCode h s.th.latch
      else
        let key := spadKey s.me addr.toNat
        if s.storePending true key n then s.sleep (.line key)
        else match s.badGranule? key n with
        | some g => s.mchk addr key g
        | none => s.sendCode h <| (upFrom 0 (c - 1)).map fun j =>
          let w := w64 (s.peek (key + 8 * j) 8)
          if len % 2 = 1 ∧ j + 1 = ceilDiv len 2 then w64 (wbits w 0 32) else w

/-- Is a launch being stopped? -/
def State.stopping (s : State) (lid : Nat) : Bool :=
  match s.launches.look? lid with
  | some l => l.stopping
  | none => false

/-- The launch whose work a context holds. -/
def Ctx.launch? (c : Ctx) : Option Nat :=
  match c.mode with
  | .idle => none
  | .starting m => some m.launch
  | .running => some c.th.launch

def Entry.launchOf : Entry → Nat
  | .msg m => m.launch
  | .thread t => t.launch

/-- The launches with a thread, a flake or a message at a core, running, queued or on its way there (R247). -/
def State.launchesAt (s : State) (core : Nat) : List Nat :=
  ((svcCtx core :: userCtxs core).filterMap fun k => (s.ctx k).launch?) ++
    (((s.core core).runq ++ (s.core core).backlog).map fun e => e.entry.launchOf) ++ (s.core core).mail.map (·.launch) ++
    (s.mesh.filter fun m => m.at_ == core).map (·.launch)

/-- Has a stop reached a core: does a launch that is being stopped hold work there (R25, R247)? -/
def State.stopAt (s : State) (core : Nat) : Bool := (s.launchesAt core).any s.stopping

/-- FWD (R347): the message of the next hop, then the flake ends. At a stop the message stays in a stalled egress port
and the flake ends all the same (R25). -/
def execFwd (a b : BitVec 5) (k : BitVec 4) (n : BitVec 5) (s : State) : Out :=
  .next <| s.checked (.fwd a b k n) fun s =>
    match s.th.flake with
    | none => s.illegal
    | some f =>
      let h := s.th.S a.toNat
      let len := f.code.length
      let c := 1 + ceilDiv (len - k.toNat) 2 + n.toNat
      if (hKind h ≠ 1 ∧ hKind h ≠ 3) ∨ len ≤ k.toNat ∨ 31 < c then s.illegal
      else
        let header := w64 (field 3 60 + wbits h 40 20 * 2 ^ 40 + field c 32 + (len - k.toNat))
        let chain := w64 (wbits f.chain 32 32 * 2 ^ 32 + field ((wbits f.chain 24 8 + 1) % 256) 24 + f.spent)
        let payload := chain :: packCode (f.code.drop k.toNat) ++ s.th.regs b.toNat n.toNat
        let m := s.msgFrom s.cur header payload .fwd
        if s.stopAt s.me then
          (s.inject { m with inPort := s.egressBlocked s.me (hPrio header) }).flakeDone s.cur
        else s.sendOr m fun s => s.flakeDone s.cur

/-- SPAWN (R400-R402): the counter is raised at its owner, the seed is drawn, and the spawn message leaves, in one
step; the child runs at the parent's run level. -/
def execSpawn (d a b n : BitVec 5) (s : State) : Out :=
  .next <| s.checked (.spawn d a b n) fun s =>
    s.withRegs (a.toNat :: d.toNat :: upFrom b.toNat n.toNat) [] fun s =>
      let h := s.th.S a.toNat
      let j := s.th.S d.toNat
      if hKind h ≠ 0 then s.illegal
      else if d ≠ 0 ∧ wbits j 52 12 ≠ 1 then s.trap Cause.storeFault j
      else if d ≠ 0 ∧ j.toNat % 8 ≠ 0 then s.trap Cause.misalign j
      else if d ≠ 0 ∧ (s.dataPlace j 8 .atomic).isNone then s.trap Cause.storeFault j
      else s.whenReleased true fun s =>
        if s.egressBlocked s.me s.th.level then s.sleep (.egress s.th.level)
        else if d ≠ 0 ∧ (s.core (coreOfKey j.toNat)).portBusy then s.sleep (.port (coreOfKey j.toNat))
        else match (if d = 0 then none else s.badGranule? j.toNat 8) with
        | some g => s.mchk j j.toNat g
        | none =>
          let s := if d = 0 then s else
            ((s.usePort (coreOfKey j.toNat)).landAtomic j.toNat 8 (joinWord (s.peek j.toNat 8) 1 false)).dropAt j
          let (seed, t) := s.th.flurry
          let s := s.setTh t
          let header := w64 (wbits h 60 4 * 2 ^ 60 + field t.level 58 + wbits h 40 18 * 2 ^ 40 +
            field (3 + n.toNat) 32 + wbits h 0 32)
          let word2 := w64 (field t.level 24 + field t.ftz.toNat 11 + field t.rmode.toNat 8)
          (s.inject (s.msgFrom s.cur header
            ((if d = 0 then 0 else j) :: seed :: word2 :: t.regs b.toNat n.toNat) .spawn)).retire

/-- MIGRATE (R371, R372). -/
def execMigrate (d a : BitVec 5) (e : BitVec 1) (s : State) : Out :=
  .next <| s.withRegs [a.toNat] [d.toNat] fun s =>
    let addr := s.th.S a.toNat
    match wbits addr 52 12 == 1, s.dataPlace addr 1 .read with
    | true, some (.spad core _ _) =>
      let here := if e = 1 then core == s.me else clusterOf core == clusterOf s.me
      if here then
        if s.unsettled s.cur then s.sleep .settle
        else s.finishS d.toNat ((s.meshOf s.cur).setWidth 64)
      else s.migrate core 0 (e == 1) addr Cause.loadFault none
    | _, _ => s.trap Cause.loadFault addr

/-! ## Queue registers (R274, R385, R386) -/

/-- The words that a queue register holds at most. -/
def queueDepth (q : Nat) : Nat := if q < 4 then 8 else 32

def Core.queue (c : Core) (q : Nat) : List Word := c.queues.get [] q

def State.setQueue (s : State) (core q : Nat) (ws : List Word) : State :=
  let c := s.core core
  s.setCore core { c with queues := c.queues.insert q ws, qdead := 0 }

/-- Of the core's contexts that sleep on a queue in one direction, the one that has slept longest. -/
def State.queueSleeper (s : State) (core q : Nat) (reader : Bool) : Option Nat :=
  let since (k : Nat) : Option Nat :=
    match (s.thAt k).wait with
    | .queueRead q' _ t => if reader && q' == q then some t else none
    | .queueWrite q' _ t => if !reader && q' == q then some t else none
    | _ => none
  let best (acc : Option (Nat × Nat)) (k : Nat) : Option (Nat × Nat) :=
    match since k, acc with
    | some t, some (t0, k0) => if t < t0 then some (t, k) else some (t0, k0)
    | some t, none => some (t, k)
    | none, acc => acc
  ((userCtxs core).foldl best none).map (·.2)

/-- The posted stores that happen before a context's write of a queue register happen before whoever takes the word (R93). -/
def State.handStores (s : State) (ctx : Nat) : State :=
  { s with stores := s.stores.map fun p => if p.before ctx (s.thAt ctx) then { p with handed := true } else p }

/-- A posted store that has been handed comes before a context's thread from now on. -/
def Posted.edge (p : Posted) (ctx : Nat) (t : Thread) : Posted :=
  if !p.handed || coreOfCtx p.ctx != coreOfCtx ctx then p
  else if p.isOf ctx t then { p with ordered := true }
  else { p with after := (t.part, t.tid) :: p.after }

/-- A queue word that a context takes orders its thread after the core's stores before its queue words (R93): those of its
own come before its later alias accesses (DESIGN CHOICE, log 103). -/
def State.takeEdge (s : State) (ctx : Nat) : State := { s with stores := s.stores.map fun p => p.edge ctx (s.thAt ctx) }

/-- QRD: the head word; a writer that sleeps longest then appends its word. -/
def execQrd (d a : BitVec 5) (s : State) : Out :=
  .next <| s.checked (.qrd d a) fun s =>
    s.withRegs [] [d.toNat] fun s =>
      let q := a.toNat
      match (s.core s.me).queue q with
      | [] => s.sleep (.queueRead q d.toNat s.vcycle)
      | w :: rest =>
        let s := s.takeEdge s.cur
        let s1 : State :=
          match s.queueSleeper s.me q false with
          | some k =>
            match (s.thAt k).wait with
            | .queueWrite _ x _ => ((s.handStores k).setQueue s.me q (rest ++ [x])).retireAt k (s.thAt k)
            | _ => s.setQueue s.me q rest
          | none => s.setQueue s.me q rest
        s1.finishS d.toNat w

/-- QWR: a sleeping reader takes the word at once. -/
def execQwr (d a : BitVec 5) (s : State) : Out :=
  .next <| s.checked (.qwr d a) fun s =>
    s.withRegs [a.toNat] [] fun s =>
      let q := d.toNat
      let w := s.th.S a.toNat
      match s.queueSleeper s.me q true with
      | some k =>
        let t := s.thAt k
        match t.wait with
        | .queueRead _ dst _ =>
          ((((s.handStores s.cur).setQueue s.me q ((s.core s.me).queue q)).takeEdge k).retireAt k (t.setS dst w)).retire
        | _ => s.retire
      | none =>
        let ws := (s.core s.me).queue q
        if queueDepth q ≤ ws.length then s.sleep (.queueWrite q w s.vcycle)
        else ((s.handStores s.cur).setQueue s.me q (ws ++ [w])).retire

def execQlen (d a : BitVec 5) (s : State) : Out :=
  .next <| s.checked (.qlen d a) fun s =>
    s.withRegs [] [d.toNat] fun s => s.finishS d.toNat (w64 ((s.core s.me).queue a.toNat).length)

end Sys2Proof.Machine
end

