-- ==== Sys2Proof/Machine/SysReg.lean ====
section
/-!
DEFINITION. Sys2Proof/Machine/SysReg.lean: the state registers (R276, R277, R403, R404), RAND, TIMERD, PMRD, CLKREQ
and CLKWAIT.
-/

namespace Sys2Proof.Machine

open Sys2Proof

/-! ## Partition and launch registers -/

/-- The codes of a tuple at [31:16]: each a step minus 1 (R200). -/
def Steps.codes (t : Steps) : Nat :=
  field (t.m - 1) 12 + field (t.v - 1) 8 + field (t.n - 1) 4 + (t.b - 1)

/-- CLKGRANT (R204). -/
def Part.clkgrant (p : Part) : Word :=
  w64 (field p.power.toNat 32 + field p.steps.codes 16 + p.uniform.toNat)

/-- The floe of a launch, if it has one. -/
def State.floeOf (s : State) (launch : Nat) : Option Floe := (s.floes.find? fun f => f.2.launch == launch).map (·.2)

def FloeState.code : FloeState → Nat
  | .armed => 1
  | .running => 2
  | .cutting => 3
  | .frozen => 4
  | .broken => 5
  | .fallback => 6
  | .done => 7

/-- FLOEID and FLOESTATE read zero outside floes (R218). -/
def State.floeId (s : State) (launch : Nat) : Word :=
  match s.floeOf launch with
  | some f => w64 (field f.coordinator 32 + f.id)
  | none => 0

def State.floeState (s : State) (launch : Nat) : Word :=
  match s.floeOf launch with
  | some f => w64 (field f.epoch 32 + field f.barrier.toNat 4 + f.state.code)
  | none => 0

/-! ## Reading (R276, R404) -/

def Thread.tstat (t : Thread) : Word :=
  w64 (field t.rn.toNat 7 + field t.jn.toNat 6 + field t.nest.toNat 2 + field t.plev.toNat 1 + t.lev.toNat)

def Thread.sfrqn (t : Thread) : Word := w64 (field t.dropped.toNat 8 + t.sfrq.length)

def Thread.sfrqHead (t : Thread) : Word := match t.sfrq with | [] => 0 | (r, _) :: _ => r

def Thread.vgrant (t : Thread) : Word := w64 (field t.request 16 + t.grant)

def Thread.rmodeWord (t : Thread) : Word := w64 (field t.ftz.toNat 3 + t.rmode.toNat)

/-- The value of a state register for the executing thread. -/
def State.srValue (s : State) (n : Nat) : Word :=
  let t := s.th
  let c := s.core s.me
  let p := s.part t.part
  if n = 0x000 then w64 (field t.tid 32 + s.cur)
  else if n = 0x001 then (s.meshOf s.cur).setWidth 64
  else if n = 0x002 then w64 t.part
  else if n = 0x003 then s.asgen
  else if n = 0x010 then t.tcause
  else if n = 0x011 then t.taddr
  else if n = 0x012 then t.epc
  else if n = 0x013 then s.vector t.asid
  else if n = 0x014 then t.tstat
  else if n = 0x015 then t.sfrqHead
  else if n = 0x016 then t.sfrqn
  else if n = 0x017 then t.skid.setWidth 64
  else if n = 0x020 then c.fit.setWidth 64
  else if n = 0x021 then t.cellmask.setWidth 64
  else if n = 0x030 then t.fmtA.setWidth 64
  else if n = 0x031 then t.fmtB.setWidth 64
  else if n = 0x032 then t.fmtC.setWidth 64
  else if n = 0x033 then t.sclA.setWidth 64
  else if n = 0x034 then t.sclB.setWidth 64
  else if n = 0x035 then t.sclC.setWidth 64
  else if n = 0x036 then t.rmodeWord
  else if n = 0x037 then t.srseed
  else if n = 0x038 then t.fpstat.setWidth 64
  else if n = 0x039 then t.flurcnt
  else if n = 0x040 then t.vgrant
  else if n = 0x041 then w64 t.vl
  else if n = 0x042 then w64 (field t.regrant.toNat 1 + t.clip.toNat)
  else if n = 0x050 then p.clkgrant
  else if n = 0x051 then p.clkgen
  else if n = 0x052 then p.pwrshare.setWidth 64
  else if n = 0x060 then s.floeId t.launch
  else if n = 0x061 then s.floeState t.launch
  else if n = 0x070 then w64 (s.glref t.glref.toNat)
  else if n = 0x071 then c.discarded.setWidth 64
  else 0

/-- Registers 0x010 to 0x017 are supervisor-only (R232). -/
def srSupervisor (n : Nat) : Bool := decide (0x010 ≤ n ∧ n ≤ 0x017)

/-- SRRD; a read of SFRQ removes the record it returns (R238). -/
def execSrrd (d : BitVec 5) (n : BitVec 14) (s : State) : Out :=
  .next <| s.checked (.srrd d n) fun s =>
    if srSupervisor n.toNat && !s.th.lev then s.trap Cause.priv 0
    else s.withRegs [] [d.toNat] fun s =>
      let v := s.srValue n.toNat
      let s := if n = 0x015 then s.setTh { s.th.srDirty with sfrq := s.th.sfrq.tail } else s
      s.finishS d.toNat v

/-! ## Writing (R277) -/

/-- The three kinds of write. -/
inductive SrOp where
  | write | set | clear
deriving DecidableEq, Repr

/-- What an RW field takes. -/
def SrOp.rw (o : SrOp) (old x : Word) : Word :=
  match o with
  | .write => x
  | .set => old ||| x
  | .clear => old &&& ~~~x

/-- What a W1C field takes: SRSET leaves it. -/
def SrOp.w1c (o : SrOp) (old x : Word) : Word :=
  match o with
  | .set => old
  | _ => old &&& ~~~x

/-- Registers with only RO and reserved fields: a write traps PRIV at every level. SKID is one (DEDUCED, log 10). -/
def srReadOnly (n : Nat) : Bool :=
  decide (n ≤ 0x003 ∨ n = 0x017 ∨ n = 0x040 ∨ (0x050 ≤ n ∧ n ≤ 0x052) ∨ n = 0x060 ∨ n = 0x061)

/-- A write of RMODE; modes 5 to 7 are ignored (R132). -/
def Thread.setRmode (t : Thread) (x : Word) : Thread :=
  { t with ftz := wbit x 3, rmode := if wbits x 0 3 < 5 then BitVec.ofNat 3 (wbits x 0 3) else t.rmode }

/-- A write of a thread's or context's state register: `x` is the operand. -/
def Thread.srWrite (t : Thread) (o : SrOp) (n : Nat) (old x : Word) : Thread :=
  let w := o.rw old x
  if n = 0x010 then
    { t with cause := BitVec.ofNat 8 (wbits w 0 8), imprecise := wbit w 8, notice := wbit w 9 }
  else if n = 0x011 then { t with taddr := w }
  else if n = 0x012 then { t with epc := w }
  else if n = 0x014 then { t with rn := wbit w 7, jn := wbit w 6, nest := wbit w 2, plev := wbit w 1 }
  else if n = 0x016 then { t with dropped := BitVec.ofNat 8 (wbits (o.w1c old x) 8 8) }
  else if n = 0x021 then { t with cellmask := BitVec.ofNat 8 (wbits w 0 8) }
  else if n = 0x030 then { t with fmtA := BitVec.ofNat 4 (wbits w 0 4) }
  else if n = 0x031 then { t with fmtB := BitVec.ofNat 4 (wbits w 0 4) }
  else if n = 0x032 then { t with fmtC := BitVec.ofNat 4 (wbits w 0 4) }
  else if n = 0x033 then { t with sclA := BitVec.ofNat 9 (wbits w 0 9) }
  else if n = 0x034 then { t with sclB := BitVec.ofNat 9 (wbits w 0 9) }
  else if n = 0x035 then { t with sclC := BitVec.ofNat 9 (wbits w 0 9) }
  else if n = 0x036 then t.setRmode w
  else if n = 0x037 then { t with srseed := w, flurcnt := 0 }
  else if n = 0x038 then { t with fpstat := BitVec.ofNat 8 (wbits w 0 8) }
  else if n = 0x039 then { t with flurcnt := w }
  else if n = 0x041 then { t with vl := min (wbits w 0 9) t.grant }
  else if n = 0x042 then
    let v := o.w1c old x
    { t with regrant := wbit v 1, clip := wbit v 0 }
  else t

/-- SRSET and SRCLR change the selected bank of GLREF as they change an RW field (DESIGN CHOICE, log 11). -/
def Thread.setBank (t : Thread) (o : SrOp) (x : Word) : Thread :=
  { t with glref := BitVec.ofNat 5 (wbits (o.rw (t.glref.setWidth 64) x) 0 5) }

/-- The slot of a launch's domain whose lead core is the executing core: the fitness word's address, and the ASID it
is translated under. -/
def State.mirrorOf (s : State) : Option (Word × BitVec 16) :=
  match s.launches.look? s.th.launch with
  | none => none
  | some l =>
    match l.domain.bind s.domains.look? with
    | none => none
    | some d =>
      match d.slots.findIdx? fun e => e.chip == s.pkg.chip && e.core == s.me with
      | none => none
      | some i => some (d.desc.getD 3 0 + w64 (16 * i), d.asid)

/-- An SFRQ record (R238). -/
def sfrqRecord (reason size : Nat) (addr : Word) : Word := w64 (field reason 59 + field size 56 + wbits addr 0 56)

/-- The mirror store of a FIT write (R175). -/
def State.mirrorFit (s : State) (fit : BitVec 32) : State :=
  match s.mirrorOf with
  | none => s
  | some (addr, asid) =>
    match s.resolve { core := some s.me, part := s.th.part, asid, sup := true } addr .write with
    | .ok (.bulk k pa) =>
      if k = .control then s.setTh (s.th.addRecord (sfrqRecord 4 2 addr) (s.th.done + 1))
      else s.post addr (s.physKey s.th.part pa) none (leBytes 4 fit.toNat) none asid
    | _ => s.setTh (s.th.addRecord (sfrqRecord 4 2 addr) (s.th.done + 1))

/-- A write of a state register that its access code permits. -/
def State.srWrite (s : State) (o : SrOp) (n : Nat) (x : Word) : State :=
  let old := s.srValue n
  let s := s.setTh s.th.srDirty
  if n = 0x013 then { s with tvec := s.tvec.insert s.th.asid.toNat (o.rw old x &&& ~~~3#64) }
  else if n = 0x020 then
    let fit := (o.rw old x).setWidth 32
    (s.setCore s.me { s.core s.me with fit }).mirrorFit fit
  else if n = 0x070 then s.setTh (s.th.setBank o x)
  else if n = 0x071 then s.setCore s.me { s.core s.me with discarded := (o.w1c old x).setWidth 8 }
  else s.setTh (s.th.srWrite o n old x)

/-- SRWR, SRSET and SRCLR after the encoding checks. -/
def State.srAccess (s : State) (o : SrOp) (a : BitVec 5) (n : BitVec 14) : State :=
  if (srSupervisor n.toNat && !s.th.lev) || srReadOnly n.toNat then s.trap Cause.priv 0
  else s.withRegs [a.toNat] [] fun s => (s.srWrite o n.toNat (s.th.S a.toNat)).retire

def execSrwr (a : BitVec 5) (n : BitVec 14) (s : State) : Out :=
  .next <| s.checked (.srwr a n) fun s => s.srAccess .write a n

def execSrset (a : BitVec 5) (n : BitVec 14) (s : State) : Out :=
  .next <| s.checked (.srset a n) fun s => s.srAccess .set a n

def execSrclr (a : BitVec 5) (n : BitVec 14) (s : State) : Out :=
  .next <| s.checked (.srclr a n) fun s => s.srAccess .clear a n

/-! ## RAND, TIMERD, PMRD (R387, R410, R411, R383) -/

def execRand (d : BitVec 5) (s : State) : Out :=
  .next <| s.withRegs [] [d.toNat] fun s =>
    let (w, t) := s.th.flurry
    (s.setTh t).finishS d.toNat w

/-- The source field of the status word: the servo has none while it runs free or holds over (DEDUCED, log 19). -/
def TimeUnit.sourceCode (u : TimeUnit) : Nat :=
  if u.servo = .free ∨ u.servo = .holdover then 0
  else match u.source with
    | none => 0
    | some p => min (p + 1) 3

/-- The time status word (R210). -/
def TimeUnit.status (u : TimeUnit) : Word :=
  let servo := match u.servo with
    | .free => 0
    | .acquiring => 1
    | .locked => 2
    | .holdover => 3
  w64 (field u.u.toNat 32 + field u.unit.toNat 7 + field u.sourceCode 4 + servo)

/-- TIMERD: both words of device time. -/
def execTimerdTime (d : BitVec 5) (s : State) : Out :=
  .next <| s.checked (.timerdTime d) fun s =>
    s.withRegs [] [d.toNat, d.toNat + 1] fun s =>
      (s.setTh (s.th.setS (d.toNat + 1) (w64 (s.time.frac % 65536)))).finishS d.toNat (w64 s.time.ns)

def execTimerdStatus (d : BitVec 5) (s : State) : Out :=
  .next <| s.checked (.timerdStatus d) fun s =>
    s.withRegs [] [d.toNat] fun s => s.finishS d.toNat s.time.status

/-- The selects of a slot before its first code 0 (R268). -/
def PmSlot.depth (p : PmSlot) : Nat :=
  ((upFrom 0 4).takeWhile fun j => natBits p.sel.toNat (8 * j) 8 != 0).length

/-- What an event's count is divided by. -/
def countDivisor (code : Nat) : Nat := if code = 3 then 4096 else if code = 5 ∨ code = 10 then 64 else 1

/-- The event code of a select. -/
def PmSlot.code (p : PmSlot) (j : Nat) : Nat := natBits p.sel.toNat (8 * j) 8

/-- A counter's value and its enabled time in ns; a select at or above the depth reads zero. -/
def PmSlot.read (p : PmSlot) (j : Nat) : Word × Word :=
  if j < p.depth then (w64 (p.values.get 0 j / countDivisor (p.code j)), w64 (p.times.get 0 j / 65536)) else (0, 0)

def execPmrd (d : BitVec 5) (n : BitVec 14) (s : State) : Out :=
  .next <| s.checked (.pmrd d n) fun s =>
    s.withRegs [] [d.toNat, d.toNat + 1] fun s =>
      let p := s.part s.th.part
      let (v, t) : Word × Word :=
        if n.toNat = 32 then (w64 (s.time.ns - p.pmSince), 0)
        else (p.pm.get {} (n.toNat / 4)).read (n.toNat % 4)
      (s.setTh (s.th.setS (d.toNat + 1) t)).finishS d.toNat v

/-! ## Clock requests (R207, R331) -/

/-- CLKREQ: the request of the thread's launch, and an evaluation is due; the uniform flag stays. -/
def execClkreq (a : BitVec 5) (s : State) : Out :=
  .next <| s.withRegs [a.toNat] [] fun s =>
    let s := match s.launches.look? s.th.launch with
      | some l => s.setLaunch { l with clock := w64 (wbits l.clock 32 32 * 2 ^ 32 + wbits (s.th.S a.toNat) 0 32) }
      | none => s
    (s.setPart s.th.part { s.part s.th.part with evalDue := true }).retire

/-- CLKWAIT. -/
def execClkwait (d a : BitVec 5) (s : State) : Out :=
  .next <| s.withRegs [a.toNat] [d.toNat] fun s =>
    let g := (s.part s.th.part).clkgen
    if (s.th.S a.toNat).toNat < g.toNat then s.finishS d.toNat g else s.sleep (.clk (s.th.S a.toNat))

end Sys2Proof.Machine
end

