-- ==== Sys2Proof/Machine/System.lean ====
section
/-!
DEFINITION. Sys2Proof/Machine/System.lean: the return from a trap (R413), the end of a generation (R115-R118, R412)
and the wait for it (R352).
-/

namespace Sys2Proof.Machine

open Sys2Proof

/-- A supervisor-only instruction: at user level it traps PRIV (R296 step 5). -/
def State.supervisor (s : State) (body : State → State) : State :=
  if s.th.lev then body s else s.trap Cause.priv 0

/-! ## TRET -/

/-- A held record, else a held notice, traps at once where TRET has returned; RING_STALL goes before JOIN_FAIL. -/
def State.takeHeld (s : State) (ctx : Nat) : State :=
  let t := s.thAt ctx
  if !t.sfrq.isEmpty then s.takeRecord ctx t.pc
  else match t.ringNote, t.joinNote with
  | some a, _ => (s.setThAt ctx { t with ringNote := none }).takeTrap ctx Cause.ringStall a t.pc false true
  | none, some a => (s.setThAt ctx { t with joinNote := none }).takeTrap ctx Cause.joinFail a t.pc false true
  | none, none => s

def execTret (s : State) : Out :=
  .next <| s.supervisor fun s => (s.setTh s.th.leaveTrap).takeHeld s.cur

/-! ## Generations -/

/-- The clusters of the package. -/
def allClusters : List Nat := upFrom 0 96

/-- The generation table raises an ASID's generation and sends every cluster a notice. -/
def State.raiseGeneration (s : State) (asid : Nat) : BitVec 32 × State :=
  let g := s.gens.get 0 asid + 1
  (g, { s with gens := s.gens.insert asid g, notices := s.notices ++ allClusters.map fun c => (c, asid, g) })

/-- Has some cluster not yet acknowledged a generation? -/
def State.generationPending (s : State) (asid : Nat) (g : BitVec 32) : Bool :=
  s.notices.any fun n => n.2.1 == asid && n.2.2 == g

/-- TLBGEN: the release wait, the raise, and the wait for every cluster; an executing of it that waits for the
clusters does not raise again. -/
def execTlbgen (d a : BitVec 5) (s : State) : Out :=
  .next <| s.supervisor fun s =>
    match s.th.wait with
    | .tlbgen d asid g =>
      if s.generationPending asid g then s else s.finishS d (g.setWidth 64)
    | _ =>
      s.withRegs [a.toNat] [d.toNat] fun s =>
        s.whenReleased true fun s =>
          let asid := wbits (s.th.S a.toNat) 0 16
          let (g, s) := s.raiseGeneration asid
          s.sleep (.tlbgen d.toNat asid g)

/-- Is a generation older than another? Generations wrap (R117). -/
def olderGen (gen g : BitVec 32) : Bool := gen != g && decide ((g - gen).toNat < 2 ^ 31)

/-- Is an address translated: of class 0x0, and not of the private alias (R64)? -/
def isTranslated (addr : Word) : Bool := wbits addr 52 4 == 0 && decide (0x20000 ≤ addr.toNat)

/-- Does a context's wait hold a load translated under an older generation of an ASID? -/
def Thread.olderLoad (t : Thread) (asid : BitVec 16) (g : BitVec 32) : Bool :=
  match t.wait with
  | .load _ _ _ _ addr _ gen _ _ => t.asid == asid && isTranslated addr && olderGen gen g
  | _ => false

/-- Is an access translated under an older generation in flight, of a party of a cluster or of the package (R118)? A
rejected store is until its record is in the queue (R352). -/
def State.olderAccess (s : State) (cluster : Option Nat) (asid : BitVec 16) (g : BitVec 32) : Bool :=
  let party (ctx : Nat) : Bool := match cluster with
    | some c => clusterOf (coreOfCtx ctx) == c
    | none => true
  (s.stores.any fun p =>
      p.asid == asid && p.peer.isNone && isTranslated p.addr && olderGen p.gen g && party p.ctx) ||
    s.ctxs.any fun c => party c.1 && c.2.th.olderLoad asid g

/-- GENDRAIN at a scope: the generation is taken once. -/
def State.gendrain (s : State) (pk : Bool) : State :=
  let asid := s.th.asid
  let g := match s.th.wait with
    | .gendrain _ _ g => g
    | _ => s.genOf (clusterOf s.me) asid
  if s.olderAccess (if pk then none else some (clusterOf s.me)) asid g then s.sleep (.gendrain pk asid.toNat g)
  else s.retire

def execGendrainCl (s : State) : Out := .next <| s.supervisor fun s => s.gendrain false
def execGendrainPk (s : State) : Out := .next <| s.supervisor fun s => s.gendrain true

end Sys2Proof.Machine
end

