-- ==== Sys2Proof/Machine/Group.lean ====
section
/-!
DEFINITION. Sys2Proof/Machine/Group.lean: the group instructions and the partition's group directory (R38-R40, R351,
R355-R357).
-/

namespace Sys2Proof.Machine

open Sys2Proof

/-- An operation of the executing thread travels to the directory, which applies operations in arrival order. -/
def State.sendGroupOp (s : State) (kind : GroupOpKind) (g d : Nat) (w : Wait) : State :=
  let p := s.part s.th.part
  (s.setPart s.th.part { p with ops := p.ops ++ [⟨kind, s.th.tid, s.cur, g, d, s.nCycle⟩] }).sleep w

/-- A group instruction: an identifier above 4,095 traps ILLEGAL (R38). -/
def State.groupInstr (s : State) (d a : BitVec 5) (body : Nat → State → State) : State :=
  s.withRegs [a.toNat] [d.toNat] fun s =>
    let g := (s.th.S a.toNat).toNat
    if 4095 < g then s.illegal else body g s

def execGjoin (d a : BitVec 5) (s : State) : Out :=
  .next <| s.groupInstr d a fun g s => s.sendGroupOp .join g d.toNat .directory

def execGleave (d a : BitVec 5) (s : State) : Out :=
  .next <| s.groupInstr d a fun g s => s.sendGroupOp .leave g d.toNat .directory

/-- The group form of GBAR: its thread sleeps until the phase of its arrival completes. -/
def execGbarGroup (d a : BitVec 5) (s : State) : Out :=
  .next <| s.groupInstr d a fun g s => s.sendGroupOp .arrive g d.toNat (.groupBar g d.toNat false false)

/-- GKILL; executing again once its threads have ended, it receives their number. -/
def execGkill (d a : BitVec 5) (s : State) : Out :=
  .next <| match s.th.wait with
  | .gkill d n left => if left.isEmpty then s.finishS d (w64 n) else s
  | _ => s.groupInstr d a fun g s => s.sendGroupOp .kill g d.toNat .directory

/-! ## The directory -/

/-- An entry that is a thread with one of these numbers. -/
def Entry.isTids (part : Nat) (tids : List Nat) : Entry → Bool
  | .msg m => match m.thread with
    | some t => t.part == part && tids.contains t.tid
    | none => false
  | .thread t => t.part == part && tids.contains t.tid

def Entry.thread? : Entry → Option Thread
  | .msg m => m.thread
  | .thread t => some t

/-- Does a message carry a thread with one of these numbers? -/
def Msg.isTids (m : Msg) (part : Nat) (tids : List Nat) : Bool := (Entry.msg m).isTids part tids

/-- The message that a context holds: work that has not started. -/
def Ctx.held? (c : Ctx) : Option Msg := match c.mode with | .starting m => some m | _ => none

/-- The thread with one of these numbers that waits to leave for another chip. -/
def Fabric.leaver (part : Nat) (tids : List Nat) : Fabric → Option Thread
  | .msg _ m => if m.isTids part tids then m.thread else none
  | _ => none

/-- The threads of a partition with these numbers that stand at a core, in an image or before the fabric and run nowhere:
delivered, queued, swapped or leaving, they end where they are (R27, R29, R254). -/
def State.parkedThreads (s : State) (part : Nat) (tids : List Nat) : List Thread :=
  let of (es : List RunEntry) : List Thread :=
    (es.filter fun e => e.entry.isTids part tids).filterMap fun e => e.entry.thread?
  let ofMsgs (ms : List Msg) : List Thread := (ms.filter fun m => m.isTids part tids).filterMap fun m => m.thread
  ofMsgs (s.ctxs.filterMap fun c => c.2.held?) ++
  (s.cores.flatMap fun c => of c.2.runq ++ of c.2.backlog ++ ofMsgs c.2.mail) ++
  s.outbox.filterMap (Fabric.leaver part tids) ++
    s.images.flatMap fun i =>
      ((i.2.threads.map (·.2)).filter fun t => t.part == part && tids.contains t.tid) ++ of (i.2.queued.map (·.2)) ++
        ofMsgs i.2.captured

def State.removeParked (s : State) (part : Nat) (tids : List Nat) : State :=
  let keep (e : RunEntry) : Bool := !e.entry.isTids part tids
  let stays (m : Msg) : Bool := !m.isTids part tids
  { s with
    ctxs := s.ctxs.mapVal fun _ c => if c.held?.any fun m => m.isTids part tids then {} else c
    cores := s.cores.mapVal fun _ c =>
      { c with runq := c.runq.filter keep, backlog := c.backlog.filter keep, mail := c.mail.filter stays }
    outbox := s.outbox.filter fun x => (x.leaver part tids).isNone
    images := s.images.mapVal fun _ i =>
      { i with
        threads := i.threads.filter fun t => !(t.2.part == part && tids.contains t.2.tid)
        queued := i.queued.filter fun e => keep e.2
        captured := i.captured.filter stays } }

/-- Threads of a partition are killed: those parked end at once, the others at their next boundary. -/
def State.killTids (s : State) (part : Nat) (tids : List Nat) : State :=
  let parked := s.parkedThreads part tids
  let s := s.removeParked part tids
  let s := parked.foldl (fun s t => s.threadGone t true) s
  s.mapThreads fun t => if t.part = part ∧ tids.contains t.tid ∧ t.flake.isNone then { t with killed := true } else t

/-- A thread's GJOIN or GLEAVE has its result. -/
def Thread.directoryResult (t : Thread) (d r : Nat) : Thread :=
  match t.wait with
  | .directory => (t.setS d (w64 r)).retire
  | _ => t

def State.directoryAnswer (s : State) (part : Nat) (o : GroupOp) (r : Nat) : State :=
  (s.acquireTid part o.tid).onThread part o.tid fun t => t.directoryResult o.d r

/-- The directory applies one operation. A GKILL counts the members that it names now, also one whose own FIN takes effect
before the kill falls on it (DESIGN CHOICE, log 101). -/
def State.applyGroupOp (s : State) (part : Nat) (o : GroupOp) : State :=
  let x := (s.part part).groups.get ({} : Group) o.g
  match o.kind with
  | .join =>
    if x.members.contains o.tid then s.directoryAnswer part o 1
    else if 8 ≤ (s.groupsOf part o.tid).length then s.directoryAnswer part o 2
    else (s.setGroup part o.g (x.join o.tid)).directoryAnswer part o 0
  | .leave =>
    if x.members.contains o.tid then (s.leaveGroup part o.tid o.g).directoryAnswer part o 0
    else s.directoryAnswer part o 1
  | .arrive =>
    if x.members.contains o.tid then
      let (x, ws) := x.arrive o.tid
      let s := s.onThread part o.tid fun t => match t.wait with
        | .groupBar g d _ _ => { t with wait := .groupBar g d true (x.held.contains o.tid) }
        | _ => t
      (s.setGroup part o.g x).groupWakes part ws
    else if (s.thAt o.ctx).isTid part o.tid then s.trapAt o.ctx Cause.illegal 0
    else s
  | .kill =>
    let named := if (s.thAt o.ctx).isTid part o.tid ∧ (s.thAt o.ctx).killed then x.members else x.members.erase o.tid
    let s := s.onThread part o.tid fun t => { t with wait := .gkill o.d named.length named }
    s.killTids part named

/-- Does a GKILL of one N cycle go before a GJOIN to its group (R39)? -/
def GroupOp.yields (o : GroupOp) (rest : List GroupOp) : Bool :=
  o.kind == .join && rest.any fun k => k.kind == GroupOpKind.kill && k.g == o.g && k.cycle == o.cycle

/-- The operation that a directory applies next, and those left: they come in arrival order, but that a GJOIN lets a GKILL
of its group in one N cycle go first, and with it what arrived between them (DESIGN CHOICE, log 105), and waits for the
end of its cycle (R39, R357). -/
def directoryNext (now : Nat) : List GroupOp → Option (GroupOp × List GroupOp)
  | [] => none
  | o :: rest =>
    if o.yields rest then (directoryNext now rest).map fun x => (x.1, o :: x.2)
    else if o.kind = .join ∧ o.cycle = now then none
    else some (o, rest)

/-- GROUP_DIRECTORY_APPLY: the next operation of a partition. -/
def execGroupDirectoryApply (part : Nat) (s : State) : Out :=
  .next <| match directoryNext s.nCycle (s.part part).ops with
  | none => s
  | some (o, rest) => (s.setPart part { s.part part with ops := rest }).applyGroupOp part o

end Sys2Proof.Machine
end

