-- ==== Sys2Proof/Machine/Jobs.lean ====
section
/-!
DEFINITION. Sys2Proof/Machine/Jobs.lean: tile command words (R168, R285, R353), the kick and acceptance of jobs
(R80, R153-R155, R361-R363), JOBTEST (R364), and the completion of a job (R81-R85, R169).
-/

namespace Sys2Proof.Machine

open Sys2Proof

/-! ## Command words (R168) -/

abbrev CmdWord := BitVec 256

def CmdWord.bits (w : CmdWord) (lo len : Nat) : Nat := natBits w.toNat lo len
def CmdWord.opcode (w : CmdWord) : Nat := w.bits 248 8
def CmdWord.cls (w : CmdWord) : Nat := w.bits 244 4
def CmdWord.flags (w : CmdWord) : Nat := w.bits 236 4
def CmdWord.mode (w : CmdWord) : Nat := w.bits 232 4
def CmdWord.notify (w : CmdWord) : Nat := w.bits 200 32

/-- R302: is the engine opcode assigned within its class? -/
def CmdWord.assigned (w : CmdWord) : Bool :=
  decide (1 ≤ w.opcode) && decide (w.opcode ≤ if w.cls = 2 then 4 else 6)

/-- Does the notify field keep its mode's layout (R168, R285)? -/
def CmdWord.notifyOk (w : CmdWord) : Bool :=
  match w.mode with
  | 1 => true
  | 2 => decide (w.notify < 2 ^ 17 ∧ w.notify % 8 = 0)
  | 0 => decide (w.notify = 0)
  | 3 => decide (w.notify = 0)
  | _ => false

/-- A command that fails before its body and delivers only its token (R168, R285, R303). -/
def CmdWord.tokenOnly (w : CmdWord) : Bool := !w.assigned || !w.notifyOk

/-- The four words of a command word, and the command word of four words. -/
def CmdWord.words (w : CmdWord) : List Word := (upFrom 0 4).map fun i => w64 (w.bits (64 * i) 64)
def CmdWord.ofWords (ws : List Word) : CmdWord :=
  BitVec.ofNat 256 (ws.foldr (fun w n => w.toNat + 2 ^ 64 * n) 0)

/-- JOBM: bits [199:136] replaced (R361). -/
def CmdWord.withAddress (w : CmdWord) (x : Word) : CmdWord :=
  BitVec.ofNat 256 (natBits w.toNat 200 56 * 2 ^ 200 + field x.toNat 136 + natBits w.toNat 0 136)

/-! ## Reading a command word (R353) -/

/-- Where a command word may lie: the alias, the issuing cluster's scratchpads, or bulk memory (DEDUCED, log 51). -/
def State.commandPlace (s : State) (addr : Word) : Option Place :=
  match s.dataPlace addr 32 .read with
  | some (.spad c off al) => if clusterOf c = clusterOf s.me then some (.spad c off al) else none
  | some (.glacier _ _) => none
  | p => p

/-- Does the address name a class that R353 permits, whatever its translation? -/
def State.commandClass (s : State) (addr : Word) : Bool :=
  let a := addr.toNat
  decide (a < 0x20000 ∨ (0x100000000 ≤ a ∧ a < 2 ^ 52)) ||
    (wbits addr 52 12 == 1 && match s.dataPlace addr 1 .read with
      | some (.spad c _ _) => clusterOf c == clusterOf s.me
      | _ => false)

/-- The four loads of a command word, in increasing address. -/
def State.readWords (s : State) (p : Place) : Nat → Nat → Nat × State
  | _, 0 => (0, s)
  | j, n + 1 =>
    let place := match p with
      | .spad c off al => .spad c (off + 8 * j) al
      | .glacier d off => .glacier d (off + 8 * j)
      | .bulk k pa => .bulk k (pa + 8 * j)
    let (v, s) := s.readRoute (s.loadRoute place) 8
    let (rest, s) := s.readWords p (j + 1) n
    (v + 2 ^ 64 * rest, s)

/-- Read the command word at an address, or trap or wait as its loads do. The instruction reads it once: the waits that
follow keep it. -/
def State.withCommand (s : State) (addr : Word) (body : State → CmdWord → State) : State :=
  if s.th.latch ≠ [] then body s (.ofWords s.th.latch)
  else if !s.commandClass addr then s.trap Cause.loadFault addr
  else if addr.toNat % 32 ≠ 0 then s.trap Cause.misalign addr
  else match s.commandPlace addr with
  | none => s.trap Cause.loadFault addr
  | some p =>
    let r := s.loadRoute p
    if s.unreachable p then s.trap Cause.loadFault addr
    else if s.routeWaits r 32 then s.sleep (.line r.key)
    else match s.routeError r 32 with
    | some g => s.mchk (if r.key < g then addr + 16 else addr) r.key g
    | none =>
      let (v, s) := s.readWords p 0 4
      body s (BitVec.ofNat 256 v)

/-! ## Acceptance (R80, R153-R155, R363) -/

def Job.cls (j : Job) : Nat := CmdWord.cls j.word

/-- The queued jobs that take the same queue space as a single job of a class from a core. -/
def State.queuedLike (s : State) (cls core part : Nat) : Nat :=
  (s.jobs.filter fun j =>
    j.2.state == .queued && j.2.cls == cls && !j.2.gang &&
      if cls = 2 then j.2.part == part else cellOf j.2.core == cellOf core).length

/-- 24 shared matrix entries, 16 entries of a copy port, 16 selection jobs of a partition. -/
def queueCapacity (cls : Nat) : Nat := if cls = 0 then 24 else 16

def State.jobQueueFull (s : State) (cls core part : Nat) : Bool :=
  decide (queueCapacity cls ≤ s.queuedLike cls core part)

/-- A register holds a pending token. -/
def Thread.setPending (t : Thread) (d n : Nat) : Thread :=
  if d = 0 then t
  else { t with tok := t.tok.insert d (.pending n), dirty := t.dirty ||| BitVec.ofNat 65 (2 ^ d) }

/-- The member of a job that a context's thread becomes. -/
def Thread.member (t : Thread) (ctx d : Nat) : Member := ⟨ctx, t.tid, d, t.sclA, t.done + 1⟩

/-- A job with the registers it takes of a thread at its acceptance (R155) and its key (R138). -/
def Thread.newJob (t : Thread) (core : Nat) (word : CmdWord) (gang : Bool) (members : List Member) (mask : BitVec 8) :
    Job :=
  { word, gang, members, core, launch := t.launch, part := t.part, asid := t.asid, lev := t.lev,
    key := Machine.flurry t.srseed t.flurcnt, fmtA := t.fmtA, fmtB := t.fmtB, fmtC := t.fmtC, sclB := t.sclB,
    sclC := t.sclC, rmode := t.rmode, mask }

/-- A kick of a core is accepted in this V cycle (R153). -/
def State.kickedBy (s : State) (core : Nat) : State := s.setCore core { s.core core with kicked := true }

/-- R362 step 5: the executing thread's job is accepted, its key drawn, D pending; the instruction completes. -/
def State.acceptJob (s : State) (d : Nat) (w : CmdWord) : State :=
  let (n, s) := s.fresh
  let t := s.th
  let j := t.newJob s.me w false [t.member s.cur d] (BitVec.ofNat 8 (2 ^ posOf s.me))
  let s := (s.setJob n { j with cycle := s.bCycle }).kickedBy s.me
  (s.setTh (t.flurry.2.setPending d n)).retire

/-- R353: a class from 3 to 15, or a token-only word with no token, traps ILLEGAL. -/
def commandIllegal (w : CmdWord) (d : Nat) : Bool := decide (3 ≤ w.cls ∨ (w.mode = 0 ∧ d = 0))

/-- A full queue: the completion word of JOB.nb (R80). -/
def queueFullWord : Word := w64 (field 0xFE 56)

/-- JOB and JOBM (R362): `edit` is JOBM's change of the word. -/
def State.kick (s : State) (d : Nat) (addr : Word) (nb : Bool) (edit : CmdWord → CmdWord) : State :=
  s.withCommand addr fun s w0 =>
    let w := edit w0
    if commandIllegal w d then s.illegal
    else (s.latched w0.words).whenReleased true fun s =>
      if s.jobQueueFull w.cls s.me s.th.part then
        if nb then s.finishS d queueFullWord else s.sleep (.jobQueue w.cls)
      else s.acceptJob d w

def execJob (d a : BitVec 5) (n : BitVec 1) (s : State) : Out :=
  .next <| s.withRegs [d.toNat, a.toNat] [d.toNat] fun s => s.kick d.toNat (s.th.S a.toNat) (n == 1) id

def execJobm (d a b : BitVec 5) (n : BitVec 1) (s : State) : Out :=
  .next <| s.withRegs [d.toNat, a.toNat, b.toNat] [d.toNat] fun s =>
    s.kick d.toNat (s.th.S a.toNat) (n == 1) fun w => CmdWord.withAddress w (s.th.S b.toNat)

/-- JOBTEST reads a token register's state and nothing else (R364). -/
def execJobtest (d a : BitVec 5) (s : State) : Out :=
  .next <| s.checked (.jobtest d a) fun s =>
    s.withRegs [] [d.toNat] fun s =>
      s.finishS d.toNat (if s.th.pending a.toNat then w64 (field 0xFF 56) else s.th.S a.toNat)

/-- QUEUE_ENTRY_FREED: a context stalled on a queue that has space again executes its JOB again (R154). -/
def State.queueFreed (s : State) (ctx : Nat) : Bool :=
  match (s.thAt ctx).wait with
  | .jobQueue cls => !s.jobQueueFull cls (coreOfCtx ctx) (s.thAt ctx).part
  | _ => false

def execQueueEntryFreed (ctx : Nat) (s : State) : Out :=
  .next <| if s.queueFreed ctx then s.setThAt ctx { s.thAt ctx with wait := .ready } else s

/-! ## Completion (R81-R85, R143, R156, R169) -/

/-- The completion word (R81). -/
def Job.completion (j : Job) : Word := w64 (field j.status.toNat 56 + j.delivered % 2 ^ 48)

def Job.failed (j : Job) : Bool := decide (1 ≤ j.status.toNat ∧ j.status.toNat ≤ 6)

/-- What a completion gives one member's thread: the flags, and the token or the record of a failure. -/
def Thread.takeCompletion (t : Thread) (n : Nat) (j : Job) (m : Member) : Thread :=
  let t := t.orFlags j.flags
  if m.d = 0 then
    if j.failed then t.addRecord (sfrqRecord 3 7 j.faultAddr) m.posted else t
  else
    match t.token m.d with
    | .pending k =>
      if k = n then
        let t := t.setS m.d j.completion
        { t with tok := t.tok.insert m.d (.done j.faultAddr) }
      else t
    | _ => t

/-- Is a thread on a context, queued, swapped or under way? -/
def State.threadLives (s : State) (part tid : Nat) : Bool :=
  let inEntry (e : RunEntry) : Bool := e.entry.isTids part [tid]
  let inMsg (m : Msg) : Bool := match m.thread with
    | some t => t.part == part && t.tid == tid
    | none => false
  (s.ctxOfTid part tid).isSome || s.mesh.any inMsg || (s.outbox.any fun x => x.message?.any inMsg) ||
    (s.cores.any fun c => c.2.runq.any inEntry || c.2.backlog.any inEntry || c.2.mail.any inMsg) ||
    (s.ctxs.any fun c => match c.2.mode with
      | .starting m => inMsg m
      | _ => false) ||
    s.images.any fun i =>
      (i.2.threads.any fun t => t.2.part == part && t.2.tid == tid) || (i.2.queued.any fun e => inEntry e.2) ||
        i.2.captured.any inMsg

/-- A job's completion reaches one member's thread wherever it stands (R85). -/
def State.deliverTo (s : State) (n : Nat) (j : Job) (m : Member) : State :=
  if s.threadLives j.part m.tid then s.onThread j.part m.tid fun t => t.takeCompletion n j m
  else if m.d = 0 ∧ j.failed then s.faultRecord j.part m.tid m.ctx Cause.jobFault j.faultAddr 0
  else s

/-- The notices of a completion mode for one member (R83, R55, R156) (DEDUCED, log 84). -/
def State.notifyMember (s : State) (j : Job) (m : Member) : State :=
  let core := coreOfCtx m.ctx
  let w : CmdWord := j.word
  if w.mode = 1 then
    let mesh := s.meshOf m.ctx
    s.inject
      { id := 0, header := mkHeader 5 2 0 core true 2 w.notify,
        payload := [j.completion, w64 (mesh.toNat + field w.cls 32)], sender := mesh, part := j.part,
        launch := j.launch, origin := .engine, lev := j.lev, asid := j.asid, thread := none, at_ := core,
        entered := false, taker := none, blocked := false, inPort := s.egressBlocked core 2 }
  else if w.mode = 2 ∧ w.notify ≤ 0x1FFE8 then ((s.usePort core).arriveBarrier core w.notify j.delivered).1
  else s

/-- Are the atomic ports free at which a job's completion arrives at a barrier? An engine's arrival comes after those of the
core's contexts (R101, R316). -/
def State.portsFree (s : State) (j : Job) : Bool :=
  j.tokenOnly || CmdWord.mode j.word != 2 || j.members.all fun m => !(s.core (coreOfCtx m.ctx)).portBusy

/-- A barrier offset outside the scratchpad: no arrival, and status 0x04 where nothing else failed (R319). -/
def Job.checkArrival (j : Job) : Job :=
  let w : CmdWord := j.word
  if w.mode = 2 ∧ 0x1FFE8 < w.notify ∧ j.status = 0 then { j with status := 0x04 } else j

/-- The hart ends: tokens, flags and failures, then the notices; the job leaves. -/
def State.completeJob (s : State) (n : Nat) (j : Job) : State :=
  let s := { s with jobs := s.jobs.erase n }
  let j := if j.tokenOnly then j else j.checkArrival
  let s := j.members.foldl (fun s m => s.deliverTo n j m) s
  if j.tokenOnly then s else j.members.foldl (fun s m => s.notifyMember j m) s

end Sys2Proof.Machine
end

