-- ==== Sys2Proof/Machine/Lanes.lean ====
section
/-!
DEFINITION. Sys2Proof/Machine/Lanes.lean: the lane pool of a cell (R160-R163) and VCLAIM, VSYNC, VREL and VSETVL
(R422, R423).
-/

namespace Sys2Proof.Machine

open Sys2Proof

/-- The lanes of a set of slabs. -/
def slabLanes (b : BitVec 8) : Nat := 32 * ((upFrom 0 8).filter fun h => b.getLsbD h).length

def addSlab (b : BitVec 8) (h : Nat) : BitVec 8 := b ||| BitVec.ofNat 8 (2 ^ h)
def dropSlab (b : BitVec 8) (h : Nat) : BitVec 8 := b &&& ~~~BitVec.ofNat 8 (2 ^ h)

/-- Another running thread of the cell as a renegotiation sees it: its position, request and slabs. -/
structure Claim where
  pos : Nat
  request : Nat
  slabs : BitVec 8
deriving DecidableEq, Repr

def Claim.claims (c : Claim) : Bool := c.request != 0

/-- Owed: a claimant with no lane. -/
def Claim.owed (c : Claim) : Bool := c.claims && slabLanes c.slabs == 0

/-- Below its share: a claimant with less than the smaller of its request and the fair share. -/
def Claim.short (c : Claim) (f : Nat) : Bool := c.claims && decide (slabLanes c.slabs < min c.request f)

/-- 32 × max(1, floor(8 / n)) for n claimants. -/
def fairShare (n : Nat) : Nat := 32 * max 1 (8 / n)

/-- A slab that no other thread holds and the thread itself does not. -/
def slabFree (others : List Claim) (mine : BitVec 8) (h : Nat) : Bool :=
  !mine.getLsbD h && others.all fun c => !c.slabs.getLsbD h

def owedAt (others : List Claim) (h : Nat) : Bool := others.any fun c => c.pos == h && c.owed

/-- Release the highest-numbered slabs but the home slab until the grant is within the share. -/
def shrink (home f : Nat) (mine : BitVec 8) : Nat → BitVec 8
  | 0 => mine
  | h + 1 => shrink home f (if h ≠ home ∧ f < slabLanes mine then dropSlab mine h else mine) h

/-- The taking loop over slabs `h` upward. -/
def takeSlabs (request f : Nat) (others : List Claim) : Nat → Nat → BitVec 8 → BitVec 8
  | 0, _, mine => mine
  | n + 1, h, mine =>
    if request ≤ slabLanes mine then mine
    else if f ≤ slabLanes mine ∧ others.any (fun c => c.short f) then mine
    else takeSlabs request f others n (h + 1)
      (if slabFree others mine h && !owedAt others h then addSlab mine h else mine)

/-- Renegotiate(T) (R162): the slabs of a thread at a position after it. -/
def renegotiate (pos request : Nat) (mine : BitVec 8) (others : List Claim) : BitVec 8 :=
  if request = 0 then 0
  else
    let f := fairShare (1 + (others.filter Claim.claims).length)
    let mine := (upFrom 0 8).foldl (fun m h => if h ≠ pos ∧ owedAt others h then dropSlab m h else m) mine
    let mine := if f < slabLanes mine ∧ others.any (fun c => c.short f) then shrink pos f mine 8 else mine
    let mine := if slabLanes mine < request ∧ slabFree others mine pos then addSlab mine pos else mine
    takeSlabs request f others 8 0 mine

/-- The running threads of a context's cell but its own. -/
def State.otherClaims (s : State) (ctx : Nat) : List Claim :=
  ((cellCtxs (cellOf (coreOfCtx ctx))).filter fun k => k != ctx && (s.ctx k).isRunning).map fun k =>
    ⟨posOf (coreOfCtx k), (s.thAt k).request, (s.thAt k).slabs⟩

/-- The mask bits below a grant. -/
def belowGrant (g : Nat) : BitVec 256 := BitVec.ofNat 256 (2 ^ g - 1)

/-- The dirty bits of the vector and mask registers that lose lanes to a grant. -/
def Thread.trimmed (t : Thread) : BitVec 65 :=
  let lost : List Nat := ((t.v.filter fun p => decide (t.grant ≤ p.1 % 256)).map fun p => 48 + p.1 / 256) ++
    (t.m.filter fun p => p.2 &&& belowGrant t.grant != p.2).map fun p => 32 + p.1
  lost.foldl (fun d i => d ||| BitVec.ofNat 65 (2 ^ i)) 0

/-- Lanes and mask bits at or above the grant become zero (R163). -/
def Thread.trim (t : Thread) : Thread :=
  { t with
    v := t.v.filter fun p => decide (p.1 % 256 < t.grant)
    m := t.m.mapVal fun _ x => x &&& belowGrant t.grant
    dirty := t.dirty ||| t.trimmed }

/-- A thread's slabs after a renegotiation, with VSTAT and VL as R163 gives. -/
def Thread.regrantTo (t : Thread) (slabs : BitVec 8) : Thread :=
  let g := slabLanes slabs
  let t1 := { t.srDirty with slabs, regrant := t.regrant || g != t.grant }
  (if g < t.vl then { t1 with vl := g, clip := true } else t1).trim

/-- The thread of a context renegotiates. -/
def State.renegotiate (s : State) (ctx : Nat) : State :=
  let t := s.thAt ctx
  s.setThAt ctx (t.regrantTo (Machine.renegotiate (posOf (coreOfCtx ctx)) t.request t.slabs (s.otherClaims ctx)))

/-- A request rounded up to a slab, at most the pool. -/
def laneRequest (q : Nat) : Nat := if 256 < q then 256 else roundUp q 32

def execVclaim (d a : BitVec 4) (s : State) : Out :=
  .next <| s.withRegs [a.toNat] [d.toNat] fun s =>
    let s := s.setTh { s.th.srDirty with request := laneRequest (s.th.S a.toNat).toNat }
    let s := s.renegotiate s.cur
    let s := s.setTh { s.th with vl := s.th.grant }
    s.finishS d.toNat (w64 s.th.grant)

def execVsync (d : BitVec 4) (s : State) : Out :=
  .next <| s.withRegs [] [d.toNat] fun s =>
    let s := if s.th.request = 0 then s else s.renegotiate s.cur
    s.finishS d.toNat (w64 s.th.grant)

/-- VREL: the slabs return; VSTAT.clip stays (DEDUCED, log 12). -/
def Thread.release (t : Thread) : Thread :=
  Thread.trim { t.srDirty with request := 0, slabs := 0, vl := 0, regrant := t.regrant || t.grant != 0 }

def execVrel (s : State) : Out := .next (s.setTh s.th.release).retire

def execVsetvl (d a : BitVec 4) (s : State) : Out :=
  .next <| s.withRegs [a.toNat] [d.toNat] fun s =>
    let n := min (s.th.S a.toNat).toNat s.th.grant
    (s.setTh { s.th.srDirty with vl := n }).finishS d.toNat (w64 n)

end Sys2Proof.Machine
end

