-- ==== Sys2Proof/Machine/Vector.lean ====
section
/-!
DEFINITION. Sys2Proof/Machine/Vector.lean: vector arithmetic, conversion, comparison, selection, reductions, lane
moves and masks (R415-R427, R431, R432, R434-R436, R377, R378), and ACCRD and ACCWR (R309, R310).
-/

namespace Sys2Proof.Machine

open Sys2Proof

/-! ## Shared forms -/

/-- A lane of type `f` with its result. -/
abbrev LaneOp := Thread → BitVec 32 → BitVec 32 → BitVec 32 → BitVec 32 × Thread

/-- The active elements of vD from the lanes of VA, VB and the old vD. -/
def Thread.mapLanes (t : Thread) (v a b : BitVec 5) (m : BitVec 3) (g : LaneOp) : Thread :=
  t.mapActive v.toNat (t.actives m) fun u e => g u (t.vlane a e) (t.vlane b e) (t.lane v.toNat e)

/-- A masked instruction on VA and VB. -/
def State.lanes2 (s : State) (v a b : BitVec 5) (m : BitVec 3) (g : LaneOp) : State :=
  s.vector_ false (vreads a ++ vreads b) [] fun s => (s.setTh (s.th.mapLanes v a b m g)).retire

/-- A masked instruction on VA alone. -/
def State.lanes1 (s : State) (v a : BitVec 5) (m : BitVec 3) (g : Thread → BitVec 32 → BitVec 32 × Thread) : State :=
  s.vector_ false (vreads a) [] fun s => (s.setTh (s.th.mapLanes v a 0 m fun u x _ _ => g u x)).retire

/-- An integer element from the two's-complement readings of its operands, wrapped (R150). -/
def intLane (f : Fmt) (x y : BitVec 32) (g : Int → Int → Int) : BitVec 32 :=
  laneOf f (g (signedN (elemBits f x) f.width) (signedN (elemBits f y) f.width) % 2 ^ f.width).toNat

/-- A rounded element (R417); `invalid` says that a NaN arose from operands that are none. -/
def Thread.roundLane (t : Thread) (f : Fmt) (x : Num) (invalid : Bool) : BitVec 32 × Thread :=
  let (bits, t) := (t.orFlags (flagIf invalid Flag.invalid)).round x f t.mode t.ftz
  (laneOf f bits, t)

/-- Arithmetic by type: the exact float operation and whether it is invalid, or the integer one. -/
def arithLane (f : Fmt) (fl : RMode → Num → Num → Num × Bool) (it : Int → Int → Int) : LaneOp := fun t x y _ =>
  if f.isInt then (intLane f x y it, t)
  else
    let (r, inv) := fl t.mode (t.operand f x) (t.operand f y)
    t.roundLane f r inv

/-- Is the mode RDN, which gives an exact zero sum of opposite signs its minus sign (R417)? -/
def RMode.isDown (m : RMode) : Bool := m == .rdn

def fmtT (t : BitVec 3) : Fmt := Fmt.ofType t.toNat

/-! ## VADD, VSUB, VMUL, VMAX, VMIN, VABS, VNEG (R418, R419) -/

def execVadd (v a b : BitVec 5) (m t : BitVec 3) (s : State) : Out :=
  .next <| s.checked (.vadd v a b m t) fun s =>
    s.lanes2 v a b m (arithLane (fmtT t) (fun r x y => Num.add r.isDown x y) (· + ·))

def execVsub (v a b : BitVec 5) (m t : BitVec 3) (s : State) : Out :=
  .next <| s.checked (.vsub v a b m t) fun s =>
    s.lanes2 v a b m (arithLane (fmtT t) (fun r x y => Num.add r.isDown x y.neg) (· - ·))

def execVmul (v a b : BitVec 5) (m t : BitVec 3) (s : State) : Out :=
  .next <| s.checked (.vmul v a b m t) fun s =>
    s.lanes2 v a b m (arithLane (fmtT t) (fun _ x y => Num.mul x y) (· * ·))

/-- An element's encoding after FTZ. -/
def Thread.flushed (t : Thread) (f : Fmt) (lane : BitVec 32) : Nat :=
  let x := f.decode (elemBits f lane)
  if x.isZero || !(t.operand f lane).isZero then elemBits f lane else f.zeroBits x.isNeg

/-- VMAX and VMIN on floats: the chosen operand's encoding after FTZ. -/
def pickLane (f : Fmt) (max : Bool) : LaneOp := fun t x y _ =>
  if f.isInt then (intLane f x y (fun p q => if max then (if p < q then q else p) else (if q < p then q else p)), t)
  else
    let p := t.operand f x
    let q := t.operand f y
    if p.isNan || q.isNan then (laneOf f f.nanBits, t)
    else
      let second := if max then p.ltSigned q else q.ltSigned p
      (laneOf f (t.flushed f (if second then y else x)), t)

def execVmax (v a b : BitVec 5) (m t : BitVec 3) (s : State) : Out :=
  .next <| s.checked (.vmax v a b m t) fun s => s.lanes2 v a b m (pickLane (fmtT t) true)

def execVmin (v a b : BitVec 5) (m t : BitVec 3) (s : State) : Out :=
  .next <| s.checked (.vmin v a b m t) fun s => s.lanes2 v a b m (pickLane (fmtT t) false)

/-- VABS and VNEG: the sign cleared or flipped; ZF8 has one zero (R131). -/
def signLane (f : Fmt) (flip : Bool) (t : Thread) (x : BitVec 32) : BitVec 32 × Thread :=
  if f.isInt then (intLane f x 0 (fun p _ => if flip ∨ p < 0 then -p else p), t)
  else if (t.operand f x).isNan then (laneOf f f.nanBits, t)
  else
    let b := t.flushed f x
    let top := 2 ^ (f.width - 1)
    let r := if flip then (if f = .zf8 ∧ b = 0 then 0 else (b + top) % (2 * top)) else b % top
    (laneOf f r, t)

def execVabs (v a : BitVec 5) (m t : BitVec 3) (s : State) : Out :=
  .next <| s.checked (.vabs v a m t) fun s => s.lanes1 v a m (signLane (fmtT t) false)

def execVneg (v a : BitVec 5) (m t : BitVec 3) (s : State) : Out :=
  .next <| s.checked (.vneg v a m t) fun s => s.lanes1 v a m (signLane (fmtT t) true)

/-! ## VFMA, VLDEXP (R427, R432) -/

/-- a × b + c exactly; invalid only where no operand is NaN (R142, log 13). -/
def fmaNum (down : Bool) (x y c : Num) : Num × Bool :=
  let (p, i) := x.mul y
  let (r, j) := Num.add down p c
  (r, (i || j) && !c.isNan)

def execVfma (v a b : BitVec 5) (m t : BitVec 3) (s : State) : Out :=
  .next <| s.checked (.vfma v a b m t) fun s =>
    s.lanes2 v a b m fun u x y c =>
      let f := fmtT t
      let (r, inv) := fmaNum u.mode.isDown (u.operand f x) (u.operand f y) (u.operand f c)
      u.roundLane f r inv

/-- The exponent of VLDEXP; beyond 1,000 either way every result is that of 1,000. -/
def ldexpBy (y : BitVec 32) : Int := max (-1000) (min 1000 y.toInt)

def execVldexp (v a b : BitVec 5) (m t : BitVec 3) (s : State) : Out :=
  .next <| s.checked (.vldexp v a b m t) fun s =>
    s.lanes2 v a b m fun u x y _ => u.roundLane (fmtT t) ((u.operand (fmtT t) x).scale (ldexpBy y)) false

/-! ## VCVT (R301, R425) -/

/-- A value under an E8M0 scale: an enabled code of 0xFF makes it NaN. -/
def scaled (scl : BitVec 9) (up : Bool) (x : Num) : Num :=
  let code := natBits scl.toNat 0 8
  if scl.toNat < 256 then x
  else if code = 255 then .nan
  else x.scale (if up then (code : Int) - 127 else 127 - (code : Int))

/-- The rounding mode that X names. -/
def Thread.cvtMode (t : Thread) (x : BitVec 3) : RMode :=
  if 1 ≤ x.toNat ∧ x.toNat ≤ 5 then RMode.ofCode (x.toNat - 1) else t.mode

/-- One converted element. Between equal formats the encoding stays as it is, unscaled and unrounded, but for a NaN,
an enabled scale code of 0xFF, and a subnormal under FTZ, whose flush sets underflow and inexact. -/
def cvtLane (src dst : Fmt) (x : BitVec 3) (t : Thread) (lane : BitVec 32) : BitVec 32 × Thread :=
  let raw := src.decode (elemBits src lane)
  let v := ftzOperand t.ftz src raw
  let y := scaled (if x = 6 then t.sclC else if x = 7 then t.sclA else 0) (x == 7) v
  let cvt := fun (t : Thread) (z : Num) =>
    let (bits, t) := t.round z dst (t.cvtMode x) t.ftz
    (laneOf dst bits, t)
  if src != dst || y.isNan then cvt t y
  else if v != raw then cvt (t.orFlags (Flag.underflow ||| Flag.inexact)) v
  else (laneOf dst (elemBits src lane), t)

/-- The second format of VCVT. -/
def cvtFormat (b : BitVec 5) : Fmt := (Fmt.ofCode (b.toNat % 16)).getD .fp32

def execVcvt (v a b : BitVec 5) (m t x : BitVec 3) (s : State) : Out :=
  .next <| s.checked (.vcvt v a b m t x) fun s =>
    let (src, dst) := if 16 ≤ b.toNat then (cvtFormat b, fmtT t) else (fmtT t, cvtFormat b)
    s.lanes1 v a m (cvtLane src dst x)

/-! ## VCMP, VSELM (R424, R436) -/

/-- The comparison that X names, for floats and integers. -/
def compare (x : Nat) (p q : Num) : Bool :=
  let nan := p.isNan || q.isNan
  let lt := p.lt q
  let gt := q.lt p
  match x with
  | 0 => !nan && !lt && !gt
  | 1 => nan || lt || gt
  | 2 => lt
  | 3 => !nan && !gt
  | 4 => gt
  | _ => !nan && !lt

/-- A mask from the value of each of its 256 bits. -/
def maskOf (g : Nat → Bool) : BitVec 256 :=
  BitVec.ofNat 256 ((upFrom 0 256).foldl (fun n e => if g e then n + 2 ^ e else n) 0)

def execVcmp (d : BitVec 3) (a b : BitVec 5) (m t x : BitVec 3) (s : State) : Out :=
  .next <| s.checked (.vcmp d a b m t x) fun s =>
    s.vector_ false (vreads a ++ vreads b) [] fun s =>
      let th := s.th
      let f := fmtT t
      let new := maskOf fun e =>
        if th.active m e then compare x.toNat (th.operand f (th.vlane a e)) (th.operand f (th.vlane b e))
        else decide (e < th.vl) && (th.M d.toNat).getLsbD e
      (s.setTh (th.setM d.toNat new)).retire

def execVselm (v a b : BitVec 5) (m : BitVec 3) (s : State) : Out :=
  .next <| s.checked (.vselm v a b m) fun s =>
    s.vector_ false (vreads a ++ vreads b) [] fun s =>
      let t := s.th
      let xs := (upFrom 0 t.vl).map fun e => (e, if (t.M m.toNat).getLsbD e then t.vlane a e else t.vlane b e)
      (s.setTh (t.setLanes v.toNat xs)).retire

/-! ## VREDSUM, VREDMAX (R434, R435) -/

/-- One sum of the tree: the present value, or the rounded sum with its flags. -/
def redPair : Option Num → Option Num → Option Num × BitVec 8
  | none, y => (y, 0)
  | x, none => (x, 0)
  | some x, some y =>
    let (r, inv) := Num.add false x y
    let z := roundTo r .fp32 .rne false 0
    (some (Fmt.fp32.decode z.bits), z.flags ||| flagIf inv Flag.invalid)

/-- One level of the tree. -/
def redLevel : List (Option Num) → List (Option Num) × BitVec 8
  | x :: y :: rest =>
    let (z, f) := redPair x y
    let (zs, g) := redLevel rest
    (z :: zs, f ||| g)
  | xs => (xs, 0)

/-- Levels of the tree, with the flags ORed. -/
def redTree : Nat → List (Option Num) → Option Num × BitVec 8
  | 0, xs => (xs.head?.join, 0)
  | n + 1, xs =>
    let (ys, f) := redLevel xs
    let (r, g) := redTree n ys
    (r, f ||| g)

/-- The result of a reduction: S[VD - 16], or element 0 of vD. -/
def State.finishRed (s : State) (v : BitVec 5) (lane : BitVec 32) : State :=
  if 16 ≤ v.toNat then s.finishS (v.toNat - 16) (lane.setWidth 64)
  else (s.setTh (s.th.setLane v.toNat 0 lane)).retire

/-- The scalar that a VD of 16 or more names. -/
def vwrites (v : BitVec 5) : List Nat := if 16 ≤ v.toNat then [v.toNat - 16] else []

def execVredsum (v a : BitVec 5) (m t : BitVec 3) (s : State) : Out :=
  .next <| s.checked (.vredsum v a m t) fun s =>
    s.vector_ false (vreads a) (vwrites v) fun s =>
      let th := s.th
      let f := fmtT t
      let xs := (upFrom 0 256).map fun e => if th.active m e then some (th.operand f (th.vlane a e)) else none
      let (r, flags) := redTree 8 xs
      let (lane, th) := (th.orFlags flags).roundLane f (r.getD .zero) false
      (s.setTh th).finishRed v lane

/-- VREDMAX of no element. -/
def redmaxNone (f : Fmt) : Nat :=
  match f with
  | .e4m3 => f.maxBits true
  | .zf8 => 0xFF
  | f => f.infBits true

def execVredmax (v a : BitVec 5) (m t : BitVec 3) (s : State) : Out :=
  .next <| s.checked (.vredmax v a m t) fun s =>
    s.vector_ false (vreads a) (vwrites v) fun s =>
      let th := s.th
      let f := fmtT t
      let lanes := (th.actives m).map (th.vlane a)
      let bits :=
        if lanes.any fun x => (th.operand f x).isNan then f.nanBits
        else match lanes with
        | [] => redmaxNone f
        | x :: rest =>
          th.flushed f (rest.foldl (fun best y => if (th.operand f best).ltSigned (th.operand f y) then y else best) x)
      s.finishRed v (laneOf f bits)

/-! ## Special functions (R148, R426) -/

/-- One element: the function of its FP32 value, then RoundTo to its type. -/
def sfuLane (fn : Config.Sfu) (f : Fmt) (t : Thread) (lane : BitVec 32) : BitVec 32 × Thread :=
  let x := t.operand f lane
  let (bits, flags) := sfuResult fn t.ftz x (roundTo x .fp32 .rne false 0).bits t.rmode
  (t.orFlags flags).roundLane f (Fmt.fp32.decode bits) false

def execVexp2 (v a : BitVec 5) (m t : BitVec 3) (s : State) : Out :=
  .next <| s.checked (.vexp2 v a m t) fun s => s.lanes1 v a m (sfuLane .exp2 (fmtT t))

def execVlog2 (v a : BitVec 5) (m t : BitVec 3) (s : State) : Out :=
  .next <| s.checked (.vlog2 v a m t) fun s => s.lanes1 v a m (sfuLane .log2 (fmtT t))

def execVrcp (v a : BitVec 5) (m t : BitVec 3) (s : State) : Out :=
  .next <| s.checked (.vrcp v a m t) fun s => s.lanes1 v a m (sfuLane .rcp (fmtT t))

def execVrsq (v a : BitVec 5) (m t : BitVec 3) (s : State) : Out :=
  .next <| s.checked (.vrsq v a m t) fun s => s.lanes1 v a m (sfuLane .rsq (fmtT t))

def execVtanh (v a : BitVec 5) (m t : BitVec 3) (s : State) : Out :=
  .next <| s.checked (.vtanh v a m t) fun s => s.lanes1 v a m (sfuLane .tanh (fmtT t))

/-! ## Lane moves (R421) -/

def execVbcast (v : BitVec 4) (a : BitVec 5) (b : BitVec 4) (m : BitVec 3) (s : State) : Out :=
  .next <| s.vector_ false (vreads a ++ [b.toNat]) [] fun s =>
    let t := s.th
    let i := (t.S b.toNat).toNat
    if t.grant ≤ i then s.illegal
    else (s.setTh (t.setLanes v.toNat ((t.actives m).map fun e => (e, t.vlane a i)))).retire

def execVext (d a b : BitVec 4) (s : State) : Out :=
  .next <| s.vector_ true [b.toNat] [d.toNat] fun s =>
    let i := (s.th.S b.toNat).toNat
    if s.th.grant ≤ i then s.illegal else s.finishS d.toNat ((s.th.lane a.toNat i).setWidth 64)

def execVins (v a b : BitVec 4) (s : State) : Out :=
  .next <| s.vector_ true [a.toNat, b.toNat] [] fun s =>
    let i := (s.th.S b.toNat).toNat
    if s.th.grant ≤ i then s.illegal
    else (s.setTh (s.th.setLane v.toNat i ((s.th.S a.toNat).setWidth 32))).retire

def execVperm (v a b : BitVec 4) (m : BitVec 3) (s : State) : Out :=
  .next <| s.vector_ false [] [] fun s =>
    let t := s.th
    let xs := (t.actives m).map fun e => (e, t.lane a.toNat ((t.lane b.toNat e).toNat % 256))
    (s.setTh (t.setLanes v.toNat xs)).retire

/-! ## Integer lanes (R420, R431) -/

/-- A bitwise or shift operation on the lane bits of an integer type. -/
def bitLane (f : Fmt) (g : Nat → Nat → Nat) : LaneOp := fun t x y _ =>
  (laneOf f (g (elemBits f x) (elemBits f y) % 2 ^ f.width), t)

def execVand (v a b : BitVec 5) (m t : BitVec 3) (s : State) : Out :=
  .next <| s.checked (.vand v a b m t) fun s => s.lanes2 v a b m (bitLane (fmtT t) (· &&& ·))

def execVor (v a b : BitVec 5) (m t : BitVec 3) (s : State) : Out :=
  .next <| s.checked (.vor v a b m t) fun s => s.lanes2 v a b m (bitLane (fmtT t) (· ||| ·))

def execVxor (v a b : BitVec 5) (m t : BitVec 3) (s : State) : Out :=
  .next <| s.checked (.vxor v a b m t) fun s => s.lanes2 v a b m (bitLane (fmtT t) (· ^^^ ·))

/-- The shift amount: b[4:0] for INT32, b[2:0] for INT8. -/
def laneShift (f : Fmt) (b : Nat) : Nat := b % f.width

def execVshl (v a b : BitVec 5) (m t : BitVec 3) (s : State) : Out :=
  .next <| s.checked (.vshl v a b m t) fun s =>
    s.lanes2 v a b m (bitLane (fmtT t) fun x y => x * 2 ^ laneShift (fmtT t) y)

/-- VSHR: X selects the logical or the arithmetic shift. -/
def execVshr (v a b : BitVec 5) (m t : BitVec 3) (x : BitVec 1) (s : State) : Out :=
  .next <| s.checked (.vshr v a b m t x) fun s =>
    let f := fmtT t
    s.lanes2 v a b m (bitLane f fun p q =>
      if x = 0 then p / 2 ^ laneShift f q
      else (signedN p f.width / 2 ^ laneShift f q % 2 ^ f.width).toNat)

def execViota (v : BitVec 5) (m t : BitVec 3) (s : State) : Out :=
  .next <| s.checked (.viota v m t) fun s =>
    s.vector_ false [] [] fun s =>
      let es := s.th.actives m
      (s.setTh (s.th.setLanes v.toNat ((es.zip (upFrom 0 es.length)).map fun p => (p.1, laneOf (fmtT t) p.2)))).retire

/-! ## Masks (R300, R377, R378) -/

/-- The function that X names. -/
def maskFn (x : Nat) (a b : Bool) : Bool :=
  match x with
  | 0 => a && b
  | 1 => a || b
  | 2 => a != b
  | 3 => a && !b
  | 4 => !a
  | 5 => true
  | _ => false

/-- MOPS; at vl = 0 the mask becomes zero (its entry, log 14). -/
def execMops (d a b : BitVec 3) (x : BitVec 3) (s : State) : Out :=
  .next <| s.checked (.mops d a b x) fun s =>
    s.vector_ true [] [] fun s =>
      let t := s.th
      let new := maskOf fun e =>
        decide (e < t.vl) && maskFn x.toNat ((t.M a.toNat).getLsbD e) ((t.M b.toNat).getLsbD e)
      (s.setTh (t.setM d.toNat new)).retire

/-- MPOP: the count, or the least such element. -/
def execMpop (d : BitVec 4) (a m x : BitVec 3) (s : State) : Out :=
  .next <| s.checked (.mpop d a m x) fun s =>
    s.vector_ true [] [d.toNat] fun s =>
      let t := s.th
      let es := (t.actives m).filter fun e => (t.M a.toNat).getLsbD e
      s.finishS d.toNat (w64 (if x = 0 then es.length else es.headD t.vl))

/-! ## Accumulators (R151, R152, R309, R310) -/

/-- The number of an element of an accumulator. -/
def accIndex (n r c : Nat) : Nat := n * 4096 + r * 64 + c

def Core.accAt (c : Core) (n r col : Nat) : BitVec 32 := c.acc.get 0 (accIndex n r col)

def Core.setAcc (c : Core) (n r col : Nat) (x : BitVec 32) : Core :=
  { c with acc := c.acc.insert (accIndex n r col) x, accDirty := c.accDirty ||| BitVec.ofNat 2 (2 ^ n) }

/-- Does a job use the slice of a core? -/
def Job.usesSlice (j : Job) (core : Nat) : Bool :=
  j.cls == 0 && cellOf j.core == cellOf core && j.mask.getLsbD (posOf core)

/-- An incomplete job on a core's slice accepted before a number. -/
def State.sliceBusy (s : State) (core upTo : Nat) : Bool :=
  s.jobs.any fun j => decide (j.1 < upTo) && j.2.usesSlice core

/-- The preamble of ACCRD and ACCWR: NOLANES, the row group, and the wait for the slice's earlier jobs. -/
def State.accInstr (s : State) (q : BitVec 4) (body : State → Nat → State) : State :=
  s.vector_ true [q.toNat] [] fun s =>
    let g := (s.th.S q.toNat).toNat
    if 15 < g then s.illegal
    else
      let upTo := match s.th.wait with
        | .slice n => n
        | _ => s.nextId
      if s.sliceBusy s.me upTo then s.sleep (.slice upTo) else (body s g).retire

def execAccrd (v : BitVec 4) (n : BitVec 1) (q : BitVec 4) (m : BitVec 3) (s : State) : Out :=
  .next <| s.accInstr q fun s g =>
    let c := s.core s.me
    s.setTh (s.th.setLanes v.toNat ((s.th.actives m).map fun e => (e, c.accAt n.toNat (4 * g + e / 64) (e % 64))))

def execAccwr (n : BitVec 1) (a q : BitVec 4) (m : BitVec 3) (s : State) : Out :=
  .next <| s.accInstr q fun s g =>
    let t := s.th
    s.setCore s.me ((t.actives m).foldl (fun c e => c.setAcc n.toNat (4 * g + e / 64) (e % 64) (t.lane a.toNat e))
      (s.core s.me))

end Sys2Proof.Machine
end

