-- ==== Sys2Proof/Machine/VecMem.lean ====
section
/-!
DEFINITION. Sys2Proof/Machine/VecMem.lean: the vector memory forms (R428-R430) and VLDT (R166, R433).
-/

namespace Sys2Proof.Machine

open Sys2Proof

/-- One element access: the vector register and lane it moves, and its address. -/
structure ElemAcc where
  reg  : Nat
  lane : Nat
  addr : Word
deriving DecidableEq, Repr

/-- R429: the checks of one element address: its place, or the cause of the trap. -/
def State.elemPlace (s : State) (acc : Acc) (n : Nat) (addr : Word) : Except (BitVec 8) Place :=
  let fault := if acc = .write then Cause.storeFault else Cause.loadFault
  if addr.toNat % n ≠ 0 then .error Cause.misalign
  else match s.resolve (s.th.issuer s.me) addr acc with
  | .error _ => .error fault
  | .ok p =>
    match p with
    | .bulk .control _ => .error fault
    | .spad c _ _ =>
      if acc = .read ∧ clusterOf c ≠ clusterOf s.me then .error Cause.migrateBlocked
      else if acc = .read ∧ s.unreachable p then .error fault
      else .ok p
    | p => if acc = .read ∧ s.unreachable p then .error fault else .ok p

/-- Every address is checked, in order, before any access: the first failure traps. -/
def State.elemPlaces (s : State) (acc : Acc) (n : Nat) : List ElemAcc → Except (BitVec 8 × Word) (List (ElemAcc × Place))
  | [] => .ok []
  | a :: rest =>
    match s.elemPlace acc n a.addr with
    | .error c => .error (c, a.addr)
    | .ok p =>
      match s.elemPlaces acc n rest with
      | .error e => .error e
      | .ok ps => .ok ((a, p) :: ps)

/-- The element loads, in order, through the remote read cache. -/
def State.elemLoads (s : State) (f : Fmt) : List (ElemAcc × Place) → List (ElemAcc × BitVec 32) × State
  | [] => ([], s)
  | (a, p) :: rest =>
    let (v, s) := s.readRoute (s.loadRoute p) f.bytes
    let (vs, s) := s.elemLoads f rest
    ((a, laneOf f v) :: vs, s)

/-- A vector load of type `f`. -/
def State.vecLoad (s : State) (f : Fmt) (es : List ElemAcc) : State :=
  match s.elemPlaces .read f.bytes es with
  | .error (c, addr) => s.trap c addr
  | .ok ps =>
    match ps.find? fun p => s.routeWaits (s.loadRoute p.2) f.bytes with
    | some p => s.sleep (.line (s.loadRoute p.2).key)
    | none => match ps.findSome? fun p => s.busyBank p.2 with
    | some b => s.sleep (.bank b)
    | none => match ps.find? fun p => (s.routeError (s.loadRoute p.2) f.bytes).isSome with
    | some p => s.trap Cause.mchk p.1.addr
    | none =>
      let (vs, s) := s.elemLoads f ps
      (s.setTh (vs.foldl (fun t v => t.setLane v.1.reg v.1.lane v.2) s.th)).retire

/-- A vector store of type `f`: each element is one posted store. -/
def State.vecStore (s : State) (f : Fmt) (es : List ElemAcc) : State :=
  match s.elemPlaces .write f.bytes es with
  | .error (c, addr) => s.trap c addr
  | .ok ps =>
    match ps.find? fun p => s.aliasWaits p.2 f.bytes with
    | some p => s.sleep (.line (s.keyOf s.th.part p.2))
    | none => (ps.foldl (fun s p =>
        s.storeAt p.2 p.1.addr (leBytes f.bytes (s.th.lane p.1.reg p.1.lane).toNat) none) s).retire

/-! ## Addresses (R281, R428) -/

/-- S[A] + 64 × X. -/
def Thread.vbase (t : Thread) (a : BitVec 5) (x : BitVec 3) : Word := t.S a.toNat + w64 (64 * x.toNat)

/-- The accesses of the active elements, with the byte offset of each. -/
def Thread.elems (t : Thread) (v : BitVec 5) (a : BitVec 5) (m x : BitVec 3) (off : Nat → Word) : List ElemAcc :=
  (t.actives m).map fun e => ⟨v.toNat, e, t.vbase a x + off e⟩

def Thread.unitElems (t : Thread) (v a : BitVec 5) (m x : BitVec 3) (n : Nat) : List ElemAcc :=
  t.elems v a m x fun e => w64 (e * n)

def Thread.strideElems (t : Thread) (v a b : BitVec 5) (m x : BitVec 3) : List ElemAcc :=
  t.elems v a m x fun e => w64 e * t.S b.toNat

def Thread.indexElems (t : Thread) (v a : BitVec 5) (b : BitVec 4) (m x : BitVec 3) : List ElemAcc :=
  t.elems v a m x fun e => (t.lane b.toNat e).signExtend 64

/-! ## The forms -/

def execVld (v a : BitVec 5) (m t x : BitVec 3) (s : State) : Out :=
  .next <| s.checked (.vld v a m t x) fun s =>
    s.vector_ false [a.toNat] [] fun s => s.vecLoad (fmtT t) (s.th.unitElems v a m x (fmtT t).bytes)

def execVlds (v a b : BitVec 5) (m t x : BitVec 3) (s : State) : Out :=
  .next <| s.checked (.vlds v a b m t x) fun s =>
    s.vector_ false [a.toNat, b.toNat] [] fun s => s.vecLoad (fmtT t) (s.th.strideElems v a b m x)

def execVgath (v a : BitVec 5) (b : BitVec 4) (m t x : BitVec 3) (s : State) : Out :=
  .next <| s.checked (.vgath v a b m t x) fun s =>
    s.vector_ false [a.toNat] [] fun s => s.vecLoad (fmtT t) (s.th.indexElems v a b m x)

def execVst (v a : BitVec 5) (m t x : BitVec 3) (s : State) : Out :=
  .next <| s.checked (.vst v a m t x) fun s =>
    s.vector_ false [a.toNat] [] fun s => s.vecStore (fmtT t) (s.th.unitElems v a m x (fmtT t).bytes)

def execVsts (v a b : BitVec 5) (m t x : BitVec 3) (s : State) : Out :=
  .next <| s.checked (.vsts v a b m t x) fun s =>
    s.vector_ false [a.toNat, b.toNat] [] fun s => s.vecStore (fmtT t) (s.th.strideElems v a b m x)

def execVscat (v a : BitVec 5) (b : BitVec 4) (m t x : BitVec 3) (s : State) : Out :=
  .next <| s.checked (.vscat v a b m t x) fun s =>
    s.vector_ false [a.toNat] [] fun s => s.vecStore (fmtT t) (s.th.indexElems v a b m x)

/-- The tile of VLDT: the eight addresses of each active row; V[D + c][r] takes element (r, c). -/
def Thread.tileElems (t : Thread) (d : Nat) (a b : BitVec 5) (m x : BitVec 3) (n : Nat) : List ElemAcc :=
  (t.actives m).flatMap fun r =>
    (upFrom 0 8).map fun c => ⟨d + c, r, t.vbase a x + w64 r * t.S b.toNat + w64 (c * n)⟩

/-- VLDT: the VD field's top bit names v0 or v8. -/
def execVldt (v : BitVec 1) (a b : BitVec 5) (m t x : BitVec 3) (s : State) : Out :=
  .next <| s.vector_ false [a.toNat, b.toNat] [] fun s =>
    s.vecLoad (fmtT t) (s.th.tileElems (8 * v.toNat) a b m x (fmtT t).bytes)

end Sys2Proof.Machine
end

