-- ==== Sys2Proof/Machine/Wired.lean ====
section
/-!
DEFINITION. Sys2Proof/Machine/Wired.lean: the wired barrier of a cell and its three operations, the wired GBAR, VXALL
and GISSUE (R43, R44, R165, R350, R354, R437), and TSWAP (R167, R414).
-/

namespace Sys2Proof.Machine

open Sys2Proof

/-! ## The wired barrier (R43) -/

/-- The arrival that a context's wait is. -/
def Thread.arrival (t : Thread) : Option (WKind × BitVec 8) :=
  match t.wait with
  | .wired k m => some (k, m)
  | _ => none

/-- The context of a core that holds its position's arrival. -/
def State.arrivalOf (s : State) (core : Nat) : Option Nat :=
  (userCtxs core).find? fun k => (s.ctx k).isRunning && (s.thAt k).arrival.isSome

/-- The cores of a cell at the positions of a mask. -/
def maskCores (cell : Nat) (m : BitVec 8) : List Nat := (cellCores cell).filter fun c => m.getLsbD (posOf c)

/-- The contexts of a full set: every position of the mask holds an arrival. -/
def State.wiredSet (s : State) (cell : Nat) (m : BitVec 8) : Option (List Nat) :=
  let cs := maskCores cell m
  let found := cs.filterMap s.arrivalOf
  if found.length = cs.length ∧ !cs.isEmpty then some found else none

/-- Do two arrivals match: the same kind and mask, and for GISSUE the same command word? -/
def arrivalsMatch (a b : WKind × BitVec 8) : Bool :=
  a.2 == b.2 && match a.1, b.1 with
  | .gissue w _, .gissue x _ => w == x
  | .gbar, .gbar => true
  | .vxall _ _ _, .vxall _ _ _ => true
  | _, _ => false

/-! ## What a complete set does -/

/-- The members of a VXALL in rank order: context, vD, vA, vl. -/
def State.vxallMembers (s : State) (ctxs : List Nat) : List (Nat × Nat × Nat × Nat) :=
  ctxs.filterMap fun k => match (s.thAt k).wait with
    | .wired (.vxall vd va vl) _ => some (k, vd, va, vl)
    | _ => none

/-- R165: element q × n + e of the member of rank `j` is element j × n + e of the member of rank q; the rest below the
grant become zero. -/
def State.vxallLanes (s : State) (ms : List (Nat × Nat × Nat × Nat)) (n j : Nat) (t : Thread) : List (Nat × BitVec 32) :=
  (upFrom 0 t.grant).map fun i =>
    if i < ms.length * n then
      match ms[i / n]? with
      | some (k, _, va, _) => (i, (s.thAt k).lane va (j * n + i % n))
      | none => (i, 0)
    else (i, 0)

/-- Every member reads vA before any writes vD. -/
def State.vxallDone (s : State) (ctxs : List Nat) : State :=
  let ms := s.vxallMembers ctxs
  let n := (ms.map fun m => m.2.2.2 / ms.length).foldl min 256
  (ms.zip (upFrom 0 ms.length)).foldl (fun r p =>
    let t := s.thAt p.1.1
    r.retireAt p.1.1 (t.setLanes p.1.2.1 (s.vxallLanes ms n p.2 t))) s

/-- R354 step 5: the gang job is accepted into every member's reserved entry; the lowest member gives its registers
and key, every member draws, D becomes pending, and each goes on. -/
def State.gissueDone (s : State) (ctxs : List Nat) (w : CmdWord) (mask : BitVec 8) : State :=
  match ctxs with
  | [] => s
  | lead :: _ =>
    let d (k : Nat) : Nat := match (s.thAt k).wait with
      | .wired (.gissue _ d) _ => d
      | _ => 0
    let (n, s) := s.fresh
    let members := ctxs.map fun k => (s.thAt k).member k (d k)
    let s := (s.setJob n ((s.thAt lead).newJob (coreOfCtx lead) w true members mask)).kickedBy s.me
    ctxs.foldl (fun s k => s.retireAt k ((s.thAt k).flurry.2.setPending (d k) n)) s

/-- The set of a mask, where it is full: it completes together, or every arrival in it traps ILLEGAL. -/
def State.joinSet (s : State) (cell : Nat) (kind : WKind) (m : BitVec 8) : State :=
  match s.wiredSet cell m with
  | none => s
  | some ctxs =>
    if ctxs.all fun k => match (s.thAt k).arrival with
      | some a => arrivalsMatch a (kind, m)
      | none => false
    then match kind with
      | .gbar => ctxs.foldl (fun s k => s.retireAt k (s.thAt k)) s
      | .vxall _ _ _ => s.vxallDone ctxs
      | .gissue w _ => s.gissueDone ctxs w m
    else ctxs.foldl (fun s k => s.trapAt k Cause.illegal 0) s

/-- The other arrivals of a cell, whose sets a new arrival may have filled. -/
def State.joinOthers (s : State) (cell : Nat) : State :=
  (cellCores cell).foldl (fun s c =>
    match s.arrivalOf c with
    | none => s
    | some k => match (s.thAt k).arrival with
      | some (kind, m) => s.joinSet cell kind m
      | none => s) s

/-- The executing context makes its arrival: its own set is compared first, then the sets that the arrival fills
(DEDUCED, log 53). -/
def State.arriveWired (s : State) (kind : WKind) : State :=
  let m := s.th.cellmask
  let cell := cellOf s.me
  if !m.getLsbD (posOf s.me) then s.illegal
  else if (s.arrivalOf s.me).isSome then s.sleep .wiredBusy
  else ((s.sleep (.wired kind m)).joinSet cell kind m).joinOthers cell

/-- GBAR, the wired form (R350). -/
def execGbarWired (s : State) : Out := .next (s.arriveWired .gbar)

/-- VXALL: its local checks, then the arrival (R165, R437). -/
def execVxall (v a : BitVec 4) (s : State) : Out :=
  .next <| s.vector_ true [] [] fun s =>
    let p := countOnes (s.th.cellmask.setWidth 64) 8
    if p ≠ 0 ∧ s.th.vl % p ≠ 0 then s.illegal else s.arriveWired (.vxall v.toNat a.toNat s.th.vl)

/-- Is a core's reserved entry held by a gang job that has not begun (R154)? -/
def State.reservedHeld (s : State) (core : Nat) : Bool :=
  s.jobs.any fun j => j.2.gang && j.2.state == .queued && j.2.usesSlice core

/-- GISSUE (R354). -/
def execGissue (d a : BitVec 5) (s : State) : Out :=
  .next <| s.withRegs [a.toNat] [d.toNat] fun s =>
    s.withCommand (s.th.S a.toNat) fun s w =>
      if commandIllegal w d.toNat ∨ w.cls ≠ 0 then s.illegal
      else
        let s := s.latched w.words
        if s.reservedHeld s.me then s.sleep .reserved
        else s.whenReleased true fun s => s.arriveWired (.gissue w d.toNat)

/-! ## TSWAP -/

/-- The mirror of a core: (die, j, i) for (die, i, j). -/
def mirrorCore (core : Nat) : Nat := coreAt (dieOf core) (colOf core) (rowOf core)

/-- The context of a core that holds its TSWAP, with off and len. -/
def State.tswapOf (s : State) (core : Nat) : Option (Nat × Nat × Nat) :=
  (userCtxs core).findSome? fun k =>
    if (s.ctx k).isRunning then
      match (s.thAt k).wait with
      | .tswap off len => some (k, off, len)
      | _ => none
    else none

/-- Both sides read their regions, then each writes the other's bytes through its own alias. -/
def State.swapRegions (s : State) (c d off len : Nat) : State :=
  let mine := Memory.readBytes s.mem (spadKey c off) len
  let theirs := Memory.readBytes s.mem (spadKey d off) len
  (s.land (spadKey c off) theirs).land (spadKey d off) mine

/-- The first bad granule of a region of a core's scratchpad. -/
def State.regionError (s : State) (core off len : Nat) : Option Nat := s.badGranule? (spadKey core off) len

/-- A TSWAP meets its mirror's: the two must agree, and each side reads its own region. A side whose read meets an
uncorrectable error traps MCHK, and the other keeps waiting (DESIGN CHOICE, log 15). -/
def State.meetTswap (s : State) (k off len off' len' : Nat) : State :=
  let c := s.me
  let d := coreOfCtx k
  if off ≠ off' ∨ len ≠ len' then (s.trapAt k Cause.illegal 0).illegal
  else match s.regionError c off len, s.regionError d off len with
  | some g, _ => s.trap Cause.mchk (w64 g)
  | none, some g => (s.trapAt k Cause.mchk (w64 g)).sleep (.tswap off len)
  | none, none => ((s.swapRegions c d off len).retireAt k (s.thAt k)).retire

/-- TSWAP (R167): the checks in order, then the rendezvous. Its alias accesses wait for the thread's own ordered
stores to the region. -/
def execTswap (a b : BitVec 5) (s : State) : Out :=
  .next <| s.withRegs [a.toNat, b.toNat] [] fun s =>
    let off := (s.th.S a.toNat).toNat
    let len := (s.th.S b.toNat).toNat
    let d := mirrorCore s.me
    if off % 64 ≠ 0 ∨ len % 64 ≠ 0 ∨ len < 64 ∨ 65536 < len ∨ 0x20000 < off + len then s.illegal
    else if !s.hasCore s.th.part d then s.trap Cause.storeFault (w64 (spadKey d off))
    else if d = s.me then s.retire
    else if s.storePending true (spadKey s.me off) len then s.sleep (.line (spadKey s.me off))
    else if (s.tswapOf s.me).isSome then s.sleep .tswapBusy
    else match s.tswapOf d with
    | none => s.sleep (.tswap off len)
    | some (k, off', len') => s.meetTswap k off len off' len'

end Sys2Proof.Machine
end

