-- ==== Sys2Proof/Machine/Wake.lean ====
section
/-!
DEFINITION. Sys2Proof/Machine/Wake.lean: when a wait is over, when a context is ready (R24), which waits a trap or a
kill interrupts (R29, R239), and YIELD (R444).
-/

namespace Sys2Proof.Machine

open Sys2Proof

/-- Is a context's wait over, so that its instruction executes again? A wait that an event ends names none here. -/
def State.waitOver (s : State) (ctx : Nat) : Bool :=
  let t := s.thAt ctx
  let core := coreOfCtx ctx
  match t.wait with
  | .ready => true
  | .token r => !t.pending r
  | .queueRead q _ _ => !((s.core core).queue q).isEmpty
  | .queueWrite q _ _ => decide (((s.core core).queue q).length < queueDepth q)
  | .wfeHit _ => true
  | .clk g => decide (g.toNat < (s.part t.part).clkgen.toNat)
  | .stores sys => !s.unackedAt ctx sys
  | .finStores => !s.unackedAt ctx true
  | .settle => !s.unsettled ctx
  | .line _ => !(s.stores.any fun p => coreOfCtx p.ctx == core && p.peer.isNone)
  | .bank b => !s.refreshing b
  | .port c => !(s.core c).portBusy
  | .barrierHit => true
  | .joinHit _ => true
  | .wiredBusy => (s.arrivalOf core).isNone
  | .tswapBusy => (s.tswapOf core).isNone
  | .reserved => !s.reservedHeld core
  | .gkill _ _ left => left.isEmpty
  | .egress p => !s.egressBlocked core p || (ctx % 4 == 3 && s.stopAt core)
  | .slice n => !s.sliceBusy core n
  | .yielded others left => others.isEmpty || left == 0
  | .tlbgen _ asid g => !s.generationPending asid g
  | .gendrain pk asid g =>
    !s.olderAccess (if pk then none else some (clusterOf core)) (BitVec.ofNat 16 asid) g
  | _ => false

/-- Is a context's launch being stopped (R247)? -/
def State.stopped (s : State) (ctx : Nat) : Bool :=
  ctx % 4 != 3 && s.stopping (s.thAt ctx).launch

/-- A wait in which nothing of the instruction has taken effect: a trap or a stop may fall in it (DEDUCED, log 52). -/
def Wait.interruptible : Wait → Bool
  | .ready => true
  | .token _ => true
  | .queueRead _ _ _ => true
  | .queueWrite _ _ _ => true
  | .barrier _ _ => true
  | .barrierHit => true
  | .join _ => true
  | .joinHit _ => true
  | .wfe _ => true
  | .wfeHit _ => true
  | .clk _ => true
  | .stores _ => true
  | .finStores => true
  | .bank _ => true
  | .port _ => true
  | .settle => true
  | .wired _ _ => true
  | .wiredBusy => true
  | .reserved => true
  | .groupBar _ _ _ _ => true
  | .tswap _ _ => true
  | .tswapBusy => true
  | .yielded _ _ => true
  | _ => false

/-- A killed thread also ends at once in a group operation or a stall. -/
def Wait.killable : Wait → Bool
  | .directory => true
  | .gkill _ _ _ => true
  | .jobQueue _ => true
  | .finish => true
  | .egress _ => true
  | .slice _ => true
  | w => w.interruptible

/-- May a trap fall on the context now? -/
def State.atBoundary (s : State) (ctx : Nat) : Bool := (s.ctx ctx).isRunning && (s.thAt ctx).wait.interruptible

/-- Is an imprecise trap due: a held record and no handler running (R239)? A thread that is stopped takes it after its
resume (R254). -/
def State.recordDue (s : State) (ctx : Nat) : Bool :=
  ctx % 4 != 3 && s.atBoundary ctx && !(s.thAt ctx).sfrq.isEmpty && !(s.thAt ctx).nest && !s.stopped ctx

/-- Ready: it holds work whose next instruction can issue. At a boundary where a trap is due no instruction issues
(R239); a die under reset issues nothing (R273). -/
def State.isReady (s : State) (ctx : Nat) : Bool :=
  (s.ctx ctx).isRunning && s.waitOver ctx && !s.stopped ctx && !s.recordDue ctx &&
    !s.pkg.dierst.getLsbD (dieOf (coreOfCtx ctx))

/-- YIELD: the context is not ready until the others that are ready now have each issued, or for 8 V cycles. -/
def execYield (s : State) : Out :=
  .next <|
    let others := (userCtxs s.me).filter fun k => k != s.cur && s.isReady k
    let s := s.retire
    if others.isEmpty then s else s.setTh { s.th with wait := .yielded others 8 }

end Sys2Proof.Machine
end

