-- ==== Sys2Proof/Machine/Hart.lean ====
section
/-!
DEFINITION. Sys2Proof/Machine/Hart.lean: the frame of a job's hart (R104, R169, R305): its reads and writes with their
failures, its draws, and the running of a body.
-/

namespace Sys2Proof.Machine

open Sys2Proof

/-- A hart at work: the machine, the job with its results so far, and whether the body has stopped. A body that pauses
(R73, R105) goes on in a later step, which goes through the accesses made before with what they gave then: `past` are
those still to go through, `made` those made so far, last first, and `left` says how many are left before a pause that
the script has asked for. -/
structure Hart where
  s : State
  j : Job
  stopped : Bool := false
  paused : Bool := false
  past : List (Nat × Nat) := []
  made : List (Nat × Nat) := []
  left : Option Nat := none
deriving DecidableEq, Repr

/-- The body stops with a status and its first faulting address. -/
def Hart.fail (h : Hart) (status : BitVec 8) (addr : Word) : Hart :=
  if h.stopped then h else { h with j := { h.j with status, faultAddr := addr }, stopped := true }

/-- Run a step of a body unless it has stopped. -/
def Hart.go (h : Hart) (f : Hart → Hart) : Hart := if h.stopped then h else f h

/-- Run a step for each item of a list until the body stops. -/
def Hart.each {α : Type} (h : Hart) (xs : List α) (f : Hart → α → Hart) : Hart :=
  xs.foldl (fun h x => h.go fun h => f h x) h

/-- Run a step for each of the numbers from `a`, `n` of them, until the body stops. -/
def Hart.count (h : Hart) (f : Hart → Nat → Hart) (a : Nat) : Nat → Hart
  | 0 => h
  | n + 1 => (h.go fun h => f h a).count f (a + 1) n

/-- The values that a step gives for the numbers from `a`, `n` of them. -/
def Hart.collect (h : Hart) (f : Hart → Nat → Nat × Hart) (a : Nat) : Nat → List Nat × Hart
  | 0 => ([], h)
  | n + 1 =>
    let (v, h) := f h a
    let (vs, h) := h.collect f (a + 1) n
    (v :: vs, h)

def Hart.word (h : Hart) : CmdWord := h.j.word

/-- The accesses are the issuing core's, at the kicking thread's level (R65, R111), by the cluster's TLB alone (R112). -/
def Hart.issuer (h : Hart) (core : Nat) : Issuer :=
  { core := some core, part := h.j.part, asid := h.j.asid, sup := h.j.lev, engine := true }

/-- The status of an access to a place that cannot be reached: 0x02 on a fenced die (R273); of a CXL port that is down
as where no memory answers (DEDUCED, log 64). -/
def Place.lostStatus : Place → BitVec 8
  | .bulk _ _ => AddrFault.translation.status
  | _ => 0x02

/-- The place of an operand address: a failure has the status of R82. -/
def Hart.place (h : Hart) (s : State) (core : Nat) (a : Word) (acc : Acc) : Except (BitVec 8) Place :=
  match s.resolve (h.issuer core) a acc with
  | .error f => .error f.status
  | .ok (.bulk .control _) => .error AddrFault.translation.status
  | .ok p => if s.unreachable p then .error p.lostStatus else .ok p

/-- What an access that is made now comes to: it fails with a status and an address, it waits at a glacier port for the
bank of a key (R73), or it is performed and gives a value and a note. -/
inductive Access where
  | fails (status : BitVec 8) (addr : Word)
  | waits (key : Nat)
  | gives (value note : Nat) (s : State)

/-- The body pauses; its access may wait for the bank of a key, with the number of its arrival. -/
def Hart.rest (h : Hart) (s : State) (waits : Option (Nat × Nat)) : Hart :=
  { h with s, j := { h.j with waits }, stopped := true, paused := true }

/-- One access of a body (R105): one that an earlier step has made gives what it gave then, and one that is made now is
performed on the machine as it stands, fails, or waits. -/
def Hart.access (h : Hart) (live : State → Access) : (Nat × Nat) × Hart :=
  if h.stopped then ((0, 0), h)
  else match h.past with
  | x :: past => (x, { h with past, made := x :: h.made })
  | [] =>
    if h.left = some 0 then ((0, 0), h.rest h.s h.j.waits)
    else match live h.s with
    | .fails st a => ((0, 0), h.fail st a)
    | .waits k => match h.j.waits with
      | some w => ((0, 0), h.rest h.s (some w))
      | none => ((0, 0), h.rest h.s.fresh.2 (some (k, h.s.nextId)))
    | .gives v note s =>
      ((v, note), { h with s, j := { h.j with waits := none }, made := (v, note) :: h.made, left := h.left.map (· - 1) })

/-- Must the body's next access, to a key, wait at its port (R73)? -/
def Hart.held (h : Hart) (s : State) (k : Nat) : Bool := s.portHolds k (h.j.waits.map (·.2))

/-- Read `n` bytes; a failure stops the body. -/
def Hart.read (h : Hart) (core : Nat) (a : Word) (n : Nat) : Nat × Hart :=
  let ((v, bulk), h) := h.access fun s =>
    match h.place s core a .read with
    | .error st => .fails st a
    | .ok p =>
      let k := s.keyOf h.j.part p
      if h.held s k then .waits k
      else if (s.badGranule? k n).isSome then .fails 0x06 a
      else .gives (s.peek k n) (if p.isBulk then n else 0) s
  (v, if h.stopped then h else { h with j := { h.j with bulkRead := h.j.bulkRead + bulk } })

def Hart.deliver (h : Hart) (n : Nat) : Hart := { h with j := { h.j with delivered := h.j.delivered + n } }

/-- Write bytes, and count them as delivered; a failure stops the body. -/
def Hart.write (h : Hart) (core : Nat) (a : Word) (bytes : List Byte) : Hart :=
  let h := (h.access fun s =>
    match h.place s core a .write with
    | .error st => .fails st a
    | .ok p =>
      let k := s.keyOf h.j.part p
      -- a write that waits at its port has been accepted (R71)
      if s.placeBound p && h.j.waits.isNone then .fails 0x03 a
      else if h.held s k then .waits k
      else .gives 0 0 (s.land k bytes)).2
  h.go fun h => h.deliver bytes.length

/-- RoundTo with the job's next draw (R138); FTZ never applies (R139). -/
def Hart.round (h : Hart) (x : Num) (f : Fmt) (mode : RMode) : Nat × Hart :=
  let r := roundTo x f mode false ((Machine.flurry h.j.key (w64 h.j.draws)).toNat / 2 ^ 32)
  (r.bits, { h with j := { h.j with flags := h.j.flags ||| r.flags, draws := if r.drew then h.j.draws + 1 else h.j.draws } })

/-- The cores of a job in position order: its members' for a gang job. -/
def Job.cores (j : Job) : List Nat := if j.gang then maskCores (cellOf j.core) j.mask else [j.core]

/-- The SCLA that a job took of the member on a core. -/
def Job.sclAOf (j : Job) (core : Nat) : BitVec 9 :=
  match j.members.find? fun m => coreOfCtx m.ctx == core with
  | some m => m.sclA
  | none => 0

/-! ## Running a body -/

/-- What an opcode requires of its word: the flag bits it defines, and the low bits of [199:0] that are reserved. -/
structure Layout where
  flags : Nat
  reserved : Nat

/-- A header or reserved field that fails the job before its body (R5, R168, R305). -/
def Layout.bad (l : Layout) (w : CmdWord) : Bool :=
  w.tokenOnly || w.bits 240 4 != 0 || decide (2 ^ l.flags ≤ w.flags) || w.bits 0 l.reserved != 0

/-- Is a job running with this class and opcode? -/
def Job.runs (j : Job) (cls opcode : Nat) : Bool :=
  j.state == .running && j.cls == cls && CmdWord.opcode j.word == opcode

/-- A job's body runs, and the job awaits its completion; or it pauses, and its results are those of the step that ends
it. -/
def State.runBody (s : State) (n cls opcode : Nat) (l : Layout) (body : Hart → Hart) : State :=
  match s.jobs.look? n with
  | none => s
  | some j =>
    if !j.runs cls opcode then s
    else
      let h : Hart :=
        { s := s.setJob n { j with waits := none }, j := { j with tokenOnly := CmdWord.tokenOnly j.word }, past := j.made,
          left := j.pause }
      let h := if l.bad j.word then h.fail 0x04 0 else body h
      if h.paused then h.s.setJob n { j with made := h.made.reverse, waits := h.j.waits, pause := none }
      else h.s.setJob n { h.j with state := .bodyDone, made := [], waits := none, pause := none }

end Sys2Proof.Machine
end

