-- ==== Sys2Proof/Machine/Matrix.lean ====
section
/-!
DEFINITION. Sys2Proof/Machine/Matrix.lean: the matrix engine: which job begins (R152, R154, R157, R159), and the
bodies of MMA, MMAT, ACCZ, ACCCVT, ACCLD and WBFILL.
-/

namespace Sys2Proof.Machine

open Sys2Proof

/-! ## Beginning (R152, R157, R159) -/

/-- The weight-buffer partitions that a job reads, and those it writes. -/
def Job.reads (j : Job) (p : Nat) : Bool :=
  (CmdWord.opcode j.word == 1 || CmdWord.opcode j.word == 2) && (j.gang || posOf j.core == p)

def Job.writes (j : Job) (p : Nat) : Bool := CmdWord.opcode j.word == 6 && (j.gang || posOf j.core == p)

/-- Must a job wait for an earlier one of its cell? -/
def Job.waitsFor (j e : Job) : Bool :=
  e.cls == 0 && cellOf e.core == cellOf j.core &&
    ((j.cores.any fun c => e.usesSlice c) ||
      (upFrom 0 8).any fun p => (j.writes p && (e.reads p || e.writes p)) || (j.reads p && e.writes p))

/-- Does an ACCRD or ACCWR issued before the job's acceptance wait for one of its slices? One that a stop holds executes
again after the resume. -/
def State.sliceClaimed (s : State) (j : Job) (n : Nat) : Bool :=
  j.cores.any fun c => (userCtxs c).any fun k => match (s.thAt k).wait with
    | .slice upTo => decide (upTo ≤ n) && !s.stopped k
    | _ => false

/-- The jobs that run to completion whatever is stopped: the gang jobs, and each job that one of these waits for (R158). -/
def runsThrough (js : List (Nat × Job)) : List (Nat × Job) :=
  js.foldr (fun e later => if e.2.gang || later.any fun x => x.2.waitsFor e.2 then e :: later else later) []

/-- Has a job its queue entry? The jobs that a resume accepts again take the entries of their cell as they come free,
before any new kick (R154, R249). -/
def State.hasEntry (s : State) (n : Nat) (j : Job) : Bool :=
  j.gang || decide (((s.jobs.filter fun e => e.1 < n && e.2.state == .queued && e.2.cls == 0 && !e.2.gang &&
    cellOf e.2.core == cellOf j.core).length) < queueCapacity 0)

/-- May a queued job begin? Every job on its slices that was accepted before has completed, and none runs there. One of
a launch that is stopped waits for its image (R249), unless a gang job waits for it; a WBFILL that a restore repeats does
not (R440). -/
def State.matrixCanBegin (s : State) (n : Nat) (j : Job) : Bool :=
  j.state == .queued && j.cls == 0 && s.hasEntry n j &&
    !(s.jobs.any fun e => (decide (e.1 < n) || (e.1 != n && e.2.state != .queued)) && j.waitsFor e.2) &&
    !s.sliceClaimed j n &&
    (!s.stopping j.launch || j.refill.isSome || (runsThrough s.jobs).any fun e => e.1 == n)

/-- MATRIX_JOB_BEGIN: the job leaves its queue entry. -/
def execMatrixJobBegin (job : Nat) (s : State) : Out :=
  .next <| match s.jobs.look? job with
  | some j => if s.matrixCanBegin job j then s.setJob job { j with state := .running } else s
  | none => s

/-! ## Operand elements -/

/-- Bytes of an element; an E2M1 element is read as the byte that holds it. -/
def Fmt.readBytes (f : Fmt) : Nat := max 1 f.bytes

/-- The element with index `i`, in units of its own size, from a base address: its address and the nibble. -/
def elemAddr (f : Fmt) (base : Word) (i : Nat) : Word × Nat :=
  if f = .e2m1 then (base + w64 (i / 2), i % 2) else (base + w64 (i * f.bytes), 0)

/-- An element's encoding from the bytes read. -/
def pickElem (f : Fmt) (v nib : Nat) : Nat := if f = .e2m1 then v / 2 ^ (4 * nib) % 16 else v

/-- Element size in half bytes. -/
def Fmt.halves (f : Fmt) : Nat := f.width / 4

/-! ## MMA and MMAT (R373-R376) -/

structure MmaFields where
  trans : Bool
  a     : Word
  pitch : Nat
  boff  : Nat
  rows  : Nat
  cols  : Nat
  steps : Nat
  layout : Nat
  acc   : Nat
  clear : Bool
  fa    : Fmt
  fb    : Fmt

def mmaFields (j : Job) : MmaFields :=
  let w : CmdWord := j.word
  { trans := w.opcode == 2, a := w64 (w.bits 136 64), pitch := w.bits 120 16, boff := w.bits 100 20,
    rows := w.bits 94 6 + 1, cols := w.bits 88 6 + 1, steps := w.bits 74 14 + 1, layout := w.bits 72 2,
    acc := w.bits 71 1, clear := w.flags % 2 == 1, fa := (Fmt.ofCode j.fmtA.toNat).getD .fp32,
    fb := (Fmt.ofCode j.fmtB.toNat).getD .fp32 }

/-- The superblock size, where the layout accepts FMTB (R375). -/
def superblock (layout : Nat) (f : Fmt) : Option Nat :=
  let narrow := f == .e4m3 || f == .e5m2 || f == .zf8 || f == .int8
  if layout = 0 then (if narrow then some 264 else if f = .e2m1 then some 136 else none)
  else if layout = 1 then (if narrow then some 168 else if f = .e2m1 then some 104 else none)
  else if layout = 2 then
    (if narrow then some 256 else if f = .e2m1 then some 128 else if f = .fp32 then none else some 512)
  else none

/-- The checks of R374. -/
def MmaFields.bad (m : MmaFields) (j : Job) : Bool :=
  let unit := m.fa.readBytes
  match superblock m.layout m.fb with
  | none => true
  | some z =>
    let nsb := ceilDiv m.steps 256
    !(decide (1 ≤ j.fmtA.toNat ∧ j.fmtA.toNat ≤ 7 ∧ 1 ≤ j.fmtB.toNat ∧ j.fmtB.toNat ≤ 7)) || m.steps % 32 != 0 ||
      decide (0x20000 ≤ m.a.toNat) || m.a.toNat % unit != 0 || m.pitch % unit != 0 ||
      (m.trans && m.fa == .e2m1 && m.rows % 2 == 1) || m.boff % 8 != 0 ||
      decide ((if j.gang then 1048576 else 131072) < m.boff + m.cols * nsb * z)

/-- Element (r, k) of A: its row or step start, and its index there (R373). -/
def MmaFields.aAddr (m : MmaFields) (r k : Nat) : Word × Nat :=
  if m.trans then elemAddr m.fa (m.a + w64 (k * m.pitch)) r else elemAddr m.fa (m.a + w64 (r * m.pitch)) k

/-- Every element of a member's A is read, row by row; a failure stops the body. -/
def Hart.readA (h : Hart) (m : MmaFields) (core : Nat) : List Nat × Hart :=
  h.collect (fun h i => h.read core (m.aAddr (i / m.steps) (i % m.steps)).1 m.fa.readBytes) 0 (m.rows * m.steps)

/-- The exact value of element (r, k) of a member's A under its SCLA, from the bytes read of it. -/
def Job.aValue (j : Job) (m : MmaFields) (core r k v : Nat) : Num :=
  scaled (j.sclAOf core) true (m.fa.decode (pickElem m.fa v (m.aAddr r k).2))

/-- Byte `off` of the issuing cell's weight buffer, as the job counts it (R373). -/
def Hart.wbuf (h : Hart) (off : Nat) : Nat :=
  wbufKey (cellOf h.j.core) (if h.j.gang then off else posOf h.j.core * 131072 + off)

/-- The first byte of superblock `t` of column `c`. -/
def MmaFields.super (m : MmaFields) (c t : Nat) : Nat :=
  m.boff + (c * ceilDiv m.steps 256 + t) * (superblock m.layout m.fb).getD 0

/-- The bytes of block `b` of a superblock: offset and count of its elements. -/
def MmaFields.block (m : MmaFields) (b : Nat) : Nat × Nat :=
  let h := m.fb.halves
  if m.layout = 0 then (8 + 16 * h * b, 16 * h)
  else if m.layout = 1 then (40 + 8 * h * b, 8 * h)
  else (16 * h * b, 16 * h)

/-- The index word of a sparse block (R146). -/
def Hart.indexWord (h : Hart) (m : MmaFields) (c t b : Nat) : Nat := h.s.peek (h.wbuf (m.super c t + 8 + 4 * b)) 4

/-- A used block of B is read: an error or a bad index stops the body (DEDUCED, log 62). -/
def Hart.readBlock (h : Hart) (m : MmaFields) (c t b : Nat) : Hart :=
  let base := m.super c t
  let (off, n) := m.block b
  let bad (o n : Nat) : Bool := (h.s.badGranule? (h.wbuf o) n).isSome
  if m.layout ≤ 1 ∧ bad (base + b) 1 then h.fail 0x06 (w64 (h.wbuf (base + b)))
  else if m.layout = 1 ∧ bad (base + 8 + 4 * b) 4 then h.fail 0x06 (w64 (h.wbuf (base + 8 + 4 * b)))
  else if bad (base + off) n then h.fail 0x06 (w64 (h.wbuf (base + off)))
  else
    let w := h.indexWord m c t b
    if m.layout = 1 ∧ (upFrom 0 8).any (fun g => decide (natBits w (4 * g + 2) 2 ≤ natBits w (4 * g) 2)) then
      h.fail 0x04 (w64 (h.wbuf (base + 8 + 4 * b)))
    else h

/-- Every used block of B is read, superblock by superblock (R376). -/
def Hart.readB (h : Hart) (m : MmaFields) : Hart :=
  h.count (fun h c => h.count (fun h t => h.count (fun h b =>
    if 256 * t + 32 * b < m.steps then h.readBlock m c t b else h) 0 8) 0 (ceilDiv m.steps 256)) 0 m.cols

/-- The element with index `i` of a run of elements in the weight buffer. -/
def Hart.bElemAt (h : Hart) (m : MmaFields) (off i : Nat) : Num :=
  let (addr, nib) := elemAddr m.fb (w64 off) i
  m.fb.decode (pickElem m.fb (h.s.peek (h.wbuf addr.toNat) m.fb.readBytes) nib)

/-- The kept value of a position of a sparse group: which of the two, if either. -/
def keptAt (w g i : Nat) : Option Nat :=
  if natBits w (4 * g) 2 = i then some (2 * g) else if natBits w (4 * g + 2) 2 = i then some (2 * g + 1) else none

/-- B[k][c] expanded (R145-R147, R375) under SCLB. -/
def Hart.bElem (h : Hart) (m : MmaFields) (c k : Nat) : Num :=
  let t := k / 256
  let b := k / 32 % 8
  let i := k % 32
  let base := m.super c t
  let off := base + (m.block b).1
  let code := h.s.peek (h.wbuf (base + b)) 1
  let blockScale (x : Num) : Num := scaled (BitVec.ofNat 9 (256 + code)) true x
  let x :=
    if m.layout = 0 then blockScale (h.bElemAt m off i)
    else if m.layout = 1 then
      match keptAt (h.indexWord m c t b) (i / 4) (i % 4) with
      | some v => blockScale (h.bElemAt m off v)
      | none => blockScale .zero
    else h.bElemAt m off i
  scaled h.j.sclB true x

/-- The group length of a pair of formats (R144). -/
def groupLength (fa fb : Fmt) : Nat :=
  let half (f : Fmt) : Bool := f == .bf16 || f == .fp16
  if half fa || half fb then 8 else if fa = .e2m1 ∧ fb = .e2m1 then 32 else 16

/-- The exact sum of a group and what its products are. -/
structure GroupSum where
  sum  : Num := .zero
  bad  : Bool := false
  pinf : Bool := false
  ninf : Bool := false
  invalid : Bool := false

def GroupSum.step (g : GroupSum) (a b : Num) : GroupSum :=
  if a.isNan || b.isNan then { g with bad := true }
  else match a.mul b with
  | (.nan, _) => { g with bad := true, invalid := true }
  | (.inf s, _) => if s then { g with ninf := true } else { g with pinf := true }
  | (p, _) => { g with sum := (Num.add false g.sum p).1 }

/-- One group's update of an accumulator element: its bits and the flags (R144). -/
def GroupSum.apply (g : GroupSum) (acc : Nat) : Nat × BitVec 8 :=
  let f := flagIf (g.invalid || (g.pinf && g.ninf)) Flag.invalid
  match Fmt.fp32.decode acc with
  | .nan => (0x7FC00000, f)
  | x =>
    if g.bad || (g.pinf && g.ninf) then (0x7FC00000, f)
    else if g.pinf then (if x = .inf true then (0x7FC00000, f ||| Flag.invalid) else (0x7F800000, f))
    else if g.ninf then (if x = .inf false then (0x7FC00000, f ||| Flag.invalid) else (0xFF800000, f))
    else
      let r := roundTo (Num.add false x g.sum).1 .fp32 .rne false 0
      (if r.bits = 0x80000000 then 0 else r.bits, f ||| r.flags)

/-- Accumulate K products in groups of `len`: `n` groups from step `k0`. -/
def accumulate (a b : Nat → Num) (steps len : Nat) : Nat → Nat → Nat → Nat × BitVec 8
  | 0, _, acc => (acc, 0)
  | n + 1, k0, acc =>
    let g := (upFrom k0 (min len (steps - k0))).foldl (fun (g : GroupSum) k => g.step (a k) (b k)) {}
    let (acc, f) := g.apply acc
    let (acc, f') := accumulate a b steps len n (k0 + len) acc
    (acc, f ||| f')

/-- One accumulator element of a member, whose A has been read as `as`. -/
def Hart.mmaElem (h : Hart) (m : MmaFields) (core : Nat) (as : List Nat) (r c : Nat) : Hart :=
  let cr := h.s.core core
  let len := groupLength m.fa m.fb
  let start := if m.clear then 0 else (cr.accAt m.acc r c).toNat
  let (x, f) := accumulate (fun k => h.j.aValue m core r k (as.getD (r * m.steps + k) 0)) (h.bElem m c) m.steps len (ceilDiv m.steps len) 0 start
  { h with s := h.s.setCore core (cr.setAcc m.acc r c (BitVec.ofNat 32 x)), j := { h.j with flags := h.j.flags ||| f } }

/-- Every element of a member, and its delivered bytes. -/
def Hart.mmaMember (h : Hart) (m : MmaFields) (core : Nat) (as : List Nat) : Hart :=
  (h.count (fun h r => h.count (fun h c => h.mmaElem m core as r c) 0 m.cols) 0 m.rows).deliver (4 * m.rows * m.cols)

/-- The A of every member, in position order. -/
def Hart.readMembers (h : Hart) (m : MmaFields) : List Nat → List (Nat × List Nat) × Hart
  | [] => ([], h)
  | c :: cs =>
    let (as, h) := h.readA m c
    let (rest, h) := h.readMembers m cs
    ((c, as) :: rest, h)

def Hart.bodyMma (h : Hart) : Hart :=
  let m := mmaFields h.j
  if m.bad h.j then h.fail 0x04 0
  else
    let (members, h) := h.readMembers m h.j.cores
    let h := h.go fun h => h.readB m
    h.each members fun h x => h.mmaMember m x.1 x.2

def execMma (job : Nat) (s : State) : Out := .next (s.runBody job 0 1 ⟨1, 71⟩ Hart.bodyMma)
def execMmat (job : Nat) (s : State) : Out := .next (s.runBody job 0 2 ⟨1, 71⟩ Hart.bodyMma)

/-! ## ACCZ (R311) -/

def Core.clearAcc (c : Core) (n : Nat) : Core :=
  { c with acc := c.acc.filter fun p => p.1 / 4096 != n, accDirty := c.accDirty ||| BitVec.ofNat 2 (2 ^ n) }

def Hart.bodyAccz (h : Hart) : Hart :=
  let tiles := (upFrom 0 2).filter fun n => h.word.bits n 1 == 1
  if tiles.isEmpty ∨ h.word.bits 2 198 ≠ 0 then h.fail 0x04 0
  else h.each h.j.cores fun h core => h.each tiles fun h n =>
    { h with s := h.s.setCore core ((h.s.core core).clearAcc n) }.deliver 16384

def execAccz (job : Nat) (s : State) : Out := .next (s.runBody job 0 3 ⟨0, 0⟩ Hart.bodyAccz)

/-! ## ACCCVT and ACCLD (R306-R308) -/

structure AccFields where
  addr  : Word
  pitch : Nat
  row0  : Nat
  rows  : Nat
  col0  : Nat
  cols  : Nat
  acc   : Nat

def accFields (w : CmdWord) : AccFields :=
  { addr := w64 (w.bits 136 64), pitch := w.bits 120 16, row0 := w.bits 114 6, rows := w.bits 108 6 + 1,
    col0 := w.bits 102 6, cols := w.bits 96 6 + 1, acc := w.bits 95 1 }

def AccFields.outside (a : AccFields) : Bool := decide (64 < a.row0 + a.rows ∨ 64 < a.col0 + a.cols)

/-- The checks of R307, for an output format. -/
def AccFields.badCvt (a : AccFields) (f : Fmt) (gang : Bool) : Bool :=
  a.outside || a.addr.toNat % f.readBytes != 0 || decide (2 * a.pitch < a.cols * f.halves) ||
    2 * a.pitch % f.halves != 0 || (f == .e2m1 && (a.col0 % 2 == 1 || a.cols % 2 == 1)) ||
    (gang && decide (0x20000 ≤ a.addr.toNat))

/-- An accumulator element rounded to the output format under SCLC. -/
def Hart.cvtElem (h : Hart) (a : AccFields) (f : Fmt) (core r c : Nat) : Nat × Hart :=
  let (x, h) := h.access fun s => .gives ((s.core core).accAt a.acc r c).toNat 0 s
  h.round (scaled h.j.sclC false (Fmt.fp32.decode x.1)) f (RMode.ofCode h.j.rmode.toNat)

/-- Zero-after, once the element's write has succeeded. -/
def Hart.zeroAcc (h : Hart) (a : AccFields) (core r c : Nat) : Hart :=
  h.go fun h =>
    if h.word.flags % 2 = 1 then { h with s := h.s.setCore core ((h.s.core core).setAcc a.acc r c 0) } else h

/-- One element, or for E2M1 the two of one byte. -/
def Hart.cvtStep (h : Hart) (a : AccFields) (f : Fmt) (core i k : Nat) : Hart :=
  let row := a.addr + w64 (i * a.pitch)
  if f = .e2m1 then
    let c := a.col0 + 2 * k
    let (lo, h) := h.cvtElem a f core (a.row0 + i) c
    let (hi, h) := h.cvtElem a f core (a.row0 + i) (c + 1)
    let h := h.write core (row + w64 k) [BitVec.ofNat 8 (lo + 16 * hi)]
    (h.zeroAcc a core (a.row0 + i) c).zeroAcc a core (a.row0 + i) (c + 1)
  else
    let c := a.col0 + k
    let (y, h) := h.cvtElem a f core (a.row0 + i) c
    (h.write core (row + w64 (k * f.bytes)) (leBytes f.bytes y)).zeroAcc a core (a.row0 + i) c

def Hart.bodyAcccvt (h : Hart) : Hart :=
  let a := accFields h.word
  match Fmt.ofCode h.j.fmtC.toNat with
  | none => h.fail 0x04 0
  | some f =>
    if a.badCvt f h.j.gang then h.fail 0x04 0
    else h.each h.j.cores fun h core =>
      h.count (fun h i => h.count (fun h k => h.cvtStep a f core i k) 0 (if f = .e2m1 then a.cols / 2 else a.cols)) 0 a.rows

def execAcccvt (job : Nat) (s : State) : Out := .next (s.runBody job 0 4 ⟨1, 95⟩ Hart.bodyAcccvt)

def Hart.bodyAccld (h : Hart) : Hart :=
  let a := accFields h.word
  if a.outside ∨ a.addr.toNat % 4 ≠ 0 ∨ a.pitch < 4 * a.cols ∨ a.pitch % 4 ≠ 0 ∨
      (h.j.gang ∧ 0x20000 ≤ a.addr.toNat) then h.fail 0x04 0
  else h.each h.j.cores fun h core =>
    h.count (fun h i => h.count (fun h k =>
      let (v, h) := h.read core (a.addr + w64 (i * a.pitch + 4 * k)) 4
      h.go fun h =>
        { h with s := h.s.setCore core ((h.s.core core).setAcc a.acc (a.row0 + i) (a.col0 + k) (BitVec.ofNat 32 v)) }.deliver 4)
      0 a.cols) 0 a.rows

def execAccld (job : Nat) (s : State) : Out := .next (s.runBody job 0 5 ⟨0, 95⟩ Hart.bodyAccld)

/-! ## WBFILL (R438-R440) -/

/-- The checks of R438. -/
def wbfillBad (j : Job) (src dst len : Nat) : Bool :=
  let whole := CmdWord.flags j.word % 2 == 1
  let p := posOf j.core
  natBits src 52 4 == 3 || src % 8 != 0 || dst % 8 != 0 || len % 8 != 0 || len == 0 ||
    decide (1048576 < dst + len) ||
    (if whole then !j.gang else j.gang || dst / 131072 != p || (dst + len - 1) / 131072 != p)

/-- The cores whose partitions of the cell's buffer a range touches. -/
def fillCores (cell dst len : Nat) : List Nat :=
  (cellCores cell).filter fun c => overlaps (posOf c * 131072) 131072 dst len

/-- Does a WBFILL fill the partition of a core: a repeated one only those of the footprint (R440)? -/
def Job.fills (j : Job) (core : Nat) : Bool :=
  match j.refill with
  | some cores => cores.contains core
  | none => true

/-- The body over units of 8 bytes. -/
def Hart.fillLoop (h : Hart) (src dst len : Nat) : Hart :=
  h.count (fun h u =>
    let (v, h) := h.read h.j.core (w64 (src + 8 * u)) 8
    h.go fun h =>
      let o := dst + 8 * u
      if !h.j.fills (cellOf h.j.core * 8 + o / 131072) then h
      else ({ h with s := h.s.landLE (wbufKey (cellOf h.j.core) o) 8 v } : Hart).deliver 8) 0 (len / 8)

def Hart.bodyWbfill (n : Nat) (h : Hart) : Hart :=
  let src := h.word.bits 136 64
  let dst := h.word.bits 116 20
  let len := h.word.bits 95 21
  if wbfillBad h.j src dst len then h.fail 0x04 0
  else
    (h.fillLoop src dst len).go fun h =>
      if h.j.checkArrival.status ≠ 0 then h
      else { h with s := { h.s with fills :=
        ((fillCores (cellOf h.j.core) dst len).filter h.j.fills).foldl (fun f c => f.insert c (n, h.j)) h.s.fills } }

def execWbfill (job : Nat) (s : State) : Out := .next (s.runBody job 0 6 ⟨1, 95⟩ (Hart.bodyWbfill job))

end Sys2Proof.Machine
end

