-- ==== Sys2Proof/Machine/Copy.lean ====
section
/-!
DEFINITION. Sys2Proof/Machine/Copy.lean: the copy engine: which job begins (R80), and the bodies of COPY, COPY2D, DEAL,
GATHB, REDW and FILL.
-/

namespace Sys2Proof.Machine

open Sys2Proof

/-- The copy engine's port of a core: its cell in the cluster. -/
def portOf (core : Nat) : Nat := cellOf core % 3

/-- Does a port of a cluster hold a queued copy job? -/
def State.portWaits (s : State) (cluster port : Nat) : Bool :=
  s.jobs.any fun e =>
    e.2.cls == 1 && e.2.state == .queued && clusterOf e.2.core == cluster && portOf e.2.core == port

/-- The port whose head begins next: the heads come in turn (R80). -/
def State.copyPort (s : State) (cluster : Nat) : Option Nat :=
  ((upFrom 0 3).map fun i => ((s.cluster cluster).copyTurn + i) % 3).find? fun p => s.portWaits cluster p

/-- A job at the head of the port whose turn it is, while the engine of its cluster runs fewer than eight. -/
def State.copyCanBegin (s : State) (n : Nat) (j : Job) : Bool :=
  j.state == .queued && j.cls == 1 && s.copyPort (clusterOf j.core) == some (portOf j.core) &&
    !(s.jobs.any fun e => decide (e.1 < n) && e.2.cls == 1 && e.2.state == .queued && cellOf e.2.core == cellOf j.core) &&
    decide ((s.jobs.filter fun e =>
      e.2.cls == 1 && e.2.state != .queued && clusterOf e.2.core == clusterOf j.core).length < 8)

/-- COPY_JOB_BEGIN. -/
def execCopyJobBegin (job : Nat) (s : State) : Out :=
  .next <| match s.jobs.look? job with
  | some j =>
    if s.copyCanBegin job j then
      let k := clusterOf j.core
      (s.setCluster k { s.cluster k with copyTurn := (portOf j.core + 1) % 3 }).setJob job { j with state := .running }
    else s
  | none => s

/-- Bits [55:52] of an operand address. -/
def operandClass (a : Nat) : Nat := natBits a 52 4

/-- Body(COPY) from byte `i` of a range, as CopyRange of R338 uses it too; the fuel is the bytes left. -/
def Hart.copyFrom (h : Hart) (src dst : Word) (len : Nat) : Nat → Nat → Hart
  | 0, _ => h
  | fuel + 1, i =>
    if h.stopped ∨ len ≤ i then h
    else
      let a := src + w64 i
      let d := dst + w64 i
      let n := if a.toNat % 8 = 0 ∧ d.toNat % 8 = 0 ∧ i + 8 ≤ len then 8 else 1
      let (v, h) := h.read h.j.core a n
      (h.go fun h => h.write h.j.core d (leBytes n v)).copyFrom src dst len fuel (i + n)

def Hart.copyRange (h : Hart) (src dst : Word) (len : Nat) : Hart := h.copyFrom src dst len len 0

/-- COPY (R333). -/
def Hart.bodyCopy (h : Hart) : Hart :=
  let src := h.word.bits 136 64
  let dst := h.word.bits 72 64
  let len := h.word.bits 24 48
  if len = 0 ∨ operandClass src = 3 ∨ operandClass dst = 3 then h.fail 0x04 0
  else h.copyRange (w64 src) (w64 dst) len

def execCopy (job : Nat) (s : State) : Out := .next (s.runBody job 1 1 ⟨0, 24⟩ Hart.bodyCopy)

/-- COPY2D (R334). -/
def Hart.bodyCopy2d (h : Hart) : Hart :=
  let src := h.word.bits 136 64
  let dst := h.word.bits 72 64
  let width := h.word.bits 56 16 + 1
  let rows := h.word.bits 44 12 + 1
  let sp := signExtendN 22 (h.word.bits 22 22)
  let dp := signExtendN 22 (h.word.bits 0 22)
  if operandClass src = 3 ∨ operandClass dst = 3 then h.fail 0x04 0
  else h.count (fun h k => h.copyRange (w64 src + w64 k * sp) (w64 dst + w64 k * dp) width) 0 rows

def execCopy2d (job : Nat) (s : State) : Out := .next (s.runBody job 1 2 ⟨0, 0⟩ Hart.bodyCopy2d)

/-- DEAL (R86, R337, R338). -/
def Hart.bodyDeal (h : Hart) : Hart :=
  let w := h.word
  let src := w.bits 136 64
  let base := w.bits 119 17
  let blk := w.bits 103 16 + 1
  let first := w.bits 93 10
  let stride := w.bits 83 10
  let p := w.bits 73 10 + 1
  let n := w.bits 61 12 + 1
  if blk % 64 ≠ 0 ∨ base % 64 ≠ 0 ∨ 575 < first ∨ stride = 0 ∨ 575 < stride ∨ 576 < p ∨ operandClass src = 3 then
    h.fail 0x04 0
  else h.count (fun h j =>
    let core := first + j % p * stride
    let off := base + j / p * blk
    let d := w64 (0x0010000000000000 + dieOf h.j.core * 2 ^ 42 + core / 24 * 2 ^ 37 + core % 24 * 2 ^ 32 + off)
    if 576 ≤ core ∨ 0x20000 < off + blk then h.fail 0x02 d
    else h.copyRange (w64 src + w64 (j * blk)) d blk) 0 (p * n)

def execDeal (job : Nat) (s : State) : Out := .next (s.runBody job 1 3 ⟨0, 61⟩ Hart.bodyDeal)

/-- GATHB (R349). -/
def Hart.bodyGathb (h : Hart) : Hart :=
  let w := h.word
  let list := w64 (w.bits 136 64)
  let dst := w64 (w.bits 72 64)
  let blk := w.bits 56 16 + 1
  let nblk := w.bits 36 20 + 1
  if list.toNat % 8 ≠ 0 ∨ operandClass dst.toNat = 3 then h.fail 0x04 0
  else h.count (fun h j =>
    let (a, h) := h.read h.j.core (list + w64 (8 * j)) 8
    h.go fun h =>
      if operandClass a = 3 then h.fail 0x04 (w64 a) else h.copyRange (w64 a) (dst + w64 (j * blk)) blk) 0 nblk

def execGathb (job : Nat) (s : State) : Out := .next (s.runBody job 1 4 ⟨0, 36⟩ Hart.bodyGathb)

/-- One element of REDW: the source read, the route's check, then the indivisible update at the owner (R389). -/
def Hart.redwStep (h : Hart) (src dst : Word) (n e : Nat) : Hart :=
  let a := dst + w64 (n * e)
  let (x, h) := h.read h.j.core (src + w64 (n * e)) n
  let ((flags, _), h) := h.access fun s =>
    match h.place s h.j.core a .atomic with
    | .error st => .fails st a
    | .ok p =>
      let k := s.keyOf h.j.part p
      if !carries p (.rmw 9 n x) then .fails 0x04 a
      else if h.held s k then .waits k
      else if (s.badGranule? k n).isSome then .fails 0x06 a
      else
        let f := atomFmt n
        let (sum, inv) := Num.add false (f.decode (s.peek k n)) (f.decode x)
        let r := roundTo sum f .rne false 0
        .gives (r.flags ||| flagIf inv Flag.invalid).toNat 0 (s.landAtomic k n r.bits)
  h.go fun h => ({ h with j := { h.j with flags := h.j.flags ||| BitVec.ofNat 8 flags } } : Hart).deliver n

def Hart.bodyRedw (h : Hart) : Hart :=
  let w := h.word
  let src := w.bits 136 64
  let dst := w.bits 72 64
  let fmt := w.bits 44 4
  let n := if fmt = 1 then 2 else 4
  if 1 < fmt ∨ src % n ≠ 0 ∨ dst % n ≠ 0 ∨ operandClass src = 3 ∨ operandClass dst = 2 ∨ operandClass dst = 3 then
    h.fail 0x04 0
  else h.count (fun h e => h.redwStep (w64 src) (w64 dst) n e) 0 (w.bits 48 24 + 1)

def execRedw (job : Nat) (s : State) : Out := .next (s.runBody job 1 5 ⟨0, 44⟩ Hart.bodyRedw)

/-- FILL from byte `i`; the fuel is the bytes left (R344). -/
def Hart.fillFrom (h : Hart) (dst : Word) (pattern len : Nat) : Nat → Nat → Hart
  | 0, _ => h
  | fuel + 1, i =>
    if h.stopped ∨ len ≤ i then h
    else
      let a := dst + w64 i
      let n := if a.toNat % 8 = 0 ∧ i + 8 ≤ len then 8 else 1
      (h.write h.j.core a (leBytes n (pattern / 2 ^ (8 * (a.toNat % 8))))).fillFrom dst pattern len fuel (i + n)

def Hart.bodyFill (h : Hart) : Hart :=
  let dst := h.word.bits 136 64
  let len := h.word.bits 24 48
  if len = 0 ∨ operandClass dst = 3 then h.fail 0x04 0
  else h.fillFrom (w64 dst) (h.word.bits 72 64) len len 0

def execFill (job : Nat) (s : State) : Out := .next (s.runBody job 1 6 ⟨0, 24⟩ Hart.bodyFill)

end Sys2Proof.Machine
end

