-- ==== Sys2Proof/Machine/Messages.lean ====
section
/-!
DEFINITION. Sys2Proof/Machine/Messages.lean: the life of a message: its walk over the mesh (R31, R32), its arrival at
the taking core (R33, R51, R53), the mailbox (R52), the run queue (R45, R198), and the start of the work it carries
(R26, R34, R55, R57, R59, R63).
-/

namespace Sys2Proof.Machine

open Sys2Proof

/-! ## Which launches take work -/

def State.launchState (s : State) (lid : Nat) : Option LaunchState := (s.launches.look? lid).map (·.state)

/-- Is a launch in its image: swapped out, or waiting for its resume? -/
def Launch.inImage (l : Launch) : Bool := l.state == .swapped || (l.state == .waiting && l.resume.isSome)

def State.swapped (s : State) (lid : Nat) : Bool :=
  match s.launches.look? lid with
  | some l => l.inImage
  | none => false

/-- Is a launch stopped, or swapped out (R222, R247)? -/
def State.held (s : State) (lid : Nat) : Bool :=
  match s.launches.look? lid with
  | some l => l.stopping || l.inImage
  | none => false

/-- Does a message start work (R222, first row)? -/
def Msg.isWork (m : Msg) : Bool :=
  let k := hKind m.header
  k != 4 && k != 6 && !m.isReply

/-- Work of a launch that is stopped stays where it stands. -/
def State.heldMsg (s : State) (m : Msg) : Bool := m.isWork && s.held m.launch

/-- Where a stopped launch's image is kept that later work joins (R228). -/
def State.capture (s : State) (m : Msg) : State :=
  match s.launches.look? m.launch with
  | none => s
  | some l => s.onImage l fun i => { i with captured := i.captured ++ [m] }

/-! ## The mesh -/

/-- The core at which a message that comes over the package mesh enters its die (R31). -/
def entryPoint (h : Word) : Nat := coreAt (hDie h) (hRow h) (if hCol h ≤ 11 then 0 else 23)

/-- The next die toward another (R10). -/
def nextDie (a b : Nat) : Nat :=
  if a + b = 3 then (if a = 0 ∨ b = 0 then 1 else 0) else b

/-- One hop of the dimension order, or over the package mesh. -/
def nextRouter (at_ : Nat) (h : Word) : Nat :=
  if dieOf at_ ≠ hDie h then
    let d := nextDie (dieOf at_) (hDie h)
    -- a die between CD0 and CD3, or CD1 and CD2, is crossed first
    if d = hDie h then entryPoint h else coreAt d (rowOf at_) (colOf at_)
  else if rowOf at_ < hRow h then coreAt (dieOf at_) (rowOf at_ + 1) (colOf at_)
  else if hRow h < rowOf at_ then coreAt (dieOf at_) (rowOf at_ - 1) (colOf at_)
  else if colOf at_ < hCol h then coreAt (dieOf at_) (rowOf at_) (colOf at_ + 1)
  else coreAt (dieOf at_) (rowOf at_) (colOf at_ - 1)

/-- |row - hint row| + |column - hint column|. -/
def hintDistance (core : Nat) (h : Word) : Nat :=
  (rowOf core - hRow h) + (hRow h - rowOf core) + (colOf core - hCol h) + (hCol h - colOf core)

/-- Is a count, with a code length, one that its kind allows (R47, R58, R401)? -/
def Msg.countOk (m : Msg) : Bool :=
  let k := hKind m.header
  let c := hCount m.header
  let len := hEntry m.header
  if k = 0 then (if m.origin = .spawn then decide (3 ≤ c ∧ c ≤ 31) else decide (c ≤ 28))
  else if k = 1 ∨ k = 3 then decide (1 ≤ len ∧ len ≤ 12 ∧ 1 + ceilDiv len 2 ≤ c ∧ c ≤ 31)
  else if k = 2 then c == 37 || c == 51 || c == 54 || c == 68
  else if k = 5 then decide (c ≤ 28)
  else decide (c ≤ 31)

/-- The reason to refuse a message, if there is one (R56): an exact hint names no core beyond row or column 23, and any
other is taken there (R14). -/
def State.msgFault (s : State) (m : Msg) : Option Nat :=
  if 8 ≤ hKind m.header then some 1
  else if !m.countOk then some 2
  else if (hExact m.header ∧ (24 ≤ wbits m.header 46 5 ∨ 24 ≤ wbits m.header 41 5)) ∨
    s.pkg.dierst.getLsbD (hDie m.header) then some 3
  else if !s.hasCore m.part (hCore m.header) then some 4
  else none

def sameSource (a b : Msg) : Bool := a.sender.toNat / 4 == b.sender.toNat / 4 && hPrio a.header == hPrio b.header

/-- The messages that entered the mesh before one (DEDUCED, log 44). -/
def State.earlierMsgs (s : State) (m : Msg) : List Msg := s.mesh.takeWhile fun x => x.id != m.id

/-- May a core take a message on its way (R32)? -/
def State.takes (s : State) (m : Msg) (core : Nat) : Bool :=
  let h := m.header
  if core = hCore h then hExact h || (s.idleCtx? core).isSome && s.hasCore m.part core
  else
    !hExact h && (s.idleCtx? core).isSome && s.hasCore m.part core &&
      if hKind h = 2 then clusterOf core == clusterOf (hCore h)
      else hRadius h == 31 || decide (hintDistance core h ≤ min (hRadius h) 15)

def State.leaveMesh (s : State) (m : Msg) : State := { s with mesh := s.mesh.filter fun x => x.id != m.id }

def State.updateMesh (s : State) (m : Msg) : State :=
  { s with mesh := s.mesh.map fun x => if x.id == m.id then m else x }

/-- One router's work on a message that no core has taken yet. -/
def State.route (s : State) (m : Msg) : State :=
  match s.msgFault m with
  | some r => (s.leaveMesh m).refuse m m.at_ r
  | none =>
    if dieOf m.at_ = hDie m.header ∧ (s.takes m m.at_ ∨ m.at_ = hCore m.header) then
      s.updateMesh { m with taker := some m.at_, inPort := false }
    else s.updateMesh { m with at_ := nextRouter m.at_ m.header, entered := true, inPort := false }

/-- May a message move: it is not held, its egress port is not stalled, and every earlier message of its source and
priority has its taking core (R54). -/
def State.mayHop (s : State) (m : Msg) : Bool :=
  m.taker.isNone && !s.heldMsg m && !(m.inPort && s.egressBlocked m.at_ (hPrio m.header)) &&
    !((s.earlierMsgs m).any fun x => sameSource x m && x.taker.isNone)

/-- MESH_HOP. -/
def execMeshHop (msg : Nat) (s : State) : Out :=
  .next <| match s.mesh.find? fun m => m.id == msg with
  | none => s
  | some m =>
    if s.swapped m.launch ∧ m.isWork then (s.leaveMesh m).capture m
    else if s.mayHop m then s.route m
    else s

/-! ## Arrival -/

/-- Messages that a mailbox queue of a priority holds at most (R51). -/
def mailCapacity (prio : Nat) : Nat := if prio ≤ 1 then 16 else 8

def Core.mailOf (c : Core) (prio : Nat) : List Msg := c.mail.filter fun m => hPrio m.header == prio

/-- A message enters its mailbox queue, waits at a full one, or ends with the killed thread it carries. A fenced die takes
none (R273). -/
def State.arrive (s : State) (m : Msg) (core : Nat) : State :=
  if (m.thread.map (·.killed)).getD false then
    match m.thread with
    | some t => (s.leaveMesh m).threadGone t true
    | none => s
  else if s.pkg.fenced.getLsbD (dieOf core) then
    let s := s.leaveMesh m
    match m.thread with
    | some t => (s.faultRecord t.part t.tid (ctxOf core 0) Cause.mchk 0 t.pc).threadGone t true
    | none => s.refuse m core 3
  else if !s.hasCore m.part core then (s.leaveMesh m).refuse m core 4
  else if mailCapacity (hPrio m.header) ≤ ((s.core core).mailOf (hPrio m.header)).length then
    s.updateMesh { m with blocked := true }
  else
    let s := s.leaveMesh m
    s.setCore core { s.core core with mail := (s.core core).mail ++ [{ m with blocked := false }] }

/-- MESSAGE_ARRIVAL: messages of one source and priority enter a core's queue in send order (R54). -/
def execMessageArrival (msg : Nat) (s : State) : Out :=
  .next <| match s.mesh.find? fun m => m.id == msg with
  | none => s
  | some m =>
    match m.taker with
    | none => s
    | some core =>
      if s.swapped m.launch ∧ m.isWork then (s.leaveMesh m).capture m
      else if s.heldMsg m ∨ (s.earlierMsgs m).any (fun x => sameSource x m && x.taker == some core) then s
      else s.arrive m core

/-! ## The run queue (R33, R45, R198, R228) -/

def runqCapacity : Nat := 64

/-- Saved work of a resumed launch enters a core's run queue as entries free, before other work (R228). -/
def Core.refill (c : Core) : Core :=
  let n := runqCapacity - c.runq.length
  { c with runq := c.runq ++ c.backlog.take n, backlog := c.backlog.drop n }

/-- Is there an entry for new work? -/
def Core.hasEntry (c : Core) : Bool := decide (c.runq.length < runqCapacity) && c.backlog.isEmpty

/-- The entry that an idle context takes: the head of the highest level, leaving out work that is held. -/
def State.nextEntry (s : State) (core : Nat) : Option RunEntry :=
  let free (e : RunEntry) : Bool := match e.entry with
    | .msg m => !s.held m.launch
    | .thread t => !s.held t.launch
  let es := (s.core core).runq.filter free
  [3, 2, 1, 0].findSome? fun l => es.find? fun e => e.level == l

/-- RUN_QUEUE_TAKE: the lowest-numbered idle user context takes the entry. A restored thread is a claimant again, and
renegotiates under its saved request (R161). -/
def execRunQueueTake (core : Nat) (s : State) : Out :=
  .next <| match s.idleCtx? core, s.nextEntry core with
  | some k, some e =>
    let c := s.core core
    let s := s.setCore core { c with runq := c.runq.erase e }.refill
    match e.entry with
    | .msg m => s.setCtx k { s.ctx k with mode := .starting m }
    | .thread t =>
      let s := s.setCtx k { mode := .running, th := t }
      if t.request = 0 then s else s.renegotiate k
  | _, _ => s

/-- V cycles after which an entry rises a level. -/
def agingCycles : Nat := 65536

/-- RUN_QUEUE_AGING: an entry that has waited long enough rises, and joins its new level last. -/
def execRunQueueAging (core : Nat) (s : State) : Out :=
  .next <|
    let c := s.core core
    match c.runq.find? fun e => decide (agingCycles ≤ e.waited ∧ e.level < 3) with
    | none => s
    | some e =>
      s.setCore core { c with runq := c.runq.erase e ++ [{ e with level := e.level + 1, waited := 0 }] }

/-! ## The start of work -/

/-- The code segment of a launch (R192). -/
def State.codeBase (s : State) (lid : Nat) : Word :=
  match s.launches.look? lid with
  | some l => l.block.get 0 2
  | none => 0

def State.seedOf (s : State) (lid : Nat) : Word :=
  match s.launches.look? lid with
  | some l => l.block.get 0 13
  | none => 0

/-- Scalar registers from `a` up, in order. -/
def setRegs (t : Tbl Word) (a : Nat) : List Word → Tbl Word
  | [] => t
  | x :: xs => setRegs (t.insert a x) (a + 1) xs

/-- A thread number of a partition. -/
def State.newTid (s : State) (p : Nat) : Nat × State :=
  ((s.part p).nextTid, s.setPart p { s.part p with nextTid := (s.part p).nextTid + 1 })

/-- A thread that a message starts, before its registers (R26, R231). -/
def State.newThread (s : State) (m : Msg) (tid : Nat) : Thread :=
  { pc := s.codeBase m.launch + w64 (4 * hEntry m.header), tid, launch := m.launch, asid := m.asid, part := m.part,
    lev := m.lev, dirty := BitVec.allOnes 65 }

/-- A handler's thread: s3 names the sender, the payload lands in s4 and up. -/
def State.handlerThread (s : State) (m : Msg) (tid : Nat) : Thread :=
  { s.newThread m tid with
    s := setRegs [] 2 (0x20000 :: senderWord m.sender :: m.payload)
    srseed := flurry (s.seedOf m.launch) (w64 (m.sender.toNat * 2 ^ 32 + hEntry m.header))
    level := hPrio m.header }

/-- R231: a launch thread of a trusted launch starts at supervisor level where the leaf of its entry has U = 0. -/
def State.entryLevel (s : State) (m : Msg) (core : Nat) : Bool :=
  if m.sender = noSender then
    m.lev && match s.leafFor core .fetch m.part m.asid
        (natBits (s.codeBase m.launch + w64 (4 * hEntry m.header)).toNat 0 52) with
      | some l => !l.perm.getLsbD 3
      | none => false
  else m.lev

/-- A spawned thread: the arguments land in s3 and up (R26, R401). -/
def State.spawnThread (s : State) (m : Msg) (core tid : Nat) : Thread :=
  let w2 := m.payload.getD 2 0
  { s.newThread m tid with
    s := setRegs [] 2 (0x20000 :: m.payload.drop 3)
    join := m.payload.getD 0 0
    srseed := m.payload.getD 1 0
    level := wbits w2 24 2
    ftz := wbit w2 11
    rmode := BitVec.ofNat 3 (wbits w2 8 3)
    lev := s.entryLevel m core }

/-- A thread begins on a context: the start of a message's work is an acquire (R54). -/
def State.beginThread (s : State) (ctx : Nat) (t : Thread) : State :=
  (s.rrcInvalidate (coreOfCtx ctx)).setCtx ctx { mode := .running, th := t }

/-- The message that a context holds of a kind. -/
def State.startingOf (s : State) (ctx : Nat) (p : Msg → Bool) : Option Msg :=
  match (s.ctx ctx).mode with
  | .starting m => if p m && !s.heldMsg m then some m else none
  | _ => none

/-- A handler thread starts from the message that a context holds. -/
def State.startHandler (s : State) (ctx : Nat) (p : Msg → Bool) : State :=
  match s.startingOf ctx p with
  | none => s
  | some m =>
    let (tid, s) := s.newTid m.part
    s.beginThread ctx (s.handlerThread m tid)

/-- HANDLER_FLAKE_START: a handler or a spawned thread. -/
def execHandlerFlakeStart (ctx : Nat) (s : State) : Out :=
  .next <| match s.startingOf ctx fun m => hKind m.header == 0 with
  | none => s
  | some m =>
    let (tid, s) := s.newTid m.part
    s.beginThread ctx (if m.origin = .spawn then s.spawnThread m (coreOfCtx ctx) tid else s.handlerThread m tid)

/-- COMPLETION_FLAKE. -/
def execCompletionFlake (ctx : Nat) (s : State) : Out :=
  .next (s.startHandler ctx fun m => hKind m.header == 5)

/-- RATIO_NOTICE: the clock arbiter that sends it has no MESHID, so the sender that the handler finds is a free value
(log 5) (DESIGN CHOICE, log 58). -/
def execRatioNotice (ctx : Nat) (s : State) : Out :=
  .next <| match s.startingOf ctx fun m => hKind m.header == 7 with
  | none => s
  | some m =>
    let (i, s) := s.takeFree
    let (tid, s) := s.newTid m.part
    s.beginThread ctx (s.handlerThread { m with sender := (Config.freeWord i).setWidth 32 } tid)

/-- THREAD_MESSAGE_ARRIVAL: the thread takes the context in the payload (R36) and goes on where it left, with an
acquire. A message of another chip carries no more than the payload and its sideband. -/
def execThreadMessageArrival (ctx : Nat) (s : State) : Out :=
  .next <| match s.startingOf ctx fun m => hKind m.header == 2 with
  | none => s
  | some m =>
    let t := (m.thread.getD { launch := m.launch, part := m.part, dirty := BitVec.allOnes 65 }).takeContext m.payload
    s.beginThread ctx t

/-! ## Service flakes (R58-R63) -/

/-- The code words of a flake, low half of each payload word first. -/
def unpackCode (ws : List Word) (len : Nat) : List (BitVec 32) :=
  (ws.flatMap fun (w : Word) => [w.setWidth 32, (w >>> 32).setWidth 32]).take len

/-- The flake of a message of kind 1 or 3 (R59). A 29th argument, of a message of count 31 whose code is one or two words,
has no register: it is dropped (DESIGN CHOICE, log 91). -/
def inlineThread (m : Msg) : Thread :=
  let chain := m.payload.getD 0 0
  let len := hEntry m.header
  { s := setRegs [] 3 (senderWord m.sender :: (m.payload.drop (1 + ceilDiv len 2)).take 28)
    launch := m.launch, part := m.part, asid := m.asid, lev := m.lev, level := hPrio m.header
    flake := some { msg := m.id, header := m.header, chain, code := unpackCode (m.payload.drop 1) len,
                    spent := wbits chain 0 8, sender := m.sender } }

/-- INLINE_FLAKE_START, or an atomic flake at the port: the message stays at the head of its queue. -/
def State.startService (s : State) (core : Nat) (m : Msg) : State :=
  if hKind m.header = 4 then s.setCtx (svcCtx core) { s.ctx (svcCtx core) with mode := .starting m }
  else s.beginThread (svcCtx core) (inlineThread m)

/-- A message's arrival for a context whose launch is being stopped is latched in the wake mask (R254). -/
def State.latchArrival (s : State) (ctx : Nat) : State := s.setThAt ctx { s.thAt ctx with wake := (s.thAt ctx).wake ||| 64 }

/-- An atomic reply completes the instruction of the context it names, or makes it trap (R63) (DEDUCED, log 34). -/
def State.takeReply (s : State) (core : Nat) (m : Msg) : State :=
  let old := m.payload.getD 0 0
  let w := m.payload.getD 1 0
  let ctx := ctxOf core (wbits w 8 2)
  match (s.thAt ctx).wait with
  | .reply k addr peer =>
    let cause := BitVec.ofNat 8 (wbits w 0 8)
    let s := if s.stopping (s.thAt ctx).launch then s.latchArrival ctx else s
    if cause ≠ 0 then s.trapAt ctx cause (if cause = Cause.illegal then 0 else addr)
    else
      let s := { s.acquireLate ctx with cur := ctx }
      -- no line of the word that the operation has changed outlives it (R96)
      let s := if peer.isNone then s.dropAt addr else s
      match k with
      | .cas _ exp => s.finishAtomic k old (old != exp).toNat
      | .ring d => s.finishRing d old (wbits w 16 2) addr
      | k => s.finishAtomic k old 0
  | _ => s

/-- A reply leaves the mailbox for the atomic port. -/
def State.consumeReply (s : State) (core : Nat) (m : Msg) : State :=
  let cur := s.cur
  { (s.leaveMail core m.id).takeReply core m with cur }

/-- May a core's mailbox advance a head: it has a V cycle in this tick, and has advanced none in it (R52)? -/
def State.mailReady (s : State) (core : Nat) : Bool := !(s.core core).mailBusy && s.beats core

def State.usedMail (s : State) (core : Nat) : State := s.setCore core { s.core core with mailBusy := true }

/-- ATOMIC_REPLY: a reply at the head of its queue. -/
def execAtomicReply (core msg : Nat) (s : State) : Out :=
  .next <| match (s.core core).mail.find? fun m => m.id == msg with
  | none => s
  | some m =>
    if s.mailReady core ∧ m.isReply ∧ ((s.core core).mailOf (hPrio m.header)).head? = some m then
      (s.usedMail core).consumeReply core m
    else s

/-! ## The mailbox (R52) -/

/-- The message whose flake the service context runs. -/
def State.serviceMsg (s : State) (core : Nat) : Option Nat :=
  match (s.ctx (svcCtx core)).mode with
  | .idle => none
  | .starting m => some m.id
  | .running => (s.thAt (svcCtx core)).flake.map (·.msg)

/-- The head of a queue: a message of a stopped launch stays where it stands (R222). -/
def State.mailHead (s : State) (core prio : Nat) : Option Msg :=
  ((s.core core).mailOf prio).find? fun m => s.serviceMsg core == some m.id || !s.heldMsg m

/-- Can a queue head advance? -/
def State.canAdvance (s : State) (core : Nat) (m : Msg) : Bool :=
  let k := hKind m.header
  if k = 6 ∨ m.isReply then true
  else if k = 1 ∨ k = 3 ∨ k = 4 then (s.serviceMsg core).isNone
  else (s.core core).hasEntry || (m.thread.map (·.killed)).getD false

/-- The head that the mailbox advances, the first that can. -/
def State.nextMail (s : State) (core : Nat) : Option Msg :=
  if !s.mailReady core then none
  else [3, 2, 1, 0].findSome? fun p =>
    match s.mailHead core p with
    | some m => if s.canAdvance core m then some m else none
    | none => none

/-- A head goes where its kind says. -/
def State.advance (s : State) (core : Nat) (m : Msg) : State :=
  let k := hKind m.header
  if k = 6 then s.leaveMail core m.id
  else if m.isReply then s.consumeReply core m
  else if k = 1 ∨ k = 3 ∨ k = 4 then s.startService core m
  else
    let s := s.leaveMail core m.id
    match m.thread with
    | some t =>
      if t.killed then s.threadGone t true
      else s.setCore core { s.core core with runq := (s.core core).runq ++ [⟨.msg m, hPrio m.header, 0⟩] }
    | none => s.setCore core { s.core core with runq := (s.core core).runq ++ [⟨.msg m, hPrio m.header, 0⟩] }

/-- MAILBOX_ADVANCE. -/
def execMailboxAdvance (core : Nat) (s : State) : Out :=
  .next <|
    if !(s.core core).backlog.isEmpty ∧ (s.core core).runq.length < runqCapacity then s.setCore core (s.core core).refill
    else match s.nextMail core with
    | none => s
    | some m => (s.usedMail core).advance core m

/-! ## Atomic flakes at the owner (R63, R317, R392) -/

/-- What the port answers: the old value, a status, a ring status, and the state. -/
def State.portOp (s : State) (core : Nat) (m : Msg) : Word × BitVec 8 × Nat × State :=
  let addr := m.payload.getD 0 0
  let w1 := m.payload.getD 1 0
  let opcode := wbits w1 16 8
  let off := wbits addr 0 17
  let key := spadKey core off
  let n := 2 ^ wbits w1 3 2
  let bytes := if opcode = 0x4F ∨ opcode = 0x50 then n else if opcode = 0x51 ∨ opcode = 0x52 then 16 else 24
  if addr ≠ w64 key then (0, Cause.storeFault, 0, s)
  else if (s.badGranule? key bytes).isSome then (0, Cause.mchk, 0, s)
  else if (opcode = 0x51 ∨ opcode = 0x52) ∧ (s.ringError core off (opcode = 0x51)).isSome then (0, Cause.mchk, 0, s)
  else if opcode = 0x4F then
    let (old, _, s) := s.perform key (.rmw (wbits w1 5 4) n (lowBytes (m.payload.getD 2 0) n))
    (w64 old, 0, 0, s)
  else if opcode = 0x50 then
    let (old, _, s) := s.perform key (.cas n (lowBytes (m.payload.getD 3 0) n) (lowBytes (m.payload.getD 2 0) n))
    (w64 old, 0, 0, s)
  else if opcode = 0x51 then
    let (v, st, s) := s.ringOp core off (some (m.payload.getD 2 0))
    -- R392 states no value for a failed RINGENQ: a free one (log 5)
    if st = 0 then (v, 0, 0, s)
    else
      let (i, s) := s.takeFree
      (Config.freeWord i, 0, st, s)
  else if opcode = 0x52 then
    let (v, st, s) := s.ringOp core off none
    (v, 0, st, s)
  else
    let (old, cause, s) := s.barrierOp core off opcode
    (w64 old, cause, 0, s)

/-- ATOMIC_FLAKE: the service context performs the operation at the port, which is free in this V cycle (R101), and replies;
the flake is over. -/
def execAtomicFlake (core : Nat) (s : State) : Out :=
  .next <| match (s.ctx (svcCtx core)).mode with
  | .starting m =>
    if hKind m.header = 4 ∧ !s.portTaken core then
      let (old, status, ring, s) := (s.usePort core).portOp core m
      ((s.reply m core old status ring).leaveMail core m.id).idle (svcCtx core)
    else s
  | _ => s

/-! ## Traps of service flakes (R60, R61) -/

/-- The instructions that a chain may execute. -/
def chainBudget : Nat := 64

/-- FLAKE_OVERRUN: the next instruction would raise spent above the budget. -/
def execFlakeOverrun (core : Nat) (s : State) : Out :=
  .next <| match (s.thAt (svcCtx core)).flake with
  | some f => if chainBudget ≤ f.spent then s.endFlake (svcCtx core) Cause.flakeOverrun 0 else s
  | none => s

/-- SERVICE_FLAKE_TRAP: a trap in inline code. -/
def execServiceFlakeTrap (core : Nat) (cause : BitVec 8) (addr : Word) (s : State) : Out :=
  .next <| match (s.thAt (svcCtx core)).flake with
  | some _ => s.endFlake (svcCtx core) cause addr
  | none => s

end Sys2Proof.Machine
end

