-- ==== Sys2Proof/Machine/Clocks.lean ====
section
/-!
DEFINITION. Sys2Proof/Machine/Clocks.lean: the clock arbiter: costs and grants (R200-R204), evaluations (R199, R205),
transitions and ratio notices (R206, R57), and the power registers (R22, R202).
-/

namespace Sys2Proof.Machine

open Sys2Proof

/-! ## Tuples and cost (R200-R203) -/

/-- p(step), in 1/1,024 of a domain's full power. -/
def powerWeight (step : Nat) : Nat :=
  [32, 56, 88, 130, 181, 243, 316, 401, 499, 609, 733, 871, 1024].getD (step - 4) 1024

def Part.cost (p : Part) (t : Steps) : Nat :=
  p.cM * powerWeight t.m + p.cV * powerWeight t.v + p.cN * powerWeight t.n + p.cB * powerWeight t.b

def Part.feasible (p : Part) (t : Steps) : Bool :=
  decide ((p.cost t : Int) ≤ 1024 * ((p.pwrshare.toNat : Int) - p.cS))

/-- The least share at which the lowest tuple is feasible. -/
def Part.leastShare (p : Part) : Nat := p.cS + ceilDiv (p.cost lowestSteps) 1024

/-- The steps that a request word asks for. -/
def requestSteps (w : Word) : Steps := ⟨wbits w 28 4 + 1, wbits w 24 4 + 1, wbits w 20 4 + 1, wbits w 16 4 + 1⟩

def stepGap (a b : Nat) : Nat := (a - b) + (b - a)

/-- The distance of a tuple from a request. -/
def requestDistance (w : Word) (t : Steps) : Nat :=
  let r := requestSteps w
  wbits w 12 4 * stepGap r.m t.m ^ 2 + wbits w 8 4 * stepGap r.v t.v ^ 2 + wbits w 4 4 * stepGap r.n t.n ^ 2 +
    wbits w 0 4 * stepGap r.b t.b ^ 2

/-- Steps 16 down to a lowest. -/
def stepsDown (low : Nat) : List Nat := (upFrom low (17 - low)).reverse

/-- Every tuple in the ranges of R201, the highest in the order of R203 first. -/
def allTuples : List Steps :=
  (stepsDown 4).flatMap fun m => (stepsDown 4).flatMap fun v => (stepsDown 4).flatMap fun n =>
    (stepsDown 7).map fun b => ⟨m, v, n, b⟩

/-- The grant for a request (R203). -/
def Part.grantFor (p : Part) (w : Word) : Steps :=
  let best (acc : Option Steps) (t : Steps) : Option Steps :=
    if !p.feasible t then acc
    else match acc with
      | none => some t
      | some u => if requestDistance w t < requestDistance w u then some t else acc
  (allTuples.foldl best none).getD lowestSteps

/-! ## The governing launch (R199) -/

def Launch.isFloe (l : Launch) : Bool := wbit (l.block.get 0 0) 58
def Launch.priority (l : Launch) : Nat := wbits (l.block.get 0 0) 59 3
def Launch.uniform (l : Launch) : Bool := l.isFloe && wbit l.clock 32
def Launch.active (l : Launch) : Bool := l.state == .distributing || l.state == .running

/-- Of two launches, the one accepted first. -/
def firstAccepted (a : Option Launch) (b : Launch) : Option Launch :=
  match a with
  | none => some b
  | some x => if b.order < x.order then some b else some x

def higherFirst (a : Option Launch) (b : Launch) : Option Launch :=
  match a with
  | none => some b
  | some x =>
    if x.priority < b.priority ∨ (x.priority = b.priority ∧ b.order < x.order) then some b else some x

def State.launchesOf (s : State) (p : Nat) : List Launch := (s.launches.map (·.2)).filter fun l => l.part == p

def State.governing (s : State) (p : Nat) : Option Launch :=
  let ls := s.launchesOf p
  match (ls.filter fun l => l.uniform && l.active).foldl firstAccepted none with
  | some l => some l
  | none => (ls.filter Launch.active).foldl higherFirst none

/-! ## Transitions (R205, R206, R226) -/

/-- An evaluation of a partition is due (R205). -/
def State.evalDue (s : State) (p : Nat) : State := s.setPart p { s.part p with evalDue := true }

/-- Is a floe launch of the partition being cut? -/
def State.cutting (s : State) (p : Nat) : Bool := s.floes.any fun f => f.2.part == p && f.2.state == .cutting

/-- What an evaluation's result is compared with. -/
def Part.target (p : Part) : Steps :=
  match p.waiting, p.moving with
  | some m, _ => m.steps
  | none, some m => m.steps
  | none, none => p.steps

/-- A new target: its transition begins, or waits behind one or for the end of a cut. -/
def State.setTarget (s : State) (p : Nat) (m : Move) : State :=
  let x := s.part p
  if x.moving.isNone ∧ !s.cutting p then s.setPart p { x with moving := some m, waiting := none }
  else s.setPart p { x with waiting := some m }

/-- A transition that waits begins, where nothing keeps it. -/
def State.startWaiting (s : State) (p : Nat) : State :=
  let x := s.part p
  match x.moving, x.waiting with
  | none, some m => if s.cutting p then s else s.setPart p { x with moving := some m, waiting := none }
  | _, _ => s

/-- The notify core and handler of a launch (R192). -/
def Launch.notifyCore (l : Launch) : Nat :=
  let w := l.block.get 0 14
  coreAt (wbits w 46 2) (wbits w 41 5) (wbits w 36 5)

/-- A ratio notice to a launch that declares a handler (R57). -/
def State.ratioNotice (s : State) (l : Launch) : State :=
  let w := l.block.get 0 14
  if wbit w 63 then
    let p := s.part l.part
    let h := mkHeader 7 3 0 l.notifyCore true 2 (wbits w 0 32)
    s.inject
      { id := 0, header := h, payload := [p.clkgen, p.clkgrant], sender := noSender, part := l.part, launch := l.lid,
        origin := .hardware, lev := false, asid := BitVec.ofNat 16 (wbits (l.block.get 0 11) 0 16), thread := none
        at_ := entryPoint h, entered := true, taker := none, blocked := false }
  else s

/-- The ratio event of a transition's end, in the order of R206. -/
def State.endMove (s : State) (p : Nat) (m : Move) : State :=
  let x := s.part p
  let s := s.setPart p { x with
    moving := none, steps := m.steps, uniform := m.uniform
    power := BitVec.ofNat 16 (x.cost m.steps / 1024 + x.cS)
    clkgen := if m.event then x.clkgen + 1 else x.clkgen }
  if m.event ∧ m.notice then ((s.launchesOf p).filter Launch.active).foldl State.ratioNotice s else s

/-- TRANSITION_END. -/
def execTransitionEnd (part : Nat) (s : State) : Out :=
  .next <| match (s.part part).moving with
  | some m => (s.endMove part m).startWaiting part
  | none => s

/-! ## Evaluation (R205, R208, R209) -/

/-- 100 µs lie between evaluations. -/
def State.mayEvaluate (s : State) (p : Nat) : Bool :=
  (s.part p).evalDue && match (s.part p).lastEval with
  | some t => decide (t + 100000 ≤ s.time.ns)
  | none => true

/-! ## Messages between the members of a floe (R216) -/

def FloeAction.code : FloeAction → Nat
  | .launch => 0
  | .cut => 1
  | .resume => 2

def FloeAction.ofCode : Nat → FloeAction
  | 0 => .launch
  | 1 => .cut
  | _ => .resume

/-- The header and words of a kind-6 message. -/
def FloeMsg.words (m : FloeMsg) : List Word :=
  [w64 (field 6 60 + field 3 32), w64 (field m.floe 32 + m.epoch % 2 ^ 32),
    w64 (field m.acted.toNat 50 + field m.chip 32 + field m.bits 16 + field m.action.code 8 + m.kind), w64 m.arg]

/-- A kind-6 message that arrives at a fabric port; one with no such action is none. -/
def FloeMsg.ofWords : List Word → Option FloeMsg
  | [h, w0, w1, w2] =>
    if hKind h = 6 ∧ wbits w1 8 8 < 3 then
      some { kind := wbits w1 0 8, action := .ofCode (wbits w1 8 8), floe := wbits w0 32 32, epoch := wbits w0 0 32
             chip := wbits w1 32 18, bits := wbits w1 16 16, acted := wbit w1 50, arg := w2.toNat }
    else none
  | _ => none

/-- The event that a message is at its receiver; a type that R216 does not list is none. -/
def FloeMsg.event (m : FloeMsg) : Option Instr :=
  match m.kind with
  | 0 => some (.cutMarker m.floe m.epoch (m.bits % 4) m.chip)
  | 1 => some (.fallbackVoteArrival m.floe ⟨m.epoch, m.action.code⟩ m.chip)
  | 2 => some (.prepare ⟨m.floe, m.chip⟩ ⟨m.epoch, m.action.code⟩)
  | 3 => some (.ready m.floe ⟨m.epoch, m.action.code⟩ m.chip m.acted)
  | 4 => some (.commit ⟨m.floe, m.chip⟩ ⟨m.epoch, m.action.code⟩ m.arg)
  | 5 => some (.cutCompleteReport m.floe m.epoch m.chip m.arg)
  | 6 => some (.frozen ⟨m.floe, m.chip⟩ m.epoch)
  | 7 => some (.broken ⟨m.floe, m.chip⟩ m.epoch m.arg)
  | 8 => some (.uniformReport m.floe m.epoch m.chip (BitVec.ofNat 16 m.arg))
  | 9 => some (.uniformGrant ⟨m.floe, m.chip⟩ m.epoch (BitVec.ofNat 16 m.bits) m.arg)
  | 10 => some (.ended ⟨m.floe, m.chip⟩ m.epoch m.arg)
  | 11 => some (.done (⟨m.floe, m.chip⟩, m.epoch))
  | _ => none

/-- A message to a member, this chip among them. -/
def State.sendFloe (s : State) (chip : Nat) (m : FloeMsg) : State :=
  if chip = s.pkg.chip then { s with localFloe := s.localFloe ++ [m] }
  else { s with outbox := s.outbox ++ [Fabric.floe chip m.words] }

/-- A member that has stopped for the cut before and has not resumed. -/
def Floe.awaitsResume (f : Floe) : Bool :=
  match f.state with
  | .frozen => true
  | .armed => f.action == .resume
  | .fallback => f.back == .armed && f.action == .resume
  | _ => false

/-- The action that comes next, or waits for a commit. -/
def Floe.nextAction (f : Floe) : FloeAction :=
  match f.state with
  | .armed => f.action
  | .fallback => f.votedFor
  | .frozen => .resume
  | _ => .cut

/-- The epoch of an action: a launch leaves it as it is, and a cut before the resume skips the resume's. -/
def Floe.epochOf (f : Floe) : FloeAction → Nat
  | .launch => f.epoch
  | .resume => f.epoch + 1
  | .cut => if f.awaitsResume then f.epoch + 2 else f.epoch + 1

/-- The epoch of the next action. -/
def Floe.nextEpoch (f : Floe) : Nat := f.epochOf f.nextAction

/-- The epoch in which the member's launch runs, or will. -/
def Floe.runEpoch (f : Floe) : Nat := if f.awaitsResume then f.epoch + 1 else f.epoch

/-- A message of this member about an action. -/
def State.floeMsg (s : State) (f : Floe) (kind epoch : Nat) (action : FloeAction) : FloeMsg :=
  { kind, action, floe := f.id, epoch, chip := s.pkg.chip }

/-- A member reports its feasible tuple where it is new. -/
def State.reportFeasible (s : State) (f : Floe) : State :=
  match s.launches.look? f.launch with
  | none => s
  | some l =>
    if l.uniform then
      let t := (s.part l.part).grantFor l.clock
      if f.feasible = some t then s
      else (s.setFloe { f with feasible := some t }).sendFloe f.coordinator
        { s.floeMsg f 8 f.runEpoch f.nextAction with arg := t.codes }
    else s

def State.reportAll (s : State) (p : Nat) : State :=
  ((s.floes.map (·.2)).filter fun f => f.part == p).foldl State.reportFeasible s

/-- Is the target a uniform grant? -/
def Part.targetUniform (p : Part) : Bool :=
  match p.waiting, p.moving with
  | some m, _ => m.uniform
  | none, some m => m.uniform
  | none, none => p.uniform

/-- Does a uniform grant hold the partition's tuple for a launch that has not begun to distribute, or to resume (R209,
R228)? -/
def State.grantHolds (s : State) (p : Nat) : Bool :=
  (s.part p).targetUniform && (s.launchesOf p).any fun l => l.uniform && l.state == .waiting

/-- The evaluation: the grant of the governing launch becomes the target where it differs; a uniform launch's tuple
moves by its grants only. -/
def State.evaluate (s : State) (p : Nat) : State :=
  let s := s.setPart p { s.part p with evalDue := false, lastEval := some s.time.ns }
  let s := match s.governing p with
    | none => s
    | some l =>
      if l.uniform || s.grantHolds p then s
      else
        let t := (s.part p).grantFor l.clock
        if t = (s.part p).target then s else s.setTarget p { steps := t }
  s.reportAll p

/-- ARBITER_EVALUATION. -/
def execArbiterEvaluation (part : Nat) (s : State) : Out :=
  .next <| if s.mayEvaluate part then s.evaluate part else s

/-- COEFFICIENT_UPDATE: the firmware's figures are 16-bit. -/
def execCoefficientUpdate (part cM cV cN cB cS : Nat) (s : State) : Out :=
  .next <| (s.setPart part { s.part part with
    cM := cM % 65536, cV := cV % 65536, cN := cN % 65536, cB := cB % 65536, cS := cS % 65536 }).evalDue part

/-! ## Power registers (R22, R202) -/

def Part.withShare (p : Part) (share : Nat) : Part := { p with pwrshare := BitVec.ofNat 16 (max share p.leastShare) }

def State.writeShare (s : State) (part : Nat) (value : Word) : State :=
  let p := s.part part
  let q := p.withShare (wbits value 0 16)
  if q.pwrshare = p.pwrshare then s else (s.setPart part q).evalDue part

/-- PWRSHARE_WRITE. -/
def execPwrshareWrite (part : Nat) (value : Word) (s : State) : Out := .next (s.writeShare part value)

/-- The cap's limits. -/
def clampCap (x : Nat) : Nat := min 3000 (max 1000 x)

def State.writeCap (s : State) (value : Word) : State :=
  let new := clampCap (wbits value 0 16)
  let old := s.pkg.pwrcap.toNat
  if new = old then s
  else
    { s with
      pkg := { s.pkg with pwrcap := BitVec.ofNat 16 new }
      parts := s.parts.mapVal fun _ p => { p.withShare (p.pwrshare.toNat * new / old) with evalDue := true } }

/-- PWRCAP: a new cap rescales every share. -/
def execPwrcap (value : Word) (s : State) : Out := .next (s.writeCap value)

end Sys2Proof.Machine
end

