-- ==== Sys2Proof/Machine/Population.lean ====
section
/-!
DEFINITION. Sys2Proof/Machine/Population.lean: population domains: the descriptor, slot table and range list with
their checks (R170-R173), ranks, pairs and draws (R177-R179, R181), records (R184, R185), and the parts of a calving
(R180, R182).
-/

namespace Sys2Proof.Machine

open Sys2Proof

/-! ## Accesses of the units that act for no core (R192, R465) -/

/-- The memory key of a unit's access to bulk space under an address space. -/
def State.unitKey (s : State) (part : Nat) (asid : BitVec 16) (addr : Word) (acc : Acc) : Option Nat :=
  match s.resolve (unitIssuer part asid) addr acc with
  | .ok (.bulk k pa) => if k = .control ∨ s.unreachable (.bulk k pa) then none else some (s.physKey part pa)
  | _ => none

def State.unitRead (s : State) (part : Nat) (asid : BitVec 16) (addr : Word) (n : Nat) : Option Nat :=
  (s.unitKey part asid addr .read).map fun k => s.peek k n

/-- `n` words from an address. -/
def State.unitWords (s : State) (part : Nat) (asid : BitVec 16) (addr : Word) : Nat → Option (List Word)
  | 0 => some []
  | n + 1 =>
    match s.unitRead part asid addr 8, s.unitWords part asid (addr + 8) n with
    | some w, some ws => some (w64 w :: ws)
    | _, _ => none

/-! ## The descriptor (R170) -/

abbrev Desc := List Word

def Desc.w (d : Desc) (i : Nat) : Word := d.getD i 0
def Desc.slotKind (d : Desc) : Nat := wbits (d.w 0) 30 2
def Desc.policy (d : Desc) : Nat := wbits (d.w 0) 28 2
def Desc.k (d : Desc) : Nat := wbits (d.w 0) 24 4
def Desc.gauss (d : Desc) : Bool := wbits (d.w 0) 20 4 == 1
def Desc.rangeCount (d : Desc) : Nat := wbits (d.w 0) 16 4 + 1
def Desc.slotCount (d : Desc) : Nat := wbits (d.w 0) 0 16 + 1
def Desc.q (d : Desc) : Nat := wbits (d.w 1) 48 16
def Desc.sigma (d : Desc) : Nat := wbits (d.w 1) 0 32
def Desc.seed (d : Desc) : Word := d.w 2
def Desc.slotTable (d : Desc) : Word := d.w 3
def Desc.rangeList (d : Desc) : Word := d.w 4
def Desc.restart (d : Desc) : Nat := wbits (d.w 5) 0 32
def Desc.ringBase (d : Desc) : Nat := wbits (d.w 6) 6 58 * 64
def Desc.ringSize (d : Desc) : Nat := wbits (d.w 6) 0 6
def Desc.period (d : Desc) : Nat := (d.w 10).toNat

/-- σ: FP32, finite and not negative. -/
def sigmaOk (bits : Nat) : Bool :=
  match Fmt.fp32.decode bits with
  | .fin neg m _ => !neg || m == 0
  | _ => false

/-- The limits of R170 and R465. -/
def Desc.ok (d : Desc) : Bool :=
  let n := d.slotCount
  d.slotKind != 3 && d.policy != 3 &&
    (if d.policy = 1 then decide (2 ≤ d.k) else d.k == 0) && decide (wbits (d.w 0) 20 4 ≤ 1) &&
    (if d.policy = 2 then d.q == 0 else decide (1 ≤ d.q ∧ 2 * d.q ≤ n)) && wbits (d.w 1) 32 16 == 0 &&
    (if d.gauss then sigmaOk d.sigma else d.sigma == 0) &&
    d.slotTable.toNat % 64 == 0 && decide (0x20000 ≤ d.slotTable.toNat) &&
    d.rangeList.toNat % 8 == 0 && decide (0x20000 ≤ d.rangeList.toNat) && wbits (d.w 5) 32 32 == 0 &&
    decide (4 ≤ d.ringSize ∧ d.ringSize ≤ 20 ∧ 0x20000 ≤ d.ringBase) &&
    (d.period == 0 || decide (100000 ≤ d.period)) && (upFrom 11 5).all fun i => d.w i == 0

/-! ## Slots and ranges (R171, R172) -/

def SlotEntry.ofWords (w0 w1 : Word) : SlotEntry :=
  ⟨wbits w0 46 18, coreAt (wbits w0 44 2) (wbits w0 39 5) (wbits w0 34 5), wbits w1 0 13⟩

def slotOk (kind : Nat) (w0 w1 : Word) : Bool :=
  let col := wbits w0 34 5
  wbits w0 32 2 == 0 && wbits w1 13 51 == 0 && decide (wbits w0 39 5 < 24 ∧ col < 24) &&
    (if kind = 1 then col % 8 == 0 else if kind = 2 then col == 0 else true)

/-- The slot table's entries, where each is in its limits. -/
def slotEntries (kind : Nat) : List Word → Option (List SlotEntry)
  | w0 :: w1 :: rest =>
    if slotOk kind w0 w1 then (slotEntries kind rest).map (SlotEntry.ofWords w0 w1 :: ·) else none
  | _ => some []

/-- Bytes of a unit of copying: an element, or the byte of two E2M1 elements; E8M0 is copied byte by byte. -/
def genomeUnit (format : Nat) : Nat :=
  match Fmt.ofCode format with
  | some f => max 1 f.bytes
  | none => 1

/-- Perturbed elements in a unit. -/
def unitElems (format : Nat) : Nat :=
  match Fmt.ofCode format with
  | some f => if f = .e2m1 then 2 else 1
  | none => 0

def GenRange.ofWord (w : Word) : GenRange := ⟨wbits w 62 2, wbits w 58 4, wbits w 29 29, wbits w 0 29⟩

def GenRange.ok (r : GenRange) : Bool :=
  if r.kind = 0 then decide (r.format ≤ 8) && r.len % genomeUnit r.format == 0
  else r.kind == 1 && r.format == 0 && r.off % 64 == 0 && r.len % 64 == 0 && decide (r.off + r.len ≤ 0x20000)

def Domain.genome (d : Domain) : List GenRange := d.ranges.filter fun r => r.kind == 0
def Domain.zeros (d : Domain) : List GenRange := d.ranges.filter fun r => r.kind == 1

/-- The glacier offset of a slot's genome. -/
def SlotEntry.genomeOff (e : SlotEntry) : Nat := e.base * 65536

/-- The granules of a slot's genome on its die. -/
def SlotEntry.granules (e : SlotEntry) (rs : List GenRange) : List Nat :=
  (rs.flatMap fun r =>
    if r.kind ≠ 0 ∨ r.len = 0 then []
    else
      let a := e.genomeOff + r.off
      upFrom (a / 65536) ((a + r.len - 1) / 65536 + 1 - a / 65536)).eraseDups

def SlotEntry.inGlacier (e : SlotEntry) (rs : List GenRange) : Bool :=
  rs.all fun r => r.kind != 0 || decide (e.genomeOff + r.off + r.len ≤ 2 ^ 29)

/-- Are the genomes of different slots disjoint? -/
def slotsDisjoint (rs : List GenRange) : List SlotEntry → Bool
  | [] => true
  | e :: es =>
    (es.all fun f => e.chip != f.chip || dieOf e.core != dieOf f.core ||
      (e.granules rs).all fun g => !(f.granules rs).contains g) && slotsDisjoint rs es

/-! ## Registration (R173) -/

/-- The granules that the slots of this chip bind. -/
def State.domainBindings (s : State) (k : Nat) (slots : List SlotEntry) (rs : List GenRange) : List Binding :=
  (slots.filter fun e => e.chip == s.pkg.chip).flatMap fun e =>
    (e.granules rs).map fun g => ⟨none, some k, dieOf e.core, g, 1⟩

/-- Would new bindings raise a granule's count past 0xFFFF? -/
def State.bindingsFit (s : State) (bs : List Binding) : Bool :=
  let s' : State := { s with bindings := s.bindings ++ bs }
  bs.all fun b => (upFrom b.first b.count).all fun g => decide (s'.bindCount b.die g ≤ 0xFFFF)

/-- A domain as the controller checks it for a launch: its key, and the domain, where it is registered or passes
R173 (its bindings apart) (DEDUCED, log 32) (DEDUCED, log 54). -/
def State.checkDomain (s : State) (part : Nat) (asid : BitVec 16) (addr : Word) : Option (Nat × Domain) :=
  match s.unitKey part asid addr .read with
  | none => none
  | some k =>
    match s.domains.look? k with
    | some d => some (k, d)
    | none =>
      if addr.toNat % 64 ≠ 0 then none
      else match s.unitWords part asid addr 16 with
      | none => none
      | some desc =>
        if !Desc.ok desc then none
        else match s.unitWords part asid (Desc.slotTable desc) (2 * Desc.slotCount desc),
          s.unitWords part asid (Desc.rangeList desc) (Desc.rangeCount desc) with
        | some tw, some rw =>
          match slotEntries (Desc.slotKind desc) tw with
          | none => none
          | some slots =>
            let ranges := rw.map GenRange.ofWord
            if ranges.all GenRange.ok && slots.all (fun e => e.chip != s.pkg.chip || e.inGlacier ranges) &&
                slotsDisjoint ranges slots then
              some (k, { addr, desc, slots, ranges, domainId := BitVec.ofNat 32 (wbits (Desc.w desc 0) 32 32), asid, part,
                         launches := [], lastTimer := if Desc.period desc = 0 then 0 else s.time.ns / Desc.period desc })
            else none
        | _, _ => none

/-- A unit's write under a domain's address space. -/
def State.domainWrite (s : State) (d : Domain) (addr : Word) (n x : Nat) : State :=
  match s.unitKey d.part d.asid addr .write with
  | some k => s.landLE k n x
  | none => s

/-- The address of a slot's fitness word. -/
def Domain.fitAddr (d : Domain) (slot : Nat) : Word := Desc.slotTable d.desc + w64 (16 * slot)

/-- The canonical NaN, a slot's fitness at registration and after a failed calving. -/
def fitNan : BitVec 32 := 0x7FC00000

/-! ## The fields of a descriptor that change (R170) -/

def Domain.producerAddr (d : Domain) : Word := d.addr + 0x38
def Domain.consumerAddr (d : Domain) : Word := d.addr + 0x40
def Domain.roundAddr (d : Domain) : Word := d.addr + 0x48

/-- A field of a domain's descriptor as memory has it. -/
def State.domainField (s : State) (d : Domain) (addr : Word) : Option Word :=
  (s.unitRead d.part d.asid addr 8).map w64

/-- Has a program written a field that only the unit writes? It then holds something else than the unit's own count; a
write of the same number is not told from none (DEDUCED, log 54). -/
def State.spoils (s : State) (d : Domain) (addr own : Word) : Bool :=
  match s.domainField d addr with
  | some w => w != own
  | none => false

/-- The value of a field that the unit alone writes: a free value once a program has written it (log 5). -/
def unitField (spoilt : Bool) (addr own : Word) : Word := if spoilt then Config.spoiltField addr own else own

/-- A domain's producer and round fields after a step: one that a program has written holds a free value from then on. -/
def State.spoilDomain (s : State) (k : Nat) (d : Domain) : State :=
  let producer := unitField d.spoiltProducer d.producerAddr d.produced
  let round := unitField d.spoiltRound d.roundAddr d.begun
  let badProducer := s.spoils d d.producerAddr producer
  let badRound := s.spoils d d.roundAddr round
  if !badProducer && !badRound then s
  else
    let s := if badProducer then s.domainWrite d d.producerAddr 8 (unitField true d.producerAddr d.produced).toNat else s
    let s := if badRound then s.domainWrite d d.roundAddr 8 (unitField true d.roundAddr d.begun).toNat else s
    s.setDomain k { d with spoiltProducer := d.spoiltProducer || badProducer, spoiltRound := d.spoiltRound || badRound }

/-- The fields of every domain that only the selection unit writes (R170). -/
def State.spoilFields (s : State) : State := s.domains.foldl (fun s d => s.spoilDomain d.1 d.2) s

/-- Records ever written, rounds begun, and records consumed. -/
def State.producer (s : State) (k : Nat) : Word :=
  match s.domains.look? k with
  | some d => unitField (d.spoiltProducer || s.spoils d d.producerAddr d.produced) d.producerAddr d.produced
  | none => 0

def State.roundField (s : State) (k : Nat) : Word :=
  match s.domains.look? k with
  | some d => unitField (d.spoiltRound || s.spoils d d.roundAddr d.begun) d.roundAddr d.begun
  | none => 0

/-- A consumer field that has no translation any more is a free value (log 5). -/
def State.consumer (s : State) (k : Nat) : Word :=
  match s.domains.look? k with
  | some d => (s.domainField d d.consumerAddr).getD (Config.spoiltField d.consumerAddr d.produced)
  | none => 0

/-- The unit writes its producer field. -/
def State.setProducer (s : State) (k : Nat) (v : Word) : State :=
  match s.domains.look? k with
  | none => s
  | some d =>
    let spoilt := d.spoiltProducer || s.spoils d d.producerAddr d.produced
    (s.domainWrite d d.producerAddr 8 (unitField spoilt d.producerAddr v).toNat).setDomain k
      { d with produced := v, spoiltProducer := spoilt }

/-- The unit writes its round field. -/
def State.setRound (s : State) (k : Nat) (v : Word) : State :=
  match s.domains.look? k with
  | none => s
  | some d =>
    let spoilt := d.spoiltRound || s.spoils d d.roundAddr d.begun
    (s.domainWrite d d.roundAddr 8 (unitField spoilt d.roundAddr v).toNat).setDomain k
      { d with begun := v, spoiltRound := spoilt }

/-- A launch that names a domain is accepted. -/
def State.nameDomain (s : State) (k lid : Nat) (d : Domain) : State :=
  match s.domains.look? k with
  | some d => s.setDomain k { d with launches := d.launches ++ [lid] }
  | none =>
    let s := { s with bindings := s.bindings ++ s.domainBindings k d.slots d.ranges }
    let s := s.domainWrite d d.producerAddr 8 0
    let s := s.setDomain k { d with launches := [lid], begun := (s.domainField d d.roundAddr).getD 0 }
    (upFrom 0 d.slots.length).foldl (fun s i => s.domainWrite d (d.fitAddr i) 4 fitNan.toNat) s

/-- A launch that names a domain is over: the registration passes on, or ends with its bindings. -/
def State.unnameDomain (s : State) (lid : Nat) : State :=
  match (s.launches.look? lid).bind (·.domain) with
  | none => s
  | some k =>
    match s.domains.look? k with
    | none => s
    | some d =>
      match d.launches.filter (· != lid) with
      | [] => { s with
          domains := s.domains.erase k
          bindings := s.bindings.filter fun b => !(b.domain == some k && b.launch.isNone) }
      | l :: ls =>
        let asid := match s.launches.look? l with
          | some x => BitVec.ofNat 16 (wbits (x.block.get 0 11) 0 16)
          | none => d.asid
        s.setDomain k { d with launches := l :: ls, asid }

/-! ## Ranks and pairs (R178, R179) -/

/-- Does one (slot, fitness) rank better than another? -/
def ranksBetter (a b : Nat × BitVec 32) : Bool :=
  let x := Fmt.fp32.decode a.2.toNat
  let y := Fmt.fp32.decode b.2.toNat
  if x.isNan ∧ y.isNan then decide (a.1 < b.1)
  else if x.isNan then false
  else if y.isNan then true
  else if y.lt x then true
  else if x.lt y then false
  else decide (a.1 < b.1)

def insertRank (a : Nat × BitVec 32) : List (Nat × BitVec 32) → List (Nat × BitVec 32)
  | [] => [a]
  | b :: bs => if ranksBetter a b then a :: b :: bs else b :: insertRank a bs

/-- The slots from rank 0 up. -/
def rankSlots (xs : List (Nat × BitVec 32)) : List (Nat × BitVec 32) := xs.foldr insertRank []

/-- Pick(m) with the draw number c. -/
def pick (rk : Word) (c m : Nat) : Nat := (flurry rk (w64 c)).toNat / 2 ^ 32 * m / 2 ^ 32

/-- Rank pairs (loser, parent) under TRUNC. -/
def truncPairs (rk : Word) (n q : Nat) : List (Nat × Nat) :=
  (upFrom 0 q).map fun i => (n - q + i, pick rk i q)

/-- Under TOURN: `a` holds the ranks not yet in a pair, `c` the next draw. The fuel is every draw that a counter of 64
bits can make. -/
def tournPairs (rk : Word) (k q : Nat) : Nat → Nat → List Nat → List (Nat × Nat) → List (Nat × Nat)
  | 0, _, _, ps => ps
  | fuel + 1, c, a, ps =>
    if q ≤ ps.length ∨ a.length < 2 then ps
    else
      let xs := (upFrom c k).map fun c => pick rk c a.length
      let lo := xs.foldl min a.length
      let hi := xs.foldl max 0
      if lo = hi then tournPairs rk k q fuel (c + k) a ps
      else
        let pl := a.getD hi 0
        let pp := a.getD lo 0
        tournPairs rk k q fuel (c + k) (a.filter fun r => r != pl && r != pp) (ps ++ [(pl, pp)])

def insertPair (p : Nat × Nat) : List (Nat × Nat) → List (Nat × Nat)
  | [] => [p]
  | r :: rs => if p.1 < r.1 then p :: r :: rs else r :: insertPair p rs

/-- The rank pairs of a round, in increasing loser rank. -/
def roundPairs (d : Desc) (rk : Word) : List (Nat × Nat) :=
  let n := d.slotCount
  if d.policy = 0 then truncPairs rk n d.q
  else if d.policy = 1 then (tournPairs rk d.k d.q (2 ^ 64) 0 (upFrom 0 n) []).foldr insertPair []
  else []

/-! ## Perturbation (R181) -/

/-- The calving key of a pair. -/
def calvingKey (rk : Word) (loser : Nat) : Word := flurry rk (w64 (0x8000000000000000 + loser))

/-- Perturb(w, fmt, e, ckey, σ): the encoding and the flags of its roundings. -/
def perturb (w : Nat) (f : Fmt) (e : Nat) (ckey : Word) (sigma : Nat) : Nat × BitVec 8 :=
  let w0 := flurry ckey (w64 (2 * e))
  let w1 := flurry ckey (w64 (2 * e + 1))
  let sum := wbits w0 48 16 + wbits w0 32 16 + wbits w1 48 16 + wbits w1 32 16
  let dec (x : Nat) : Num := Fmt.fp32.decode x
  let g := roundTo (Num.mul (numOfInt ((sum : Int) - 131070)) (dec 0x3AD8B9AD)).1 .fp32 .rne false 0
  let p := roundTo (Num.mul (dec sigma) (dec g.bits)).1 .fp32 .rne false 0
  let t := roundTo (Num.add false (f.decode w) (dec p.bits)).1 .fp32 .rne false 0
  let r := roundTo (dec t.bits) f .sr false (wbits w1 0 32)
  (r.bits, g.flags ||| p.flags ||| t.flags ||| r.flags)

/-- A unit at an offset of the parent's genome, with `e` the index of its first element. -/
def State.chunk (s : State) (d : Desc) (ckey : Word) (base : Nat) (r : GenRange) (off e : Nat) : Chunk :=
  let n := genomeUnit r.format
  let k := base + off
  let w := s.peek k n
  let bad := (s.badGranule? k n).isSome
  match Fmt.ofCode r.format with
  | none => ⟨off, leBytes n w, 0, 0, bad⟩
  | some f =>
    if !d.gauss then ⟨off, leBytes n w, 0, unitElems r.format, bad⟩
    else if f = .e2m1 then
      let (lo, a) := perturb (w % 16) f e ckey d.sigma
      let (hi, b) := perturb (w / 16) f (e + 1) ckey d.sigma
      ⟨off, leBytes 1 (lo + 16 * hi), a ||| b, 2, bad⟩
    else
      let (x, a) := perturb w f e ckey d.sigma
      ⟨off, leBytes n x, a, 1, bad⟩

/-- The units of a genome in order: the range, the offset, and the index of the unit's first element. -/
def genomeUnits : List GenRange → Nat → List (GenRange × Nat × Nat)
  | [], _ => []
  | r :: rs, e =>
    let n := r.len / genomeUnit r.format
    ((upFrom 0 n).map fun i => (r, r.off + i * genomeUnit r.format, e + i * unitElems r.format)) ++
      genomeUnits rs (e + n * unitElems r.format)

/-- A calving at work: the machine, what it has done, its access that waits, and whether it waits (R73). -/
structure Calving where
  s : State
  c : Calve
  waits : Option (Nat × Nat) := none
  paused : Bool := false

/-- Does the calving neither wait nor fail? -/
def Calving.goes (g : Calving) : Bool := !g.paused && g.c.status == 0

/-- The calving's access to `n` bytes at a glacier key: it is performed unless it waits at its port. -/
def Calving.access (g : Calving) (k n : Nat) (f : Calving → Calving) : Calving :=
  let number := g.waits.map (·.2)
  let held (k : Nat) : Bool := g.s.portHolds k number
  if held k ∨ held (k + n - 1) then
    match g.waits with
    | some _ => { g with paused := true }
    | none =>
      { g with s := g.s.fresh.2, waits := some (if held k then k else k + n - 1, g.s.nextId), paused := true }
  else f { g with waits := none }

/-- A unit is read from the parent's genome; an uncorrectable error ends the calving. -/
def Calving.read (g : Calving) (d : Desc) (ckey : Word) (base : Nat) (u : GenRange × Nat × Nat) : Calving :=
  if !g.goes || g.c.chunk.isSome then g
  else g.access (base + u.2.1) (genomeUnit u.1.format) fun g =>
    let ch := g.s.chunk d ckey base u.1 u.2.1 u.2.2
    if ch.bad then { g with c := { g.c with status := 0x06, fault := w64 (base + u.2.1) } }
    else { g with c := { g.c with chunk := some ch } }

/-- The granules that hold `n` bytes from an offset: an element may lie in two. -/
def granulesOf (off n : Nat) : List Nat := [off / 65536, (off + n - 1) / 65536]

/-- Write the unit in hand to the loser's genome; a granule bound otherwise ends the calving (R71, R72, R180), unless its
port has accepted the write before. -/
def Calving.write (g : Calving) (k die base : Nat) : Calving :=
  match g.c.chunk with
  | none => g
  | some ch =>
    let off := base + ch.off
    let n := ch.bytes.length
    if !g.goes then g
    else match (granulesOf off n).find? fun x => g.waits.isNone && g.s.boundBy die x (some k) with
    | some x =>
      { g with c := { g.c with status := 0x03, flags := g.c.flags ||| ch.flags,
                               fault := w64 (glacierKey die (max off (x * 65536))) } }
    | none => g.access (glacierKey die off) n fun g =>
      { g with
        s := g.s.land (glacierKey die off) ch.bytes
        c := { g.c with chunk := none, next := g.c.next + 1, bytes := g.c.bytes + n, elems := g.c.elems + ch.elems,
                        flags := g.c.flags ||| ch.flags } }

/-- A unit of a stream that has come is in hand. -/
def Calving.take (g : Calving) (ch : Chunk) : Calving :=
  if !g.goes || g.c.chunk.isSome then g else { g with c := { g.c with chunk := some ch } }

/-- The unit in hand joins the stream to another chip. -/
def Calving.push (g : Calving) : Calving :=
  match g.c.chunk with
  | none => g
  | some ch =>
    { g with c := { g.c with chunk := none, next := g.c.next + 1, flags := g.c.flags ||| ch.flags, out := g.c.out ++ ch.bytes } }

/-- The perturbed elements in the first bytes of a genome. -/
def elemsIn : List GenRange → Nat → Nat
  | [], _ => 0
  | r :: rs, n => min n r.len / genomeUnit r.format * unitElems r.format + elemsIn rs (n - r.len)

/-- A stream of bytes as units of the loser's genome, none of them perturbed here (R183). -/
def streamChunks : List GenRange → List Byte → List Chunk
  | [], _ => []
  | r :: rs, bs =>
    let n := genomeUnit r.format
    ((upFrom 0 (min r.len bs.length / n)).map fun i =>
      (⟨r.off + i * n, (bs.drop (i * n)).take n, 0, unitElems r.format, false⟩ : Chunk)) ++
      streamChunks rs (bs.drop r.len)

/-! ## Quiescence and the end of swapped threads (R180 steps 1 and 2) -/

/-- The cores of a slot, in order of position. -/
def slotCores (kind : Nat) (e : SlotEntry) : List Nat :=
  if kind = 0 then [e.core] else if kind = 1 then upFrom e.core 8 else upFrom e.core 24

/-- Is the image of a launch being taken: is its floe CUTTING, so that its threads count as RUNNING until it is FROZEN
(R180, R226)? -/
def State.beingCut (s : State) (lid : Nat) : Bool :=
  s.floes.any fun f => f.2.launch == lid && f.2.state == .cutting

/-- Does a message start a thread, or carry one? -/
def Msg.bringsThread (m : Msg) : Bool :=
  let k := hKind m.header
  k == 0 || k == 2 || k == 7 || (k == 5 && !m.isReply)

/-- The core at which a captured message lies: its taking core, the only one that may take it, or the router it is at. -/
def Msg.liesAt (m : Msg) : Nat :=
  match m.taker with
  | some c => c
  | none => if hExact m.header then hCore m.header else m.at_

/-- Does an image that is being taken hold a thread of the launches on the cores, a message that brings one, or a job? -/
def State.cutHolds (s : State) (launches cores : List Nat) : Bool :=
  s.images.any fun i => launches.contains i.2.launch && s.beingCut i.2.launch &&
    ((i.2.threads.any fun t => cores.contains (coreOfCtx t.1)) || (i.2.queued.any fun e => cores.contains e.1) ||
      (i.2.captured.any fun m => m.bringsThread && cores.contains m.liesAt) ||
      i.2.jobs.any fun j => j.2.cores.any cores.contains)

/-- Is any thread of the launches placing, queued or running on the cores, or a job of one incomplete? -/
def State.busy (s : State) (launches cores : List Nat) : Bool :=
  let mine (e : RunEntry) : Bool := launches.contains e.entry.launchOf
  s.cutHolds launches cores ||
  (s.ctxs.any fun c => cores.contains (coreOfCtx c.1) && match c.2.mode with
    | .idle => false
    | .starting m => m.bringsThread && launches.contains m.launch
    | .running => c.1 % 4 != 3 && launches.contains c.2.th.launch) ||
    (s.cores.any fun c => cores.contains c.1 &&
      (c.2.runq.any mine || c.2.backlog.any mine || c.2.mail.any fun m => m.bringsThread && launches.contains m.launch)) ||
    (s.mesh.any fun m => m.bringsThread && launches.contains m.launch && match m.taker with
      | some c => cores.contains c
      | none => hExact m.header && cores.contains (hCore m.header)) ||
    s.jobs.any fun j => launches.contains j.2.launch && j.2.cores.any cores.contains

/-- The thread that a queued entry holds, or is to be: a spawn message names its join counter (R29). -/
def Entry.asThread : Entry → Option Thread
  | .thread t => some t
  | .msg m => match m.thread with
    | some t => some t
    | none => if m.origin = .spawn then some { join := m.payload.getD 0 0, part := m.part, launch := m.launch } else none

/-- Swapped threads of the launches whose image lies on the cores end as killed. -/
def State.endSwapped (s : State) (launches cores : List Nat) : State :=
  let gone (core : Nat) (lid : Nat) : Bool := cores.contains core && launches.contains lid
  let dead : List Thread := s.images.flatMap fun i =>
    ((i.2.threads.filter fun t => gone (coreOfCtx t.1) t.2.launch).map (·.2)) ++
      ((i.2.queued.filter fun e => gone e.1 e.2.entry.launchOf).filterMap fun e => e.2.entry.asThread) ++
      ((i.2.captured.filter fun m => m.bringsThread && gone m.liesAt m.launch).filterMap fun m => (Entry.msg m).asThread)
  let s : State := { s with images := s.images.mapVal fun _ i =>
      { i with
        threads := i.threads.filter fun t => !gone (coreOfCtx t.1) t.2.launch
        queued := i.queued.filter fun e => !gone e.1 e.2.entry.launchOf
        captured := i.captured.filter fun m => !(m.bringsThread && gone m.liesAt m.launch) } }
  dead.foldl (fun s t => s.threadGone t true) s

/-- R180 step 5: the zero-on-calve ranges, in the scratchpads and in images. -/
def State.zeroRanges (s : State) (rs : List GenRange) (cores : List Nat) : State :=
  cores.foldl (fun s c => rs.foldl (fun s r =>
    let k := spadKey c r.off
    let s := s.land k (List.replicate r.len 0)
    { s with images := s.images.mapVal fun _ i =>
        { i with lines := i.lines.map fun l =>
            (l.1, (l.2.zip (upFrom l.1 l.2.length)).map fun b => if k ≤ b.2 ∧ b.2 < k + r.len then 0 else b.1) } }) s) s

/-! ## Restart (R182) -/

/-- The message that starts a restarted loser's thread on a core of the slot. -/
def restartMsg (l : Launch) (d : Desc) (ckey : Word) (core pos loser parent parentChip : Nat)
    (round : Word) : Msg :=
  let level := wbits (l.block.get 0 0) 59 3 / 2
  { id := 0, header := mkHeader 0 level 0 core true 12 d.restart
    payload := [0, flurry ckey (w64 (0xFFFFFFFF00000000 + pos)), w64 (field level 24), w64 pos, w64 loser, w64 parent,
      round, w64 parentChip] ++ (upFrom 7 4).map (l.block.get 0)
    sender := noSender, part := l.part, launch := l.lid, origin := .spawn, lev := l.trusted
    asid := BitVec.ofNat 16 (wbits (l.block.get 0 11) 0 16), thread := none, at_ := core, entered := true
    taker := none, blocked := false }

/-- A restart joins the image of a launch that is swapped, or that is being cut and has its image taken; it queues at its
core where the launch is stopped and its image still to be taken; and otherwise it enters the mesh. -/
def State.placeRestart (s : State) (l : Launch) (core : Nat) (m : Msg) : State :=
  let e : RunEntry := ⟨.msg m, hPrio m.header, 0⟩
  if l.inImage || s.floes.any fun f => f.2.launch == l.lid && f.2.state == .cutting && f.2.imaged then
    s.onImage l fun i => { i with queued := i.queued ++ [(core, e)] }
  else if l.stopping then s.setCore core { s.core core with backlog := (s.core core).backlog ++ [e] }
  else s.inject m

def State.restartLoser (s : State) (d : Domain) (rk round : Word) (loser parent parentChip : Nat) : State :=
  match d.launches.head?.bind s.launches.look?, d.slots[loser]? with
  | some l, some e =>
    let cores := slotCores (Desc.slotKind d.desc) e
    (cores.zip (upFrom 0 cores.length)).foldl (fun s c =>
      s.placeRestart l c.1
        (restartMsg l d.desc (calvingKey rk loser) c.1 c.2 loser parent parentChip round)) s
  | _, _ => s

/-! ## Records (R184, R185) -/

/-- A record's words; word 1, the time, is taken when it is written (DEDUCED, log 56). -/
def moraineRecord (d : Domain) (round : Word) (kind : Nat) (status flags : BitVec 8) (loserChip loser parentChip parent : Nat)
    (key : Word) (elems : Nat) (parentFit loserFit : BitVec 32) : List Nat :=
  [round.toNat, 0, field d.domainId.toNat 32 + field kind 24 + field status.toNat 16 + field flags.toNat 8,
    field loserChip 16 + loser % 65536, field parentChip 16 + parent % 65536, key.toNat,
    field (elems % 2 ^ 32) 32 + Desc.sigma d.desc, field parentFit.toNat 32 + loserFit.toNat]

def withTime (ns : Nat) : List Nat → List Nat
  | r :: _ :: rest => r :: ns :: rest
  | r => r

/-- Write the oldest owed record, where the ring has space. -/
def State.writeOwed (s : State) (k : Nat) (d : Domain) : Option State :=
  match d.owed with
  | [] => none
  | r :: rest =>
    let p := s.producer k
    if (p - s.consumer k).toNat = 2 ^ Desc.ringSize d.desc then none
    else
      match s.unitKey d.part d.asid (w64 (Desc.ringBase d.desc + 64 * (p.toNat % 2 ^ Desc.ringSize d.desc))) .write with
      | none => none
      | some a =>
        let s := s.land a ((withTime s.time.ns r).flatMap (leBytes 8))
        some ((s.setDomain k { d with owed := rest }).setProducer k (d.produced + 1))

end Sys2Proof.Machine
end

