-- ==== Sys2Proof/Machine/Selection.lean ====
section
/-!
DEFINITION. Sys2Proof/Machine/Selection.lean: the selection unit: rounds (R176, R177), calving (R180), drift between
chips (R183, R342), the selection jobs (R325, R342, R380, R394), and the moraine ring's space (R185).
-/

namespace Sys2Proof.Machine

open Sys2Proof

/-! ## Work of a domain, one at a time (R176, R363) -/

def Domain.idle (d : Domain) : Bool :=
  d.phase == .idle && d.drift.isNone && d.calve.isNone && d.job.isNone && d.fin.isNone && d.owed.isEmpty && d.requests.isEmpty

/-- The domain that a job names by its address, and that its launch names. -/
def State.selDomain (s : State) (j : Job) : Option Nat :=
  match s.launches.look? j.launch with
  | none => none
  | some l =>
    match l.domain with
    | none => none
    | some k =>
      if w64 (CmdWord.bits j.word 136 64) = l.block.get 0 47 ∧ (s.domains.look? k).isSome then some k else none

/-- Is a job a SELROUND of a domain? -/
def State.isRound (s : State) (k : Nat) (j : Job) : Bool :=
  j.cls == 2 && CmdWord.opcode j.word == 1 && s.selDomain j == some k

/-- The timer rounds that have not begun: one of the B cycle in which a SELROUND is accepted is that round (R186). -/
def State.timersOf (s : State) (k : Nat) (d : Domain) : List (Nat × Nat) :=
  d.timers.filter fun t => !(s.jobs.any fun j => s.isRound k j.2 && j.2.cycle == t.2)

/-- Is it a queued selection job's turn? Jobs and rounds of a domain go in order of acceptance. -/
def State.selTurn (s : State) (n : Nat) (j : Job) : Bool :=
  j.cls == 2 && j.state == .queued && match s.selDomain j with
  | none => true
  | some k =>
    match s.domains.look? k with
    | none => true
    | some d =>
      d.idle && (match s.timersOf k d with
        | t :: _ => decide (n < t.1)
        | [] => true) &&
        !(s.jobs.any fun e => decide (e.1 < n) && e.2.cls == 2 && e.2.state == .queued && s.selDomain e.2 == some k)

/-- A selection job ends with a status and a count. -/
def State.selEnd (s : State) (n : Nat) (status : BitVec 8) (delivered : Nat) (addr : Word) : State :=
  match s.jobs.look? n with
  | none => s
  | some j =>
    s.setJob n { j with state := .bodyDone, status, delivered, faultAddr := addr, tokenOnly := CmdWord.tokenOnly j.word }

/-- A record is owed; `own` counts it as one of the round in hand, which those of a served drift request are not. -/
def State.addRecord (s : State) (k : Nat) (own : Bool) (r : List Nat) : State :=
  match s.domains.look? k with
  | none => s
  | some d => s.setDomain k { d with owed := d.owed ++ [r], records := d.records + own.toNat }

/-- Write what is owed while the ring has space; a job whose work is over gets its token, and a round ends. -/
def State.settle (s : State) (k : Nat) : Nat → State
  | 0 => s
  | fuel + 1 =>
    match s.domains.look? k with
    | none => s
    | some d =>
      match s.writeOwed k d with
      | some s => s.settle k fuel
      | none =>
        if !d.owed.isEmpty ∨ d.drift.isSome ∨ d.calve.isSome then s
        else match d.fin, d.job with
        | some (st, n, a), some j => (s.setDomain k { d with fin := none, job := none }).selEnd j st n a
        | some _, none => s.setDomain k { d with fin := none }
        | none, j =>
          if d.phase = .pairs [] then
            let s := s.setDomain k { d with phase := .idle, job := none }
            match j with
            | some n => s.selEnd n 0 (64 * d.records) 0
            | none => s
          else s

/-- Settle a domain: no more records are ever owed at once than it holds. -/
def State.settled (s : State) (k : Nat) : State :=
  match s.domains.look? k with
  | some d => s.settle k (d.owed.length + 1)
  | none => s

/-! ## Calving (R180) -/

/-- Steps 1 and 2: is the loser quiescent, and if so the state in which its swapped threads have ended and its binding
is suspended. -/
def State.readyLoser (s : State) (k : Nat) (d : Domain) (loser : Nat) : Option State :=
  match d.slots[loser]? with
  | none => none
  | some e =>
    let cores := slotCores (Desc.slotKind d.desc) e
    if s.busy d.launches cores then none
    else
      let s := s.endSwapped d.launches cores
      match s.domains.look? k with
      | some d => some (s.setDomain k { d with suspended := some loser })
      | none => some s

/-- Steps 5 to 7, or what a failure leaves: the binding is whole again. -/
def State.finishLoser (s : State) (k : Nat) (loser parent parentChip : Nat) (rk round : Word) (status : BitVec 8) : State :=
  match s.domains.look? k with
  | none => s
  | some d =>
    let s := s.setDomain k { d with suspended := none }
    if status ≠ 0 then s.domainWrite d (d.fitAddr loser) 4 fitNan.toNat
    else match d.slots[loser]? with
      | some e =>
        (s.zeroRanges d.zeros (slotCores (Desc.slotKind d.desc) e)).restartLoser d rk round loser parent parentChip
      | none => s

def Domain.chipOf (d : Domain) (slot : Nat) : Nat := (d.slots[slot]?.map (·.chip)).getD 0

/-- The glacier key of a slot's genome. -/
def SlotEntry.genomeKey (e : SlotEntry) : Nat := glacierKey (dieOf e.core) e.genomeOff

/-- The token of a CALVE or DRIFT by its record's status (R325, R342), with the first address that failed (R82). -/
def driftToken (status : BitVec 8) (bytes : Nat) (fault : Word) : BitVec 8 × Nat × Word :=
  if status = 0 then (0, bytes, 0) else if status = 0x07 ∨ status = 0x09 then (0, 0, 0) else (status, bytes, fault)

/-- A pair of this chip is over: its record is owed, and the token of a CALVE job, of which it is no round's pair. -/
def State.endPair (s : State) (k : Nat) (d : Domain) (p : Pair) (rk round : Word) (loserFit parentFit : BitVec 32) (c : Calve) :
    State :=
  let me := s.pkg.chip
  let s := s.addRecord k true (moraineRecord d round 0 c.status c.flags me p.loser me p.parent (calvingKey rk p.loser) c.elems
    parentFit loserFit)
  match s.domains.look? k with
  | some d => if d.phase = .idle then s.setDomain k { d with fin := some (driftToken c.status c.bytes c.fault) } else s
  | none => s

/-- A drift is over on this chip: its record, and its job's token. -/
def State.endDrift (s : State) (k : Nat) (dr : Drift) (status : BitVec 8) (bytes : Nat) (flags : BitVec 8) (fault : Word) :
    State :=
  match s.domains.look? k with
  | none => s
  | some d =>
    let s := s.setDomain k { d with drift := none, fin := if dr.job.isSome then some (driftToken status bytes fault) else d.fin }
    let me := s.pkg.chip
    let (lc, pc) := if dr.loserHere then (me, dr.peer) else (dr.peer, me)
    let elems := elemsIn d.genome bytes
    s.addRecord k (!dr.byRequest) (moraineRecord d dr.round (if dr.loserHere then 2 else 1) status flags lc dr.pair.loser pc
      dr.pair.parent (calvingKey dr.rk dr.pair.loser) elems dr.parentFit dr.loserFit)

/-- The address at which the other chip's side of a drift failed: no message brings it, so it is a free value (log 5)
(DESIGN CHOICE, log 55). -/
def State.peerFault (s : State) : Word × State :=
  let (i, s) := s.takeFree
  (Config.freeWord i, s)

/-- The units of the calving in hand, from the next one on, up to one that fails or waits. -/
def State.runCalve (s : State) (k : Nat) (d : Domain) (c : Calve) : Calving :=
  let g : Calving := { s, c, waits := d.waits }
  match c.kind, d.drift with
  | .pair p rk _ _ _, _ =>
    match d.slots[p.loser]?, d.slots[p.parent]? with
    | some l, some e => ((genomeUnits d.genome 0).drop c.next).foldl (fun g u =>
        (g.read d.desc (calvingKey rk p.loser) e.genomeKey u).write k (dieOf l.core) l.genomeOff) g
    | _, _ => g
  | .stream bytes _, some dr =>
    match d.slots[dr.pair.loser]? with
    | some l => ((streamChunks d.genome bytes).drop c.next).foldl (fun g ch => (g.take ch).write k (dieOf l.core) l.genomeOff) g
    | none => g
  | .send, some dr =>
    match d.slots[dr.pair.parent]? with
    | some e => ((genomeUnits d.genome 0).drop c.next).foldl (fun g u =>
        (g.read d.desc (calvingKey dr.rk dr.pair.loser) e.genomeKey u).push) g
    | none => g
  | _, none => g

/-- The calving in hand has ended. The loser's chip acknowledges a stream: it rounds nothing, so its record has no flags
(R462). The parent's chip sends what it has read, up to a read that failed. -/
def State.endCalve (s : State) (k : Nat) (d : Domain) (c : Calve) : State :=
  match c.kind, d.drift with
  | .pair p rk round loserFit parentFit, _ =>
    (s.finishLoser k p.loser p.parent s.pkg.chip rk round c.status).endPair k d p rk round loserFit parentFit c
  | .stream _ parentStatus, some dr =>
    let status := if c.status ≠ 0 then c.status else parentStatus
    let (fault, s) := if c.status ≠ 0 then (c.fault, s) else s.peerFault
    let s := s.finishLoser k dr.pair.loser dr.pair.parent dr.peer dr.rk dr.round status
    let s := { s with outbox := s.outbox ++
      [Fabric.driftAck dr.peer d.domainId.toNat dr.round dr.pair.loser status c.bytes] }
    s.endDrift k dr status c.bytes 0 fault
  | .send, some dr =>
    let s := { s with outbox := s.outbox ++
      [Fabric.driftStream dr.peer d.domainId.toNat dr.round dr.pair.loser c.out dr.parentFit c.status] }
    s.setDomain k { d with calve := none, waits := none, drift := some { dr with streamed := true, flags := c.flags } }
  | _, none => s

/-- The calving in hand goes on: it ends, or waits for a glacier bank (R73). -/
def State.calveOn (s : State) (k : Nat) : State :=
  match s.domains.look? k with
  | none => s
  | some d => match d.calve with
    | none => s
    | some c =>
      let g := (s.setDomain k { d with waits := none }).runCalve k d c
      if g.paused then g.s.setDomain k { d with calve := some g.c, waits := g.waits }
      else (g.s.setDomain k { d with calve := none, waits := none }).endCalve k d g.c

/-- A calving begins, and goes on as far as it can. -/
def State.beginCalve (s : State) (k : Nat) (kind : CalveKind) : State :=
  match s.domains.look? k with
  | some d => (s.setDomain k { d with calve := some { kind }, waits := none }).calveOn k
  | none => s

/-- Calve a local pair; a loser that is not quiescent ends it at once. -/
def State.calvePair (s : State) (k : Nat) (d : Domain) (p : Pair) (rk round : Word) (loserFit parentFit : BitVec 32) : State :=
  let kind : CalveKind := .pair p rk round loserFit parentFit
  match s.readyLoser k d p.loser with
  | some s => s.beginCalve k kind
  | none => s.endPair k d p rk round loserFit parentFit { kind, status := 0x07 }

/-! ## Drift (R183, R342) -/

/-- A pair with its loser on this chip begins: ready, or refused with its record. -/
def State.beginLoser (s : State) (k : Nat) (dr : Drift) : State :=
  match s.domains.look? k with
  | none => s
  | some d =>
    let answer (s : State) (ok : Bool) : State :=
      { s with outbox := s.outbox ++ [Fabric.driftReady dr.peer d.domainId.toNat dr.round dr.pair.loser ok] }
    match s.readyLoser k d dr.pair.loser with
    | some s =>
      match s.domains.look? k with
      | some d => answer (s.setDomain k { d with drift := some dr }) true
      | none => s
    | none =>
      let s := (answer s false).addRecord k (!dr.byRequest)
        (moraineRecord d dr.round 2 0x07 0 s.pkg.chip dr.pair.loser dr.peer dr.pair.parent
          (calvingKey dr.rk dr.pair.loser) 0 dr.parentFit dr.loserFit)
      match s.domains.look? k, dr.job with
      | some d, some _ => s.setDomain k { d with fin := some (0, 0, 0) }
      | _, _ => s

/-- A pair waits for the other chip: the parent's side for the loser's answer, a job's request for its acceptance. -/
def State.beginParent (s : State) (k : Nat) (dr : Drift) : State :=
  match s.domains.look? k with
  | some d => s.setDomain k { d with drift := some dr }
  | none => s

def State.beginDrift (s : State) (k : Nat) (dr : Drift) : State :=
  if dr.loserHere then s.beginLoser k dr else s.beginParent k dr

/-- The parent's chip uses the answer of the loser's chip, where it has come. -/
def State.useReady (s : State) (k : Nat) : State :=
  match s.domains.look? k with
  | none => s
  | some d =>
    match d.drift with
    | none => s
    | some dr =>
      if dr.loserHere ∨ dr.streamed ∨ d.calve.isSome then s
      else match d.readies.find? fun r => r.1 == dr.round && r.2.1 == dr.pair.loser with
      | none => s
      | some r =>
        let d := { d with readies := d.readies.erase r }
        let s := s.setDomain k d
        if r.2.2 then s.beginCalve k .send else s.endDrift k dr 0x07 0 0 0

def State.domainById (s : State) (id : Nat) : Option (Nat × Domain) := s.domains.find? fun d => d.2.domainId.toNat == id

/-- The drift of this chip's DRIFT job whose loser lies here and whose request the other chip has now accepted: only then
does the loser's side begin (R342) (DEDUCED, log 55). -/
def Domain.acceptedDrift (d : Domain) (round : Word) (loser : Nat) : Option Drift :=
  match d.drift with
  | some dr => if dr.asked ∧ dr.round = round ∧ dr.pair.loser = loser then some { dr with asked := false } else none
  | none => none

/-- DRIFT_READY: the answer of the loser's chip, or the parent's chip's acceptance of a request. -/
def execDriftReady (domainId : Nat) (round : Word) (loser : Nat) (ready : Bool) (s : State) : Out :=
  .next <| match s.domainById domainId with
  | none => s
  | some (k, d) =>
    match d.acceptedDrift round loser with
    | some dr => ((s.setDomain k { d with drift := none }).beginLoser k dr).settled k
    | none => ((s.setDomain k { d with readies := d.readies ++ [(round, loser, ready)] }).useReady k).settled k

/-- DRIFT_STREAM: the loser's chip writes the bytes, finishes the calving, records and acknowledges. -/
def execDriftStream (domainId : Nat) (round : Word) (loser : Nat) (bytes : List Byte) (parentFit : BitVec 32)
    (parentStatus : BitVec 8) (s : State) : Out :=
  .next <| match s.domainById domainId with
  | none => s
  | some (k, d) =>
    match d.drift with
    | some dr =>
      if dr.loserHere ∧ !dr.asked ∧ d.calve.isNone ∧ dr.round = round ∧ dr.pair.loser = loser then
        let dr := if dr.byRequest then { dr with parentFit } else dr
        ((s.setDomain k { d with drift := some dr }).beginCalve k (.stream bytes parentStatus)).settled k
      else s
    | none => s

/-- DRIFT_ACKNOWLEDGEMENT at the parent's chip. Status 0x04 is the refusal of a request by a chip that holds no
registration of the domain: the DRIFT job fails and no record is written. -/
def execDriftAcknowledgement (domainId : Nat) (round : Word) (loser : Nat) (status : BitVec 8) (bytes : Nat) (s : State) :
    Out :=
  .next <| match s.domainById domainId with
  | none => s
  | some (k, d) =>
    match d.drift with
    | none => s
    | some dr =>
      if dr.round ≠ round ∨ dr.pair.loser ≠ loser then s
      else if status = 0x04 ∧ dr.job.isSome then
        (s.setDomain k { d with drift := none, suspended := none, fin := some (0x04, 0, 0) }).settled k
      else if dr.streamed then
        let (fault, s) := s.peerFault
        (s.endDrift k dr status bytes dr.flags fault).settled k
      else s

/-- A local fitness word, or a free value where its translation has gone (log 5). -/
def State.fitWord (s : State) (d : Domain) (slot : Nat) : BitVec 32 × State :=
  match s.unitRead d.part d.asid (d.fitAddr slot) 4 with
  | some x => (BitVec.ofNat 32 x, s)
  | none =>
    let (i, s) := s.takeFree
    ((Config.freeWord i).setWidth 32, s)

/-- The drift of a pair by a request or a job: both fitness words are this chip's copy's until the stream comes. -/
def State.driftOf (s : State) (d : Domain) (p : Pair) (round : Word) (job : Option Nat) : Drift × State :=
  let loserHere := d.chipOf p.loser == s.pkg.chip
  let (lf, s) := s.fitWord d p.loser
  let (pf, s) := s.fitWord d p.parent
  ({ pair := p, peer := d.chipOf (if loserHere then p.parent else p.loser), round, rk := flurry (Desc.seed d.desc) round,
     loserHere, job, byRequest := true, streamed := false, loserFit := lf, parentFit := pf, flags := 0 }, s)

/-- A drift whose peer is declared down ends with status 0x09; a loser whose side has begun fails under R180. -/
def State.driftPeerLost (s : State) (chip k : Nat) : State :=
  match s.domains.look? k with
  | none => s
  | some d =>
    match d.drift with
    | none => s
    | some dr =>
      if dr.peer ≠ chip then s
      else
        let s := s.setDomain k { d with calve := none, waits := none }
        let s := if dr.loserHere ∧ !dr.asked then
            s.finishLoser k dr.pair.loser dr.pair.parent dr.peer dr.rk dr.round 0x09 else s
        (s.endDrift k dr 0x09 0 dr.flags 0).settled k

/-- A drift that begins toward a peer already declared down ends so. -/
def State.driftDown (s : State) (k : Nat) : State :=
  match (s.domains.look? k).bind (·.drift) with
  | some dr => if s.pkg.isDown dr.peer then s.driftPeerLost dr.peer k else s
  | none => s

/-- Serve the first request of another chip, where no pair of the domain is in hand. -/
def State.serveRequest (s : State) (k : Nat) : State :=
  match s.domains.look? k with
  | none => s
  | some d =>
    match d.requests with
    | [] => s
    | (_, round, loser, parent) :: rest =>
      if d.drift.isSome ∨ d.calve.isSome then s
      else
        let s := s.setDomain k { d with requests := rest }
        let (dr, s) := s.driftOf d ⟨loser, parent⟩ round none
        let s := if dr.loserHere then s else
          { s with outbox := s.outbox ++ [Fabric.driftReady dr.peer d.domainId.toNat round loser true] }
        ((s.beginDrift k dr).useReady k).driftDown k

/-- DRIFT_REQUEST: served ahead of every queued round and job; an unregistered domain refuses (DEDUCED, log 55). -/
def execDriftRequest (domainId chip : Nat) (round : Word) (loser parent : Nat) (s : State) : Out :=
  .next <| match s.domainById domainId with
  | none => { s with outbox := s.outbox ++ [Fabric.driftAck chip domainId round loser 0x04 0] }
  | some (k, d) =>
    ((s.setDomain k { d with requests := d.requests ++ [(chip, round, loser, parent)] }).serveRequest k).settled k

/-! ## Rounds (R176, R177) -/

/-- The timer of a domain, when its next instant has come. -/
def Domain.timerDue (d : Domain) (ns : Nat) : Bool :=
  Desc.period d.desc != 0 && decide (d.lastTimer < ns / Desc.period d.desc)

/-- SELECTION_TIMER: an instant that falls while a round runs is skipped (R176); any other names a round. -/
def execSelectionTimer (domain : Nat) (s : State) : Out :=
  .next <| match s.domains.look? domain with
  | none => s
  | some d =>
    if d.timerDue s.time.ns then
      s.setDomain domain { d with
        lastTimer := s.time.ns / Desc.period d.desc
        timers := if d.phase = .idle then d.timers ++ [(s.nextId, s.bCycle)] else d.timers }
    else s

/-- Has every job accepted before a timer's instant had its turn? The round begins after the B cycle of its instant, in
which a SELROUND may yet be its trigger (R186). -/
def State.timerTurn (s : State) (k : Nat) (d : Domain) : Bool :=
  d.idle && match s.timersOf k d with
  | t :: _ =>
    t.2 != s.bCycle &&
      !(s.jobs.any fun e => decide (e.1 < t.1) && e.2.cls == 2 && e.2.state == .queued && s.selDomain e.2 == some k)
  | [] => false

def Domain.others (d : Domain) (chip : Nat) : List Nat := ((d.slots.map (·.chip)).filter (· != chip)).eraseDups

/-- The snapshot of the local slots' fitness words. -/
def State.snapshot (s : State) (d : Domain) : List (Nat × BitVec 32) × State :=
  (upFrom 0 d.slots.length).foldl (fun a i =>
    if d.chipOf i = s.pkg.chip then
      let (x, s) := a.2.fitWord d i
      (a.1 ++ [(i, x)], s)
    else a) ([], s)

/-- A round begins: its number and key, the snapshot, and the exchange. -/
def State.beginRound (s : State) (k : Nat) (d : Domain) : State :=
  let rn := s.roundField k + 1
  let s := s.setRound k (d.begun + 1)
  let d := (s.domains.look? k).getD d
  let (fitness, s) := s.snapshot d
  let s := { s with outbox := s.outbox ++
    (d.others s.pkg.chip).map fun c => Fabric.fitness c d.domainId.toNat rn fitness true }
  s.setDomain k { d with phase := .exchange, round := rn, rk := flurry (Desc.seed d.desc) rn, records := 0, fitness }

/-- The exchange message of a chip. -/
def Domain.heardFrom (d : Domain) (chip : Nat) : Option (Nat × Word × List (Nat × BitVec 32) × Bool) :=
  d.inbox.find? fun m => m.1 == chip

/-- The messages left once the first of every chip is used. -/
def Domain.restInbox (d : Domain) (chip : Nat) : List (Nat × Word × List (Nat × BitVec 32) × Bool) :=
  (d.others chip).foldl (fun ms c => match ms.find? fun m => m.1 == c with
    | some m => ms.erase m
    | none => ms) d.inbox

/-- Has the exchange failed: a peer is lost, differs, or holds no registration? -/
def State.exchangeFailed (s : State) (d : Domain) : Bool :=
  (d.others s.pkg.chip).any fun c => s.pkg.isDown c || match d.heardFrom c with
    | some m => m.2.1 != d.round || !m.2.2.2
    | none => false

def State.exchangeDone (s : State) (d : Domain) : Bool := (d.others s.pkg.chip).all fun c => (d.heardFrom c).isSome

/-- The summary record. -/
def summary (d : Domain) (status : BitVec 8) (pairs : Nat) (best worst : BitVec 32) : List Nat :=
  moraineRecord d d.round 3 status 0 0 pairs 0 (Desc.q d.desc) d.rk (Desc.slotCount d.desc) best worst

/-- The round ends after the exchange: no pairs. The fitness fields of its summary are free values (log 5)
(DESIGN CHOICE, log 57). -/
def State.failRound (s : State) (k : Nat) (d : Domain) : State :=
  let (i, s) := s.takeFree
  let w := Config.freeWord i
  let unheard := ((d.others s.pkg.chip).filter fun c => (d.heardFrom c).isNone).map fun c => (c, d.round)
  (s.setDomain k { d with phase := .pairs [], inbox := d.restInbox s.pkg.chip, unheard := d.unheard ++ unheard }).addRecord k true
    (summary d 0x09 0 ((w >>> 32).setWidth 32) (w.setWidth 32))

/-- Rank the slots, form the pairs, and write the summary. -/
def State.rankRound (s : State) (k : Nat) (d : Domain) : State :=
  let words := d.fitness ++ ((d.others s.pkg.chip).filterMap d.heardFrom).flatMap fun m => m.2.2.1
  let words := (upFrom 0 d.slots.length).map fun i => (i, ((words.find? fun w => w.1 == i).map (·.2)).getD fitNan)
  let ranked := rankSlots words
  let slotAt (r : Nat) : Nat := (ranked.getD r (0, 0)).1
  let pairs := roundPairs d.desc d.rk
  let status : BitVec 8 := if Desc.policy d.desc = 1 ∧ pairs.length < Desc.q d.desc then 0x0A else 0
  let mine := (pairs.map fun p => (⟨slotAt p.1, slotAt p.2⟩ : Pair)).filter fun p =>
    d.chipOf p.loser == s.pkg.chip || d.chipOf p.parent == s.pkg.chip
  (s.setDomain k { d with phase := .pairs mine, fitness := words, inbox := d.restInbox s.pkg.chip }).addRecord k true
    (summary d status pairs.length (ranked.getD 0 (0, 0)).2 (ranked.getD (ranked.length - 1) (0, 0)).2)

def Domain.fitOf (d : Domain) (slot : Nat) : BitVec 32 := ((d.fitness.find? fun w => w.1 == slot).map (·.2)).getD 0

/-- The next pair of a round. -/
def State.nextPair (s : State) (k : Nat) (d : Domain) (p : Pair) (rest : List Pair) : State :=
  let s := s.setDomain k { d with phase := .pairs rest }
  let here (slot : Nat) : Bool := d.chipOf slot == s.pkg.chip
  if here p.loser ∧ here p.parent then s.calvePair k d p d.rk d.round (d.fitOf p.loser) (d.fitOf p.parent)
  else
    let loserHere := here p.loser
    let dr : Drift :=
      { pair := p, peer := d.chipOf (if loserHere then p.parent else p.loser), round := d.round, rk := d.rk, loserHere,
        job := none, byRequest := false, streamed := false, loserFit := d.fitOf p.loser, parentFit := d.fitOf p.parent, flags := 0 }
    ((s.beginDrift k dr).useReady k).driftDown k

/-- One stage of a domain's round. -/
def State.roundStage (s : State) (k : Nat) (d : Domain) : State :=
  match d.phase with
  | .idle => if s.timerTurn k d then s.setDomain k { d with phase := .begin_, timers := (s.timersOf k d).drop 1 } else s
  | .begin_ => s.beginRound k d
  | .exchange =>
    if s.exchangeFailed d then s.failRound k d
    else if s.exchangeDone d then s.rankRound k d
    else s
  | .pairs [] => s
  | .pairs (p :: rest) => if d.owed.isEmpty ∧ d.drift.isNone ∧ d.calve.isNone then s.nextPair k d p rest else s

/-- SELECTION_ROUND: the next stage; a calving in hand goes on, and a request of another chip is served before a pair. -/
def execSelectionRound (domain : Nat) (s : State) : Out :=
  .next <| match s.domains.look? domain with
  | none => s
  | some d =>
    if d.calve.isSome then (s.calveOn domain).settled domain
    else if !d.requests.isEmpty ∧ d.drift.isNone then (s.serveRequest domain).settled domain
    else (s.roundStage domain d).settled domain

/-- FITNESS_EXCHANGE: an unregistered chip refuses at once. A message of a round that has failed meanwhile is late, and no
later round's. -/
def execFitnessExchange (domainId chip : Nat) (round : Word) (fitness : List (Nat × BitVec 32)) (registered : Bool)
    (s : State) : Out :=
  .next <| match s.domainById domainId with
  | none => { s with outbox := s.outbox ++ [Fabric.fitness chip domainId round [] false] }
  | some (k, d) =>
    if d.unheard.contains (chip, round) then s.setDomain k { d with unheard := d.unheard.erase (chip, round) }
    else s.setDomain k { d with inbox := d.inbox ++ [(chip, round, fitness, registered)] }

/-- MORAINE_RING_SPACE: what is owed is written as space frees. -/
def execMoraineRingSpace (domain : Nat) (s : State) : Out := .next (s.settled domain)

/-! ## Selection jobs -/

/-- A selection job runs on its turn: layout, domain and descriptor checks, then its body. -/
def State.runSel (s : State) (n opcode : Nat) (l : Layout) (body : State → Nat → Domain → CmdWord → State) : State :=
  match s.jobs.look? n with
  | none => s
  | some j =>
    if !s.selTurn n j ∨ CmdWord.opcode j.word ≠ opcode then s
    else if l.bad j.word ∨ CmdWord.bits j.word 136 6 ≠ 0 then s.selEnd n 0x04 0 0
    else match s.selDomain j with
    | none => s.selEnd n 0x04 0 0
    | some k =>
      match s.domains.look? k with
      | none => s.selEnd n 0x04 0 0
      | some d => body (s.setJob n { j with state := .running }) k { d with job := some n } j.word

/-- Does a descriptor access by the job's issuer fault? -/
def State.descFaults (s : State) (n : Nat) (acc : Acc) : Bool :=
  match s.jobs.look? n with
  | none => true
  | some j =>
    match s.resolve { core := some j.core, part := j.part, asid := j.asid, sup := j.lev, engine := true }
        (w64 (CmdWord.bits j.word 136 64)) acc with
    | .ok (.bulk k pa) => k == .control || s.unreachable (.bulk k pa)
    | _ => true

def jobAddress (w : CmdWord) : Word := w64 (w.bits 136 64)

/-- SELROUND (R394); a timer instant of the B cycle in which it was accepted is this round's (R186). -/
def execSelround (job : Nat) (s : State) : Out :=
  .next <| s.runSel job 1 ⟨0, 136⟩ fun s k d w =>
    if s.descFaults job .read then s.selEnd job 0x01 0 (jobAddress w)
    else (s.setDomain k { d with phase := .begin_, timers := s.timersOf k d })

/-- The pair that CALVE and DRIFT name. -/
def pairOf (w : CmdWord) : Pair := ⟨w.bits 120 16, w.bits 104 16⟩

/-- CALVE (R325). -/
def execCalve (job : Nat) (s : State) : Out :=
  .next <| s.runSel job 2 ⟨0, 104⟩ fun s k d w =>
    let p := pairOf w
    let n := d.slots.length
    if n ≤ p.loser ∨ n ≤ p.parent ∨ p.loser = p.parent ∨ d.chipOf p.loser ≠ s.pkg.chip ∨ d.chipOf p.parent ≠ s.pkg.chip then
      s.selEnd job 0x04 0 0
    else if s.descFaults job .read then s.selEnd job 0x01 0 (jobAddress w)
    else
      let round := s.roundField k
      let rk := flurry (Desc.seed d.desc) round
      let s := s.setDomain k d
      let (lf, s) := s.fitWord d p.loser
      let (pf, s) := s.fitWord d p.parent
      (s.calvePair k d p rk round lf pf).settled k

/-- DRIFT (R342). -/
def execDrift (job : Nat) (s : State) : Out :=
  .next <| s.runSel job 3 ⟨0, 104⟩ fun s k d w =>
    let p := pairOf w
    let n := d.slots.length
    let here (slot : Nat) : Bool := d.chipOf slot == s.pkg.chip
    if n ≤ p.loser ∨ n ≤ p.parent ∨ p.loser = p.parent ∨ here p.loser = here p.parent then s.selEnd job 0x04 0 0
    else if s.descFaults job .read then s.selEnd job 0x01 0 (jobAddress w)
    else
      let s := s.setDomain k d
      let (dr, s) := s.driftOf d p (s.roundField k) (some job)
      let s := { s with outbox := s.outbox ++
        [Fabric.driftRequest dr.peer d.domainId.toNat dr.round p.loser p.parent] }
      ((s.beginParent k { dr with asked := dr.loserHere }).useReady k).driftDown k |>.settled k

/-- The fields of MORAINE (R379). -/
def moraineFn (w : CmdWord) : Nat := w.bits 134 2
def moraineBase (w : CmdWord) : Nat := w.bits 70 64
def moraineSize (w : CmdWord) : Nat := w.bits 64 6

/-- MORAINE_SET (R380). -/
def execMoraineSet (job : Nat) (s : State) : Out :=
  .next <|
    if ((s.jobs.look? job).map fun j => moraineFn j.word) = some 0 then s
    else s.runSel job 4 ⟨0, 64⟩ fun s k d w =>
      if 2 ≤ moraineFn w ∨ moraineBase w % 64 ≠ 0 ∨ moraineBase w < 0x20000 ∨ moraineSize w < 4 ∨ 20 < moraineSize w then
        s.selEnd job 0x04 0 0
      else if s.descFaults job .write then s.selEnd job 0x01 0 (jobAddress w)
      else if s.producer k ≠ s.consumer k then s.selEnd job 0x04 0 0
      else
        let w6 := moraineBase w + moraineSize w
        let s := (s.domainWrite d (d.addr + 0x30) 8 w6).domainWrite d d.consumerAddr 8 0
        ((s.setDomain k { d with desc := d.desc.set 6 (w64 w6), job := none }).setProducer k 0).selEnd job 0 0 0

/-- MORAINE_FLUSH (R380): on its turn nothing is owed. Its count is read at its completion (execJobCompletion). -/
def execMoraineFlush (job : Nat) (s : State) : Out :=
  .next <|
    if ((s.jobs.look? job).map fun j => moraineFn j.word) = some 0 then
      s.runSel job 4 ⟨0, 64⟩ fun s k _ w =>
        if moraineBase w ≠ 0 ∨ moraineSize w ≠ 0 then s.selEnd job 0x04 0 0
        else if s.descFaults job .read then s.selEnd job 0x01 0 (jobAddress w)
        else s.selEnd job 0 (64 * (s.producer k - s.consumer k).toNat) 0
    else s

/-- UNASSIGNED_ENGINE_OPCODE (R303): the job fails with status 0x04 and delivers only its token; one of class 2 on its turn
(R363). -/
def execUnassignedEngineOpcode (job : Nat) (s : State) : Out :=
  .next <| match s.jobs.look? job with
  | none => s
  | some j =>
    if ((j.state = .running ∧ j.cls ≤ 1) ∨ s.selTurn job j) ∧ !CmdWord.assigned j.word then
      s.setJob job { j with state := .bodyDone, status := 0x04, tokenOnly := true }
    else s

/-! ## A lost peer (R177, R183, R265) -/

def State.peerLostDomains (s : State) (chip : Nat) : State :=
  s.domains.keys.foldl (fun s k => s.driftPeerLost chip k) s

/-- What a flush delivers is counted when it completes (R380). -/
def State.countFlush (s : State) (j : Job) : Job :=
  if j.cls = 2 ∧ CmdWord.opcode j.word = 4 ∧ moraineFn j.word = 0 ∧ j.status = 0 then
    match s.selDomain j with
    | some k => { j with delivered := 64 * (s.producer k - s.consumer k).toNat }
    | none => j
  else j

/-- Can a job complete: its body has ended, and its arrivals find their ports free? -/
def State.canComplete (s : State) (j : Job) : Bool :=
  j.state == .bodyDone && s.portsFree j

/-- JOB_COMPLETION. -/
def execJobCompletion (job : Nat) (s : State) : Out :=
  .next <| match s.jobs.look? job with
  | some j => if s.canComplete j then s.completeJob job (s.countFlush j) else s
  | none => s

end Sys2Proof.Machine
end

