-- ==== Sys2Proof/Machine/Launch.lean ====
section
/-!
DEFINITION. Sys2Proof/Machine/Launch.lean: launch windows (R188-R191), the check and acceptance of a launch block
(R192-R194, R217), waiting (R195), distribution (R196), the end of a launch (R197), and CTXLOAD (R336).
-/

namespace Sys2Proof.Machine

open Sys2Proof

/-! ## Windows (R188-R190): window 3p is partition p's host window, 3p + 1 and 3p + 2 its device windows -/

def slotKey (win slot : Nat) : Nat := win * 64 + slot
def State.slot (s : State) (win i : Nat) : Slot := s.slots.get {} (slotKey win i)
def State.setSlot (s : State) (win i : Nat) (x : Slot) : State := { s with slots := s.slots.insert (slotKey win i) x }

def winPart (win : Nat) : Nat := win / 3
/-- The controller that serves a window. -/
def winPort (win : Nat) : Nat := if win % 3 = 0 then winPart win / 16 else win % 3 - 1

/-- The status word of a slot (R189). -/
def Slot.status (x : Slot) : Word :=
  w64 (field x.launch.toNat 32 + field x.reason.toNat 8 + field x.overrun.toNat 7 + x.state.toNat)

/-- An arm of a slot. -/
def State.arm (s : State) (win : Nat) (value : Word) : State :=
  let i := wbits value 0 6
  let x := s.slot win i
  if x.state = 1 then s.setSlot win i { x with overrun := true }
  else s.setSlot win i { x with state := 1, badArm := wbits value 6 58 != 0 }

/-- LAUNCH_ARM. -/
def execLaunchArm (win : Nat) (value : Word) (s : State) : Out := .next (s.arm win value)

/-- A write of 8 bytes in a launch window; other offsets are reserved. -/
def State.windowWrite (s : State) (win offset : Nat) (value : Word) : State :=
  if offset < 0x8000 then
    let i := offset / 512
    let x := s.slot win i
    if x.state = 1 then s.setSlot win i { x with overrun := true }
    else s.setSlot win i { x with block := x.block.insert (offset % 512 / 8) value }
  else if offset < 0x8200 then
    let i := (offset - 0x8000) / 8
    if wbit value 7 then s.setSlot win i { s.slot win i with overrun := false } else s
  else if offset = 0x8200 then s.arm win value
  else s

/-- LAUNCH_WINDOW_WRITE. -/
def execLaunchWindowWrite (win offset : Nat) (value : Word) (s : State) : Out := .next (s.windowWrite win offset value)

/-- A read of 8 bytes in a launch window. -/
def State.windowRead (s : State) (win offset : Nat) : Word :=
  if offset < 0x8000 then (s.slot win (offset / 512)).block.get 0 (offset % 512 / 8)
  else if offset < 0x8200 then (s.slot win ((offset - 0x8000) / 8)).status
  else 0

/-! ## The launch block (R192) -/

abbrev Block := Tbl Word

def Block.w (b : Block) (i : Nat) : Word := Tbl.get 0 b i
def Block.action (b : Block) : Nat := wbits (b.w 0) 62 2
def Block.floe (b : Block) : Bool := wbit (b.w 0) 58
def Block.entry (b : Block) : Nat := wbits (b.w 1) 32 32
def Block.count (b : Block) : Nat := wbits (b.w 1) 0 32
def Block.partition (b : Block) : Nat := wbits (b.w 11) 48 5
def Block.generation (b : Block) : Nat := wbits (b.w 11) 16 32
def Block.asid (b : Block) : BitVec 16 := BitVec.ofNat 16 (wbits (b.w 11) 0 16)
def Block.stride (b : Block) : Nat := wbits (b.w 12) 32 12
def Block.radius (b : Block) : Nat := wbits (b.w 12) 17 5
def Block.exact (b : Block) : Bool := wbit (b.w 12) 16
def Block.hintRow (b : Block) : Nat := wbits (b.w 12) 9 5
def Block.hintCol (b : Block) : Nat := wbits (b.w 12) 4 5
def Block.hint (b : Block) : Nat := coreAt (wbits (b.w 12) 14 2) b.hintRow b.hintCol
def Block.notifies (b : Block) : Bool := wbit (b.w 14) 63
def Block.notifyRow (b : Block) : Nat := wbits (b.w 14) 41 5
def Block.notifyCol (b : Block) : Nat := wbits (b.w 14) 36 5
def Block.notifyCore (b : Block) : Nat := coreAt (wbits (b.w 14) 46 2) b.notifyRow b.notifyCol
def Block.counter (b : Block) (j : Nat) : Word := b.w (15 + 2 * j)
def Block.counterValue (b : Block) (j : Nat) : Word := b.w (16 + 2 * j)
def Block.done (b : Block) : Word := b.w 23
def Block.start (b : Block) : Nat := (b.w 24).toNat
def Block.preempt (b : Block) : Nat := (b.w 25).toNat
def Block.tolerance (b : Block) : Nat := wbits (b.w 26) 32 32
def Block.straggle (b : Block) : Nat := wbits (b.w 26) 0 32
def Block.clock (b : Block) : Word := b.w 27
def Block.floeId (b : Block) : Nat := wbits (b.w 28) 32 32
def Block.coordinator (b : Block) : Nat := wbits (b.w 28) 0 18
def Block.memberList (b : Block) : Word := b.w 29
def Block.members (b : Block) : Nat := wbits (b.w 30) 0 18 + 1
def Block.binding (b : Block) (i : Nat) : Word := b.w (31 + i)
def Block.region (b : Block) (i : Nat) : Word := b.w (39 + i)
def Block.domain (b : Block) : Word := b.w 47
def Block.image (b : Block) : Word := b.w 48
def Block.cutImage (b : Block) : Word := b.w 49

/-- The discardable regions: bit, offset and length (R253). -/
def Block.regions (b : Block) : List (Nat × Nat × Nat) :=
  ((upFrom 0 8).filter fun i => wbit (b.region i) 63).map fun i => (i, wbits (b.region i) 32 17, wbits (b.region i) 0 18)

/-- Reserved fields, reserved actions (reason 0x01). -/
def Block.reservedOk (b : Block) : Bool :=
  wbits (b.w 0) 0 58 == 0 && decide (b.action ≤ 1) && wbits (b.w 11) 53 11 == 0 && wbits (b.w 12) 44 20 == 0 &&
    wbits (b.w 12) 22 10 == 0 && wbits (b.w 12) 0 4 == 0 && wbits (b.w 14) 48 15 == 0 && wbits (b.w 14) 32 4 == 0 &&
    wbits (b.w 27) 33 31 == 0 && wbits (b.w 28) 18 14 == 0 && wbits (b.w 30) 18 46 == 0 &&
    ((upFrom 0 8).all fun i => wbits (b.binding i) 42 21 == 0 && wbits (b.binding i) 29 11 == 0 &&
      wbits (b.binding i) 14 2 == 0 && wbits (b.region i) 49 14 == 0 && wbits (b.region i) 18 14 == 0) &&
    (upFrom 50 14).all fun i => b.w i == 0

def bindingOk (w : Word) : Bool :=
  !wbit w 63 || decide (1 ≤ wbits w 0 14 ∧ wbits w 0 14 ≤ 8192 ∧ wbits w 16 13 + wbits w 0 14 ≤ 8192)

def regionOk (w : Word) : Bool :=
  !wbit w 63 || (wbits w 32 17 % 256 == 0 && wbits w 0 18 % 256 == 0 && decide (wbits w 32 17 + wbits w 0 18 ≤ 0x20000))

/-- The fields that floe = 0 requires to be zero. -/
def Block.floeFieldsZero (b : Block) : Bool :=
  b.w 25 == 0 && b.w 26 == 0 && b.w 28 == 0 && b.w 29 == 0 && b.w 30 == 0 && b.w 49 == 0 && !wbit b.clock 32

/-- HBM, LPDDR5X or CXL memory. -/
def PhysKind.isMemory : PhysKind → Bool
  | .hbm => true
  | .lpddr => true
  | .cxl => true
  | .hostWindow _ => false
  | .control => false

/-- An image address inside a partition's bulk share, as the physical address of its first byte. -/
def State.imageAddr (s : State) (part : Nat) (asid : BitVec 16) (addr : Word) : Option Nat :=
  match s.resolve (unitIssuer part asid) addr .write with
  | .ok (.bulk k pa) =>
    if k.isMemory ∧ pa % 4096 = 0 ∧ (s.part part).bulkBase.toNat ≤ pa ∧ pa < (s.part part).bulkLimit.toNat then some pa
    else none
  | _ => none

/-- The chips of the member list, where it can be read. -/
def State.memberChips (s : State) (part : Nat) (b : Block) : Option (List Nat) :=
  let a := b.memberList
  if a.toNat % 8 ≠ 0 ∨ wbits a 52 12 ≠ 0 ∨ a.toNat < 0x20000 then none
  else (s.unitWords part b.asid a b.members).map fun ws => ws.map fun w => wbits w 0 18

/-- R217, but for a member list that cannot be read (reason 0x07). -/
def State.floeOk (s : State) (part : Nat) (b : Block) : Bool :=
  b.start != 0 && (b.preempt == 0 || decide (b.start < b.preempt)) &&
    decide (1 ≤ b.tolerance ∧ b.tolerance ≤ 1000000 ∧ 1000 ≤ b.straggle ∧ b.straggle ≤ 1000000000) &&
    match s.memberChips part b with
    | some cs => cs.count s.pkg.chip == 1 && cs.count b.coordinator == 1
    | none => true

/-- Field limits (reason 0x02). -/
def State.limitsOk (s : State) (part : Nat) (b : Block) : Bool :=
  decide (1 ≤ b.count ∧ b.count ≤ 1048576 ∧ b.stride ≤ 2303 ∧ b.hintRow < 24 ∧ b.hintCol < 24) &&
    (b.w 2).toNat % 4096 == 0 && (!b.notifies || decide (b.notifyRow < 24 ∧ b.notifyCol < 24)) &&
    ((upFrom 0 8).all fun i => bindingOk (b.binding i) && regionOk (b.region i)) &&
    (if b.floe then s.floeOk part b else b.floeFieldsZero) && (b.action == 1 || b.image == 0) &&
    (if b.preempt = 0 then b.cutImage == 0
     else decide (0x20000 ≤ b.cutImage.toNat) && (s.imageAddr part b.asid b.cutImage).isSome)

/-- The hint core of spawn `i` (R196). -/
def Block.hintOf (b : Block) (i : Nat) : Nat := (b.hint + i * b.stride) % 2304

/-- Partition, clusters and glacier share (reason 0x03). -/
def State.placesOk (s : State) (part : Nat) (b : Block) : Bool :=
  b.partition == part && ((upFrom 0 (min b.count 2304)).all fun i => s.hasCore part (b.hintOf i)) &&
    (!b.notifies || s.hasCore part b.notifyCore) &&
    (upFrom 0 8).all fun i => !wbit (b.binding i) 63 || s.hasGlacier part (wbits (b.binding i) 40 2)

/-- ASID and generation (reason 0x04). -/
def State.asidOk (s : State) (part : Nat) (b : Block) : Bool :=
  (s.dirRoot part b.asid).isSome && (b.generation == 0 || b.generation == (s.gens.get 0 b.asid.toNat).toNat)

def Block.bindings (b : Block) (lid : Nat) : List Binding :=
  ((upFrom 0 8).filter fun i => wbit (b.binding i) 63).map fun i =>
    ⟨some lid, none, wbits (b.binding i) 40 2, wbits (b.binding i) 16 13, wbits (b.binding i) 0 14⟩

/-- A counter, done or event-counter word of a block: class 0x0 that translates with R, or class 0x1 (reason 0x07). -/
def State.counterOk (s : State) (part : Nat) (asid : BitVec 16) (a : Word) : Bool :=
  a == 0 || (a.toNat % 8 == 0 && (wbits a 52 12 == 1 || (decide (0x20000 ≤ a.toNat) && wbits a 52 12 == 0 &&
    (s.unitKey part asid a .read).isSome)))

def State.countersOk (s : State) (part : Nat) (b : Block) : Bool :=
  ((upFrom 0 4).all fun j => s.counterOk part b.asid (b.counter j)) && s.counterOk part b.asid b.done &&
    (!b.floe || (s.memberChips part b).isSome)

/-! ## Image sets (R251) -/

/-- The header of an image set: complete and not inconsistent. -/
def State.imageGood (s : State) (key : Nat) : Bool :=
  natBits (s.peek (key + 8) 8) 0 2 == 1

/-- Is every set of a chain there, complete and consistent? -/
def State.chainGood (s : State) : Nat → Nat → Bool
  | 0, _ => false
  | fuel + 1, key =>
    match s.images.look? key with
    | none => false
    | some i => s.imageGood key && match i.previous with
      | none => true
      | some k => s.chainGood fuel k

/-- The swapped launch that a resume block's image names (reason 0x08). -/
def State.resumeTarget (s : State) (part : Nat) (b : Block) : Option (Nat × Launch) :=
  if b.image.toNat < 0x20000 then none
  else match s.imageAddr part b.asid b.image with
  | none => none
  | some pa =>
    if !s.chainGood 16 pa then none
    else match (s.images.look? pa).bind fun i => s.launches.look? i.launch with
    | some l => if l.part = part ∧ l.state = .swapped ∧ l.lastImage = some pa then some (pa, l) else none
    | none => none

/-! ## The check (R193) -/

/-- The first reason to reject a block, or none (DEDUCED, log 77). -/
def State.rejectReason (s : State) (part : Nat) (badArm ctxload : Bool) (b : Block) : Option Nat :=
  if badArm ∨ !b.reservedOk then some 0x01
  else if !s.limitsOk part b then some 0x02
  else if s.pkg.bootFailed ∨ !s.placesOk part b then some 0x03
  else if !s.asidOk part b then some 0x04
  else if !s.bindingsFit (b.bindings 0) then some 0x05
  else if b.domain ≠ 0 ∧ !(match s.checkDomain part b.asid b.domain with
      | some (k, d) =>
        decide (0x20000 ≤ b.domain.toNat) &&
          ((s.domains.look? k).isSome || s.bindingsFit (b.bindings 0 ++ s.domainBindings k d.slots d.ranges))
      | none => false) then some 0x06
  else if !s.countersOk part b then some 0x07
  else if (ctxload ∧ b.action ≠ 1) ∨ (b.action = 1 ∧ (s.resumeTarget part b).isNone) then some 0x08
  else if 256 ≤ ((s.launchesOf part).filter fun l => l.state == .waiting).length then some 0x09
  else none

/-! ## Acceptance (R77, R194, R216) -/

/-- Fetched lines of an ASID leave every instruction cache. -/
def State.dropLines (s : State) (asid : BitVec 16) : State :=
  { s with cores := s.cores.mapVal fun _ c => { c with icache := c.icache.filter fun l => l.asid != asid } }

/-- The messages held for a floe are delivered in arrival order (R216). -/
def State.deliverHeld (s : State) (id : Nat) : State :=
  { s with
    localFloe := s.localFloe ++ s.heldFloe.filter fun m => m.floe == id
    heldFloe := s.heldFloe.filter fun m => m.floe != id }

/-- A member is armed, for a launch or a resume; its feasible tuple is reported (R208). -/
def State.armFloe (s : State) (lid : Nat) (b : Block) : State :=
  if !b.floe then s
  else
    let chips := (s.memberChips (lid / 2 ^ 32) b).getD []
    let f : Floe := match (s.floes.look? b.floeId) with
      | some f =>
        if b.action = 1 then
          { f with members := chips, launch := lid, state := if f.prepared then .fallback else .armed, back := .armed,
                   action := .resume, feasible := none, minimum := none, deadline := none }
        else { id := b.floeId, coordinator := b.coordinator, members := chips, launch := lid, part := lid / 2 ^ 32 }
      | none => { id := b.floeId, coordinator := b.coordinator, members := chips, launch := lid, part := lid / 2 ^ 32 }
    ((s.setFloe f).reportFeasible f).deliverHeld b.floeId

/-- The launch controller accepts a fresh block. -/
def State.acceptFresh (s : State) (part port : Nat) (trusted : Bool) (b : Block) : Nat × State :=
  let id := (s.part part).nextLaunch
  let lid := part * 2 ^ 32 + id
  let (order, s) := s.fresh
  let s := s.setPart part { s.part part with nextLaunch := id + 1 }
  let dom := if b.domain = 0 then none else s.checkDomain part b.asid b.domain
  let s := s.setLaunch
    { lid, part, port, state := .waiting, block := b, trusted, order, clock := b.clock, domain := dom.map (·.1) }
  let s := { s with bindings := s.bindings ++ b.bindings lid }
  let s := match dom with
    | some (k, d) => s.nameDomain k lid d
    | none => s
  (id, ((s.dropLines b.asid).evalDue part).armFloe lid b)

/-- Has every spawn message of a launch left? -/
def Launch.distributed (l : Launch) : Bool := decide (wbits (l.block.get 0 1) 0 32 ≤ l.sent)

/-- The words of a block that a resume keeps: entry and count, bindings, regions and the domain (R194); a launch whose
spawns have not all left keeps what they carry (R220). -/
def Launch.keeps (l : Launch) (i : Nat) : Bool :=
  i == 1 || decide (31 ≤ i ∧ i ≤ 47) || (!l.distributed && decide (2 ≤ i ∧ i ≤ 13))

/-- A resume block: the swapped launch waits again under its own ID (DEDUCED, log 59). -/
def State.acceptResume (s : State) (part port pa : Nat) (l : Launch) (b : Block) : Nat × State :=
  let block : Block := (b.filter fun p => !l.keeps p.1) ++ l.block.filter fun p => l.keeps p.1
  let s := s.setLaunch { l with state := .waiting, port, block, clock := b.clock, resume := some pa, met := 0 }
  (l.lid % 2 ^ 32, ((s.dropLines b.asid).evalDue part).armFloe l.lid b)

/-- The controller's answer to a block: a status word's launch ID and state, or a reason. -/
def State.submit (s : State) (part port : Nat) (trusted badArm ctxload : Bool) (b : Block) : Except Nat (Nat × State) :=
  match s.rejectReason part badArm ctxload b with
  | some r => .error r
  | none =>
    if b.action = 1 then
      match s.resumeTarget part b with
      | some (pa, l) => .ok (s.acceptResume part port pa l b)
      | none => .error 0x08
    else .ok (s.acceptFresh part port trusted b)

/-- LAUNCH_CHECK_DONE: the slot leaves state 1, and vector 3 is raised. -/
def execLaunchCheckDone (win slot : Nat) (s : State) : Out :=
  .next <|
    let x := s.slot win slot
    if x.state ≠ 1 then s
    else
      let p := winPart win
      match s.submit p (winPort win) (win % 3 != 0 || p % 16 == 0) x.badArm false x.block with
      | .error r => (s.setSlot win slot { x with state := 3, reason := BitVec.ofNat 8 r, launch := 0 }).msix p 3
      | .ok (id, t) =>
        (t.setSlot win slot { x with state := 2, reason := 0, launch := BitVec.ofNat 32 id }).msix p 3

/-- CTXLOAD (R336): its word in the layout of R189. -/
def submitWord (r : Except Nat (Nat × State)) : Word :=
  match r with
  | .error e => w64 (field e 8 + 3)
  | .ok (id, _) => w64 (field id 32 + 2)

/-- The 64 words of a block at a bulk address of the thread, or the address of the load that faults. -/
def State.readBlock (s : State) (addr : Word) : Nat → Except (BitVec 8 × Word) Block
  | 0 => .ok []
  | n + 1 =>
    match s.readBlock addr n with
    | .error e => .error e
    | .ok b =>
      let a := addr + w64 (8 * n)
      match s.dataPlace a 8 .read with
      | some (.bulk k pa) =>
        if k = .control ∨ s.unreachable (.bulk k pa) then .error (Cause.loadFault, a)
        else
          let key := s.physKey s.th.part pa
          if (s.badGranule? key 8).isSome then .error (Cause.mchk, a)
          else .ok (b ++ [(n, w64 (s.peek key 8))])
      | _ => .error (Cause.loadFault, a)

def execCtxload (d a : BitVec 5) (s : State) : Out :=
  .next <| s.supervisor fun s =>
    s.withRegs [a.toNat] [d.toNat] fun s =>
      let addr := s.th.S a.toNat
      if addr.toNat % 64 ≠ 0 then s.trap Cause.misalign addr
      else s.whenReleased true fun s =>
        match s.readBlock addr 64 with
        | .error (c, x) => s.trap c x
        | .ok b =>
          let p := s.th.part
          let r := s.submit p (p / 16) true false true b
          let s := match r with
            | .ok (_, t) => t
            | .error _ => s
          s.finishS d.toNat (submitWord r)

/-! ## Waiting (R195) -/

/-- The place of a unit's access in class 0x0 or 0x1. -/
def State.counterKey (s : State) (part : Nat) (asid : BitVec 16) (a : Word) (acc : Acc) : Option (Place × Nat) :=
  match s.resolve (unitIssuer part asid) a acc with
  | .ok (.spad c o al) => some (.spad c o al, spadKey c o)
  | .ok (.bulk k pa) =>
    if k = .control ∨ s.unreachable (.bulk k pa) then none else some (.bulk k pa, s.physKey part pa)
  | _ => none

/-- A counter reads at least its value. -/
def State.counterMet (s : State) (l : Launch) (j : Nat) : Bool :=
  let b : Block := l.block
  b.counter j == 0 || match s.counterKey l.part b.asid (b.counter j) .read with
  | some (_, k) => decide ((b.counterValue j).toNat ≤ s.peek k 8)
  | none => false

/-- The counters of a waiting launch are read again; one met stays met. -/
def State.pollCounters (s : State) (l : Launch) : State :=
  if l.state ≠ .waiting then s
  else
    let met := (upFrom 0 4).foldl (fun (m : BitVec 4) j => if s.counterMet l j then m ||| BitVec.ofNat 4 (2 ^ j) else m) l.met
    s.setLaunch { l with met }

/-- LAUNCH_COUNTER_POLL. -/
def execLaunchCounterPoll (launch : Nat) (s : State) : Out :=
  .next <| match s.launches.look? launch with
  | some l => s.pollCounters l
  | none => s

/-- Have a launch's dependences, start time and glacier writes been waited for? -/
def State.waitOverFor (s : State) (l : Launch) : Bool :=
  l.state == .waiting && l.met == 0xF && decide (Block.start l.block ≤ s.time.ns) &&
    !(s.stores.any fun p => !p.landed && isGlacierKey p.key && (p.arrival.any fun n => decide (n < l.order))) &&
    !(s.portQueue.any fun x => decide (x.number < l.order)) && !(s.unitWaits.any fun x => decide (x.2 < l.order))

/-- The launch distributes, or begins its restore; issue waits for the restore. -/
def State.leaveWaiting (s : State) (l : Launch) : State :=
  (s.setLaunch (if l.resume.isSome then { l with state := .running, stopping := true } else { l with state := .distributing })).evalDue
    l.part

/-- LAUNCH_LEAVE_WAITING; a floe's member acts by FLOE_ACTION instead. -/
def execLaunchLeaveWaiting (launch : Nat) (s : State) : Out :=
  .next <| match s.launches.look? launch with
  | none => s
  | some l => if s.waitOverFor l ∧ !l.isFloe then s.leaveWaiting l else s

/-! ## Distribution (R196) -/

def Launch.level (l : Launch) : Nat := l.priority / 2

/-- Is the controller's egress of a priority back-pressured? -/
def State.controllerBlocked (s : State) (port prio : Nat) : Bool :=
  s.mesh.any fun m => m.blocked && m.sender == noSender && m.origin == .spawn && hPrio m.header == prio &&
    ((s.launches.look? m.launch).map (·.port)) == some port

/-- The spawn message of index `i`. -/
def Launch.spawnMsg (l : Launch) (i : Nat) : Msg :=
  let b : Block := l.block
  let h := mkHeader 0 l.level b.radius (b.hintOf i) b.exact 12 b.entry
  { id := 0, header := h
    payload := [0, flurry (b.w 13) (w64 i), w64 (field l.level 24), w64 i] ++ (upFrom 3 8).map b.w
    sender := noSender, part := l.part, launch := l.lid, origin := .spawn, lev := l.trusted, asid := b.asid, thread := none
    at_ := entryPoint h, entered := true, taker := none, blocked := false }

/-- The distributing launch that a controller sends next for. A cut does not halt it: what it sends is captured where it
stands (R222), so that no mailbox stalls it, and the launch leaves DISTRIBUTING only for RUNNING (R194). -/
def State.nextSpawner (s : State) (port : Nat) : Option Launch :=
  (((s.launches.map (·.2)).filter fun l =>
    l.port == port && l.state == .distributing && (l.stopping || !s.controllerBlocked port l.level)).foldl higherFirst none)

/-- SPAWN_DISTRIBUTE. -/
def execSpawnDistribute (port : Nat) (s : State) : Out :=
  .next <| match s.nextSpawner port with
  | none => s
  | some l =>
    let s := s.inject (l.spawnMsg l.sent)
    let sent := l.sent + 1
    s.setLaunch { l with sent, state := if Block.count l.block ≤ sent then .running else .distributing }

/-! ## The end of a launch (R197) -/

/-- Does a message start a thread? -/
def Msg.startsThread (m : Msg) : Bool :=
  let k := hKind m.header
  (k == 0 || k == 2 || k == 5 || k == 7) && !m.isReply

/-- Does an image set hold work? -/
def Image.holdsWork (i : Image) : Bool :=
  !i.threads.isEmpty || !i.queued.isEmpty || !i.captured.isEmpty || !i.jobs.isEmpty

/-- Does a launch still have a thread, work on its way, a job, a round in progress, or a record of its domain to be
written? (DEDUCED, log 61). -/
def State.launchLives (s : State) (lid : Nat) : Bool :=
  let msg (m : Msg) : Bool := m.launch == lid && m.startsThread
  let run (e : RunEntry) : Bool := e.entry.launchOf == lid
  (s.ctxs.any fun c => match c.2.mode with
    | .idle => false
    | .starting m => msg m
    | .running => c.1 % 4 != 3 && c.2.th.launch == lid) ||
    s.mesh.any msg || (s.outbox.any fun x => x.message?.any msg) || (s.cores.any fun c => c.2.runq.any run || c.2.backlog.any run || c.2.mail.any msg) ||
    (s.jobs.any fun j => j.2.launch == lid) || (s.images.any fun i => i.2.launch == lid && i.2.holdsWork) ||
    s.domains.any fun d => d.2.launches.contains lid && (d.2.phase != .idle || d.2.drift.isSome || !d.2.owed.isEmpty)

/-- The done counter is raised, or its failure recorded. -/
def State.raiseDone (s : State) (l : Launch) : State :=
  let b : Block := l.block
  if b.done = 0 then s
  else match s.counterKey l.part b.asid b.done .atomic with
  | some (p, k) =>
    if carries p (.rmw 0 8 1) then s.landAtomic k 8 ((s.peek k 8 + 1) % 2 ^ 64)
    else s.faultRecord l.part (l.lid % 2 ^ 32) 0xFFFF Cause.storeFault b.done 0
  | none => s.faultRecord l.part (l.lid % 2 ^ 32) 0xFFFF Cause.storeFault b.done 0

/-- Every waiting launch of a partition has its counters read again. -/
def State.pollAll (s : State) (part : Nat) : State := (s.launchesOf part).foldl State.pollCounters s

/-- Every context that waits in CTXSAVE for a launch receives an answer (R335). -/
def State.wakeSavers (s : State) (lid : Nat) (v : Word) : State :=
  s.mapThreads fun t => match t.wait with
    | .ctxsave d l => if l = lid then (t.setS d v).retire else t
    | _ => t

/-- A request that stops a launch is answered: PRESTAT, where the request came there, and the contexts in CTXSAVE. -/
def State.answerStop (s : State) (l : Launch) (state reason : Nat) : State :=
  let p := s.part l.part
  let s := if p.preLaunch = some l.lid then
    s.setPart l.part { p with preLaunch := none, prestat := BitVec.ofNat 16 (field reason 8 + state) } else s
  s.wakeSavers l.lid (w64 reason)

/-- A member tells the coordinator that it has ended (R219). -/
def State.sendEnded (s : State) (l : Launch) : State :=
  match s.floeOf l.lid with
  | some f => if l.isFloe then s.sendFloe f.coordinator { s.floeMsg f 10 f.epoch f.nextAction with arg := s.time.ns } else s
  | none => s

/-- The launch's end; a request that was stopping it is refused (R260). -/
def State.endLaunch (s : State) (l : Launch) : State :=
  let s := s.answerStop l 3 2
  let s := { s with bindings := s.bindings.filter fun b => b.launch != some l.lid }
  let s := s.unnameDomain l.lid
  let s := s.setLaunch { l with state := .ended, stopping := false }
  let s := (s.raiseDone l).evalDue l.part
  let s := if l.discarded then s else s.sendEnded l
  s.pollAll l.part

/-- May a launch end for want of work: one that runs, or one whose images the host has discarded? -/
def Launch.mayEnd (l : Launch) : Bool := (l.state == .running && l.resume.isNone) || (l.state == .swapped && l.discarded)

/-- LAUNCH_END. -/
def execLaunchEnd (launch : Nat) (s : State) : Out :=
  .next <| match s.launches.look? launch with
  | none => s
  | some l => if l.mayEnd ∧ !s.launchLives launch then s.endLaunch l else s

end Sys2Proof.Machine
end

