-- ==== Sys2Proof/Machine/Images.lean ====
section
/-!
DEFINITION. Sys2Proof/Machine/Images.lean: stopping a launch (R222, R247, R254), its image sets (R248-R251), the
restore (R228, R252, R253, R440), PRELAUNCH (R260) and CTXSAVE (R335).
-/

namespace Sys2Proof.Machine

open Sys2Proof

/-! ## The stop -/

def Msg.isWorkOf (m : Msg) (lid : Nat) : Bool := m.isWork && m.launch == lid

def RunEntry.isOf (e : RunEntry) (lid : Nat) : Bool := e.entry.launchOf == lid

/-- A context holds a thread of a launch, or a message that starts one. -/
def Ctx.holds (c : Ctx) (k lid : Nat) : Bool :=
  k % 4 != 3 && match c.mode with
  | .idle => false
  | .starting m => m.isWorkOf lid
  | .running => c.th.launch == lid

/-- The cores on which a launch holds any thread or captured message (R247). -/
def State.footprint (s : State) (lid : Nat) : List Nat :=
  ((s.ctxs.filter fun c => c.2.holds c.1 lid).map (fun c => coreOfCtx c.1) ++
    (s.cores.filter fun c => c.2.runq.any (·.isOf lid) || c.2.backlog.any (·.isOf lid) ||
      c.2.mail.any fun m => m.isWorkOf lid).map (·.1) ++
    (s.mesh.filter fun m => m.isWorkOf lid).filterMap (·.taker)).eraseDups

/-- Does a thread's instruction wait for the answer of a request, or FIN for its decrement? -/
def Wait.awaitsAnswer : Wait → Bool
  | .load _ _ _ _ _ _ _ _ _ => true
  | .reply _ _ _ => true
  | .finish => true
  | _ => false

/-- The flakes in progress that the stop of a launch waits for, by their messages: its own, and those on the cores of its
footprint (R25). -/
def State.flakesAt (s : State) (lid : Nat) : List Nat :=
  let cores := s.footprint lid
  s.cores.keys.filterMap fun c => match (s.ctx (svcCtx c)).mode with
    | .idle => none
    | .starting m => if m.launch = lid ∨ c ∈ cores then some m.id else none
    | .running => if (s.thAt (svcCtx c)).launch = lid ∨ c ∈ cores then s.serviceMsg c else none

/-- Is a context of a stopped launch still to settle: a kill to come, an answer or an acknowledgement outstanding, or
on the service context a flake, an atomic one too, that was in progress at the stop? -/
def State.ctxUnsettled (s : State) (flakes : List Nat) (lid k : Nat) (c : Ctx) : Bool :=
  if k % 4 = 3 then (s.serviceMsg (coreOfCtx k)).any flakes.contains
  else c.isRunning && c.th.launch == lid && (c.th.killed || c.th.wait.awaitsAnswer || s.unackedAt k true)

/-- Must a job end before the image is taken (R158, R249)? -/
def State.jobUnsettled (s : State) (cores : List Nat) (lid : Nat) (j : Job) : Bool :=
  (j.launch == lid && (j.cls == 1 || (j.cls == 0 && j.state != .queued))) ||
    (j.cls == 0 && j.gang && j.members.any fun m => (s.thAt m.ctx).launch == lid && (s.thAt m.ctx).isTid j.part m.tid) ||
    (j.cls == 0 && j.state != .queued && j.cores.any cores.contains)

/-- Every capture has settled and no request of the launch awaits a reply. -/
def State.settledLaunch (s : State) (lid : Nat) : Bool :=
  let cores := s.footprint lid
  let flakes := ((s.launches.look? lid).map (·.flakes)).getD []
  (s.launches.look? lid).all (fun l => l.state != .distributing) &&
    !(s.ctxs.any fun c => s.ctxUnsettled flakes lid c.1 c.2) && !(s.jobs.any fun j => s.jobUnsettled cores lid j.2)

/-! ## The image (R248-R251) -/

/-- The bit of the wake mask that a wait's wake sets (R254): a message's arrival, which an atomic's reply is, sets bit 6. -/
def Wait.wakeBit : Wait → BitVec 16
  | .token _ => 1
  | .queueRead _ _ _ => 2
  | .queueWrite _ _ _ => 2
  | .barrier _ _ => 4
  | .barrierHit => 4
  | .wired _ _ => 4
  | .wiredBusy => 4
  | .groupBar _ _ _ _ => 4
  | .join _ => 8
  | .joinHit _ => 8
  | .wfe _ => 16
  | .wfeHit _ => 16
  | .clk _ => 32
  | .reply _ _ _ => 64
  | _ => 0

/-- What of a wait an image keeps: the outcome of an operation that has taken effect. Any other instruction executes
again after the resume; an arrival at a wired barrier or a TSWAP is withdrawn by that (R44, R167). -/
def Wait.kept : Wait → Wait
  | .wfeHit w => .wfeHit w
  | .joinHit w => .joinHit w
  | .groupBar g d true held => .groupBar g d true held
  | .gkill d n left => .gkill d n left
  | .tlbgen d a g => .tlbgen d a g
  | .gendrain pk a g => .gendrain pk a g
  | .ctxsave d l => .ctxsave d l
  | _ => .ready

/-- A thread as it leaves its context: its grant is back in the pool. -/
def Thread.swapOut (t : Thread) (woken : Bool) : Thread :=
  let t := if t.grant = 0 then t else { t.srDirty with regrant := true }
  { t with
    wait := t.wait.kept, imx := none, slabs := 0, v := t.v.filter fun p => decide (p.1 % 256 < t.grant)
    wake := t.wake ||| if woken then t.wait.wakeBit else 0 }

/-- The thread with the state registers of another: they are dirty as one group (R250). -/
def Thread.withGroup (t u : Thread) : Thread :=
  { t with
    cause := u.cause, imprecise := u.imprecise, notice := u.notice, taddr := u.taddr, epc := u.epc, rn := u.rn
    jn := u.jn, nest := u.nest, plev := u.plev, cellmask := u.cellmask, fmtA := u.fmtA, fmtB := u.fmtB
    fmtC := u.fmtC, sclA := u.sclA, sclB := u.sclB, sclC := u.sclC, rmode := u.rmode, ftz := u.ftz
    srseed := u.srseed, flurcnt := u.flurcnt, fpstat := u.fpstat, regrant := u.regrant, clip := u.clip
    glref := u.glref }

/-- The entries of a register table with the dirty bits `d`, from bit `off` on: `per` entries to a register. -/
def dirtyOf {α : Type} (d : BitVec 65) (off per : Nat) (t : Tbl α) : Tbl α :=
  t.filter fun p => d.getLsbD (off + p.1 / per)

/-- The registers that an image saves of a thread: all in a full one, the dirty ones in a delta (R250). -/
def Thread.delta (t : Thread) (full : Bool) : Thread :=
  let d := if full then BitVec.allOnes 65 else t.dirty
  { (if d.getLsbD 64 then t else t.withGroup {}) with
    s := dirtyOf d 0 1 t.s, m := dirtyOf d 32 1 t.m, c := dirtyOf d 40 1 t.c, v := dirtyOf d 48 256 t.v, dirty := d }

/-- What an image holds of a thread beside its registers: the dirty bits are clear (R67). -/
def Thread.bare (t : Thread) : Thread := { t.withGroup {} with s := [], m := [], v := [], c := [], dirty := 0 }

/-- A register table as a later one changes it: of a register dirty in the later one nothing stays. -/
def changedBy {α : Type} (d : BitVec 65) (off per : Nat) (old new : Tbl α) : Tbl α :=
  (dirtyOf (~~~d) off per old).foldl (fun t p => t.insert p.1 p.2) new

/-- The registers of a thread after a further image set of its chain. -/
def Thread.thenDelta (old new : Thread) : Thread :=
  let d := new.dirty
  { (if d.getLsbD 64 then new else new.withGroup old) with
    s := changedBy d 0 1 old.s new.s, m := changedBy d 32 1 old.m new.m, c := changedBy d 40 1 old.c new.c
    v := changedBy d 48 256 old.v new.v }

/-- A thread of an image with the registers that its chain gives, changed by what has reached it since: completion
words, and the flags of their jobs. -/
def Thread.withRegisters (t regs : Thread) : Thread :=
  { t.withGroup regs with
    s := changedBy t.dirty 0 1 regs.s t.s, m := regs.m, c := regs.c, v := regs.v
    fpstat := regs.fpstat ||| t.fpstat }

/-- The threads of a launch on contexts, as they leave them. -/
def State.savedThreads (s : State) (lid : Nat) : List (Nat × Thread) :=
  (s.ctxs.filter fun c => c.2.isRunning && c.2.holds c.1 lid).map fun c => (c.1, c.2.th.swapOut (s.waitOver c.1))

/-- The queued work of a core for a launch: messages that contexts have taken, then the run queue, then the backlog. -/
def State.savedQueue (s : State) (lid core : Nat) : List (Nat × RunEntry) :=
  let taken := (userCtxs core).filterMap fun k => match (s.ctx k).mode with
    | .starting m => if m.isWorkOf lid then some (⟨.msg m, hPrio m.header, 0⟩ : RunEntry) else none
    | _ => none
  let c := s.core core
  (taken ++ (c.runq ++ c.backlog).filter (·.isOf lid)).map fun e => (core, e.mapThread fun t => { t with dirty := 0 })

/-- Lines of a core outside the discardable regions. -/
def Launch.savesLine (l : Launch) (i : Nat) : Bool :=
  !((Block.regions l.block).any fun r => decide (r.2.1 ≤ 256 * i ∧ 256 * i < r.2.1 + r.2.2))

def State.savedLines (s : State) (l : Launch) (full : Bool) (core : Nat) : List (Nat × List Byte) :=
  ((if full then upFrom 0 512 else (s.core core).dirty).filter l.savesLine).map fun i =>
    (spadKey core (256 * i), Memory.readBytes s.mem (spadKey core (256 * i)) 256)

/-- The accumulator tiles that an image saves of a core's slice, keyed core × 2 + tile. -/
def State.savedTiles (s : State) (full : Bool) (core : Nat) : List (Nat × Tbl (BitVec 32)) :=
  let c := s.core core
  ((upFrom 0 2).filter fun n => full || c.accDirty.getLsbD n).map fun n =>
    (core * 2 + n, c.acc.filter fun e => e.1 / 4096 == n)

/-- The last WBFILLs of the footprint's partitions, each once, in acceptance order. -/
def State.savedFills (s : State) (cores : List Nat) : List (Nat × Job) :=
  cores.foldl (fun fs c => match s.fills.look? c with
    | some (n, j) => Tbl.insert fs n j
    | none => fs) []

def State.savedJobs (s : State) (lid : Nat) : List (Nat × Job) :=
  s.jobs.filter fun j => j.2.launch == lid && j.2.cls == 0

/-- Depth of the next image set of a launch: the first is full, and so is the one that would be the 16th delta. -/
def Launch.nextDepth (l : Launch) : Nat := if l.lastImage.isNone ∨ l.depth = 15 then 0 else l.depth + 1

/-- The image set that a stop takes. -/
def State.imageOf (s : State) (l : Launch) (name : Nat) : Image :=
  let cores := s.footprint l.lid
  let full := l.nextDepth == 0
  let threads := s.savedThreads l.lid
  let queued := cores.flatMap (s.savedQueue l.lid)
  { launch := l.lid, name, previous := if full then none else l.lastImage
    threads := threads.map fun t => (t.1, t.2.bare)
    saved := (threads.map fun t => t.2.delta full) ++ (queued.filterMap fun e => e.2.entry.thread?).map fun t => t.delta true
    queued
    captured := (s.cores.flatMap fun c => (c.2.mail.filter fun m => m.isWorkOf l.lid).map fun m => { m with taker := some c.1 }) ++
      s.mesh.filter fun m => m.isWorkOf l.lid
    fits := cores.map fun c => (c, (s.core c).fit)
    queues := cores.map fun c => (c, (s.core c).queues)
    accs := cores.flatMap (s.savedTiles full)
    lines := cores.flatMap (s.savedLines l full)
    jobs := s.savedJobs l.lid
    fills := s.savedFills cores
    cores }

/-- The image sets of a chain with their keys, the full one first (DEDUCED, log 67). -/
def State.imageChain (s : State) : Nat → Nat → List (Nat × Image)
  | 0, _ => []
  | fuel + 1, key =>
    match s.images.look? key with
    | none => []
    | some i => (match i.previous with
      | some k => s.imageChain fuel k
      | none => []) ++ [(key, i)]

/-- The registers that the image sets of a chain give a thread. -/
def chainRegisters (chain : List (Nat × Image)) (tid : Nat) : Thread :=
  chain.foldl (fun t i => match i.2.saved.find? fun x => x.tid == tid with
    | some x => t.thenDelta x
    | none => t) {}

/-- Of lines or tiles saved twice in a chain, the later. -/
def laterWins {α : Type} (xs : List (Nat × α)) : List (Nat × α) := xs.foldl (fun t x => Tbl.insert t x.1 x.2) []

/-- The image set of a member that is stopped before its restore: it holds what the last one holds (R220). -/
def State.imageAgain (s : State) (l : Launch) (old name : Nat) (i : Image) : Image :=
  if l.nextDepth = 0 then
    let chain := s.imageChain 17 old
    { i with
      name, previous := none, saved := (i.threads.map fun t => (chainRegisters chain t.2.tid).delta true) ++
        (i.queued.filterMap fun e => e.2.entry.thread?).map fun t => t.delta true
      lines := laterWins (chain.flatMap (·.2.lines)), accs := laterWins (chain.flatMap (·.2.accs)) }
  else { i with name, previous := some old, saved := [], lines := [], accs := [] }

/-- The work of an image set has gone elsewhere. -/
def Image.emptied (i : Image) : Image := { i with threads := [], queued := [], captured := [], jobs := [] }

/-- What a launch holds on the part leaves it, and the dirty bits of its cores clear (R67) (DEDUCED, log 85). -/
def State.vacate (s : State) (lid : Nat) (i : Image) : State :=
  let s := s.setPart (lid / 2 ^ 32) { s.part (lid / 2 ^ 32) with
    ops := (s.part (lid / 2 ^ 32)).ops.filter fun o => !(i.threads.any fun t => t.2.tid == o.tid) }
  { s with
    ctxs := s.ctxs.mapVal fun k c => if c.holds k lid then {} else c
    cores := s.cores.mapVal fun k c =>
      { c with
        runq := c.runq.filter fun e => !e.isOf lid
        backlog := c.backlog.filter fun e => !e.isOf lid
        mail := c.mail.filter fun m => !m.isWorkOf lid
        dirty := if i.cores.contains k then [] else c.dirty
        accDirty := if i.cores.contains k then 0 else c.accDirty }
    mesh := s.mesh.filter fun m => !m.isWorkOf lid
    jobs := s.jobs.filter fun j => !(j.2.launch == lid && j.2.cls == 0) }

/-- Word 1 of an image set's header. -/
def imageWord1 (epoch depth : Nat) (inconsistent complete : Bool) : Nat :=
  field epoch 32 + field depth 28 + field inconsistent.toNat 1 + complete.toNat

/-- The address by which an image set was named, 0 for none (DEDUCED, log 33). -/
def State.imageNamed (s : State) (key : Option Nat) : Nat :=
  match key.bind s.images.look? with
  | some i => i.name
  | none => 0

/-- The bytes that an image set occupies at most (R251). -/
def Image.sizeBound (i : Image) : Nat := 4096 + 245760 * i.cores.length + 256 * i.captured.length

/-- The 64-byte header (R251). The bytes used depend on the Z4's own layout: a free value within the bound (log 5). -/
def State.writeHeader (s : State) (l : Launch) (i : Image) (key epoch depth : Nat) (inconsistent : Bool) : State :=
  let (n, s) := s.takeFree
  s.land key ([field (l.lid % 2 ^ 32) 32 + (if l.isFloe then Block.floeId l.block else 0),
    imageWord1 epoch depth inconsistent true, s.imageNamed i.previous, (Config.freeWord n).toNat % (i.sizeBound + 1),
    i.cores.length, 0, 0,
    0].flatMap (leBytes 8))

/-- Is a job a repeated WBFILL of a launch's restore? -/
def Job.refills (j : Job) (lid : Nat) : Bool := j.refill.isSome && j.launch == lid

/-- Take a launch's image set. -/
def State.takeImage (s : State) (l : Launch) (key name epoch : Nat) (inconsistent : Bool) : State :=
  let depth := l.nextDepth
  let i := match l.resume with
    | some old => s.imageAgain l old name ((s.images.look? old).getD { launch := l.lid, name, previous := none })
    | none => s.imageOf l name
  let s := match l.resume with
    | some _ => s.onImage l Image.emptied
    | none => s.vacate l.lid i
  let s := s.writeHeader l i key epoch depth inconsistent
  { s with images := s.images.insert key i, jobs := s.jobs.filter fun j => !j.2.refills l.lid }.setLaunch
    { l with lastImage := some key, depth, resume := none, refilling := false }

/-- Mark an image set inconsistent (R225) (DEDUCED, log 69). -/
def State.markInconsistent (s : State) (key : Nat) : State :=
  s.landLE (key + 8) 8 (s.peek (key + 8) 8 / 4 * 4 + 2 + s.peek (key + 8) 8 % 2)

/-- The launch is swapped out (R194); the arbiter is told (R205). -/
def State.swapLaunch (s : State) (lid : Nat) : State :=
  match s.launches.look? lid with
  | none => s
  | some l =>
    if l.state = .ended then s.setLaunch { l with stopping := false }
    else (s.setLaunch { l with state := .swapped, stopping := false }).evalDue l.part

/-! ## Requests (R260, R335) -/

/-- A physical address of an image set, which is what PREIMAGE gives: 4 KiB aligned in the partition's bulk share
(DEDUCED, log 49). -/
def State.physImage (s : State) (part : Nat) (addr : Word) : Option Nat :=
  let pa := addr.toNat
  match s.phys pa with
  | some k =>
    if k.isMemory ∧ pa % 4096 = 0 ∧ (s.part part).bulkBase.toNat ≤ pa ∧
        pa < (s.part part).bulkLimit.toNat then some pa else none
  | none => none

/-- Is a request already stopping a launch of the partition? -/
def State.requestStopping (s : State) (part : Nat) : Bool :=
  (s.launchesOf part).any fun l => l.stopping && l.resume.isNone && !l.isFloe

/-- The refusal reasons 1 to 4 of R260. -/
def State.stopRefused (s : State) (part lid : Nat) (image : Option Nat) : Option Nat :=
  match s.launches.look? lid with
  | none => some 2
  | some l =>
    if l.isFloe then some 1
    else if l.state ≠ .running ∨ l.resume.isSome then some 2
    else if image.isNone then some 3
    else if s.requestStopping part then some 4
    else none

/-- The FINs of a launch whose waits have ended take effect before the stop (R254). -/
def State.finsAtStop (s : State) (lid : Nat) : State :=
  s.ctxs.foldl (fun s c =>
    if c.2.isRunning && c.2.holds c.1 lid && c.2.th.wait == .finStores && s.isReady c.1 then
      { State.fin { s with cur := c.1 } with cur := s.cur }
    else s) s

/-- A launch stops: its threads at their next instruction boundary (R222). -/
def State.stopFor (s : State) (lid : Nat) (request : Launch → Launch) : State :=
  let s := s.finsAtStop lid
  match s.launches.look? lid with
  | some l => s.setLaunch (request { l with stopping := true, flakes := s.flakesAt lid })
  | none => s

/-- A request stops a launch and names its image set. -/
def State.stopLaunch (s : State) (lid image imageName : Nat) : State :=
  s.stopFor lid fun l => { l with image, imageName }

def launchKey (part id : Nat) : Nat := part * 2 ^ 32 + id

def State.prelaunch (s : State) (part : Nat) (value : Word) : State :=
  let lid := launchKey part (wbits value 32 32)
  let image := s.physImage part (s.part part).preimage
  match s.stopRefused part lid image with
  | some r => s.setPart part { s.part part with prestat := BitVec.ofNat 16 (field r 8 + 3) }
  | none =>
    (s.setPart part { s.part part with prestat := 1, preLaunch := some lid }).stopLaunch lid (image.getD 0)
      (s.part part).preimage.toNat

/-- PRELAUNCH. -/
def execPrelaunch (part : Nat) (value : Word) (s : State) : Out := .next (s.prelaunch part value)

/-- CTXSAVE: the address of its image set is translated as the thread's own. -/
def execCtxsave (d a b : BitVec 5) (s : State) : Out :=
  .next <| s.supervisor fun s =>
    s.withRegs [a.toNat, b.toNat] [d.toNat] fun s =>
      let t := s.th
      let lid := launchKey t.part (wbits (t.S a.toNat) 0 32)
      let image := s.imageAddr t.part t.asid (t.S b.toNat)
      if lid = t.launch then s.finishS d.toNat 5
      else match s.stopRefused t.part lid image with
      | some r => s.finishS d.toNat (w64 r)
      | none => (s.sleep (.ctxsave d.toNat lid)).stopLaunch lid (image.getD 0) (t.S b.toNat).toNat

/-- Is the image of a launch stopped by a request complete? -/
def State.requestSettled (s : State) (l : Launch) : Bool :=
  l.stopping && l.state == .running && l.resume.isNone && !l.isFloe && s.settledLaunch l.lid

/-- PREEMPTION_COMPLETE. -/
def execPreemptionComplete (launch : Nat) (s : State) : Out :=
  .next <| match s.launches.look? launch with
  | none => s
  | some l =>
    if s.requestSettled l then
      (((s.takeImage l l.image l.imageName 0 false).swapLaunch launch).answerStop l 2 0)
    else s

/-! ## The restore (R228, R252) -/

/-- A tile of a slice takes the elements of an image. -/
def Core.putTile (c : Core) (n : Nat) (xs : Tbl (BitVec 32)) : Core :=
  { c with acc := xs.foldl (fun t x => Tbl.insert t x.1 x.2) (c.acc.filter fun e => e.1 / 4096 != n) }

/-- The lines and tiles of an image set are written back. -/
def State.putBack (s : State) (i : Image) : State :=
  let s := i.lines.foldl (fun s l => s.land l.1 l.2) s
  i.accs.foldl (fun s a => s.setCore (a.1 / 2) ((s.core (a.1 / 2)).putTile (a.1 % 2) a.2)) s

/-- Queue words, FIT and the discardable regions of a footprint core (R253). -/
def State.putCore (s : State) (l : Launch) (i : Image) (core : Nat) : State :=
  let rs := Block.regions l.block
  let s := rs.foldl (fun s r => s.land (spadKey core r.2.1) (List.replicate r.2.2 0)) s
  let c := s.core core
  s.setCore core { c with
    fit := i.fits.get c.fit core
    queues := i.queues.get c.queues core
    discarded := rs.foldl (fun d r => d ||| BitVec.ofNat 8 (2 ^ r.1)) c.discarded }

/-- `n` bytes from a key become zero. -/
def State.zeroBytes (s : State) (k n : Nat) : State :=
  { s with mem := s.mem.filter fun c => !decide (k ≤ c.1 ∧ c.1 < k + n) }

/-- A WBFILL that a resume repeats: an ordinary job of its core that reports to no thread, and fills the partitions of
footprint cores only (R440). -/
def Job.repeated (j : Job) (launch : Nat) (cores : List Nat) : Job :=
  { j with
    launch, members := [], state := .queued, status := 0, delivered := 0, bulkRead := 0, faultAddr := 0, made := []
    waits := none, pause := none, refill := some cores }

/-- The partitions of the footprint are zero, and the last WBFILLs are accepted again in their order. -/
def State.refillBuffers (s : State) (i : Image) : State :=
  let s := i.cores.foldl (fun s c => s.zeroBytes (wbufKey (cellOf c) (posOf c * 131072)) 131072) s
  i.fills.foldl (fun s f =>
    let (n, s) := s.fresh
    s.setJob n (f.2.repeated i.launch i.cores)) s

/-- Captured messages go ahead of what has arrived since; one with no taking core walks on (DEDUCED, log 68). -/
def State.reinject (s : State) (ms : List Msg) : State :=
  let ms := ms.map fun m => { m with blocked := false }
  let at_ (core : Nat) : List Msg := ms.filter fun m => m.taker == some core
  let s := (ms.filterMap (·.taker)).eraseDups.foldl (fun s c => s.setCore c { s.core c with mail := at_ c ++ (s.core c).mail }) s
  { s with mesh := (ms.filter fun m => m.taker.isNone) ++ s.mesh }

/-- Where the thread number `n` of an image set lies in it: the layout beyond the header is the Z4's own (DESIGN
CHOICE, log 16). -/
def imageSlice (key n : Nat) : Nat := key + 0x1000 * (n + 1)

/-- Can a thread's part of some image set of its chain not be read? -/
def State.imageBad (s : State) (chain : List (Nat × Image)) (tid : Nat) : Bool :=
  chain.any fun i => match i.2.saved.findIdx? fun x => x.tid == tid with
    | some n => (s.badGranule? (imageSlice i.1 n) 0x1000).isSome
    | none => false

/-- A thread of an image becomes a queued entry of its core, or ends with MCHK where its part of the image cannot be
read (R245). -/
def State.requeue (s : State) (chain : List (Nat × Image)) (p : Nat × Thread) : State :=
  let core := coreOfCtx p.1
  let t := p.2.withRegisters (chainRegisters chain p.2.tid)
  if s.imageBad chain t.tid then (s.faultRecord t.part t.tid p.1 Cause.mchk 0 t.pc).threadGone t true
  else s.setCore core { s.core core with backlog := (s.core core).backlog ++ [⟨.thread { t with wake := 0 }, t.level, 0⟩] }

/-- Saved threads, then saved run-queue entries and restarts, enter after what an earlier resume has left waiting and
before any later work (R228). -/
def State.requeueAll (s : State) (chain : List (Nat × Image)) (i : Image) : State :=
  let cores := ((i.threads.map fun t => coreOfCtx t.1) ++ i.queued.map (·.1)).eraseDups
  let s := i.threads.foldl (fun s t => s.requeue chain t) s
  let s := i.queued.foldl (fun s e => s.setCore e.1 { s.core e.1 with backlog := (s.core e.1).backlog ++ [e.2] }) s
  cores.foldl (fun s c => s.setCore c (s.core c).refill) s

/-- A token that waits for a job under its number before the image waits for it under its new one. -/
def Thread.renameJobs (t : Thread) (ns : List (Nat × Nat)) : Thread :=
  { t with tok := t.tok.mapVal fun _ k => match k with
      | .pending n => .pending (Tbl.get n ns n)
      | k => k }

/-- The saved jobs are accepted again, in their order, before any new kick (R249). -/
def State.readmit (s : State) (jobs : List (Nat × Job)) : State :=
  let ns := jobs.zip (upFrom s.nextId jobs.length)
  let s := ns.foldl (fun s j => s.setJob j.2 j.1.2) { s with nextId := s.nextId + jobs.length }
  s.mapThreads fun t => t.renameJobs (ns.map fun j => (j.1.1, j.2))

/-- The first of R228's steps but for the threads: what a core holds comes back, and the weight buffer is refilled. -/
def State.beginRestore (s : State) (l : Launch) (key : Nat) (i : Image) : State :=
  let s := (s.imageChain 17 key).foldl (fun s i => s.putBack i.2) s
  let s := i.cores.foldl (fun s c => s.putCore l i c) s
  (s.refillBuffers i).setLaunch { l with refilling := true }

/-- The steps of R228 once the weight buffer is filled: the launch may issue. -/
def State.endRestore (s : State) (l : Launch) (key : Nat) (i : Image) : State :=
  let s := s.reinject i.captured
  let s := (s.requeueAll (s.imageChain 17 key) i).readmit i.jobs
  let s : State := { s with images := s.images.insert key i.emptied }
  (s.setLaunch { l with stopping := false, resume := none, refilling := false, state := .running }).evalDue l.part

/-- A restore begins, waits for its repeated WBFILLs, and ends. -/
def State.restore (s : State) (l : Launch) (key : Nat) (i : Image) : State :=
  if !l.refilling then s.beginRestore l key i
  else if s.jobs.any fun j => j.2.refills l.lid then s
  else s.endRestore l key i

/-- RESUME_RESTORE. -/
def execResumeRestore (launch : Nat) (s : State) : Out :=
  .next <| match s.launches.look? launch with
  | none => s
  | some l =>
    match l.resume with
    | some key =>
      if l.state = .running ∧ l.stopping then
        match s.images.look? key with
        | some i => s.restore l key i
        | none => s
      else s
    | none => s

end Sys2Proof.Machine
end

