-- ==== Sys2Proof/Machine/Floes.lean ====
section
/-!
DEFINITION. Sys2Proof/Machine/Floes.lean: the floe logic (R216-R230): uniform grants (R208, R209), timed and barrier
actions (R220, R229), the cut (R222, R223, R225), and the end of a floe (R219). The epoch of a message is that of the
action it belongs to (DEDUCED, log 17).
-/

namespace Sys2Proof.Machine

open Sys2Proof

/-! ## Messages (R216) -/

/-- Has the member performed an action of an epoch? -/
def Floe.actedFor (f : Floe) (a : FloeAction) (epoch : Nat) : Bool :=
  match a with
  | .launch => !(f.action == .launch && (f.state == .armed || (f.state == .fallback && f.back == .armed)))
  | _ => decide (epoch ≤ f.epoch)

def Floe.indexOf (f : Floe) (chip : Nat) : Nat := f.members.idxOf chip

def State.isCoordinator (s : State) (f : Floe) : Bool := f.coordinator == s.pkg.chip

/-- A message to every member, this chip among them. -/
def State.sendMembers (s : State) (f : Floe) (m : FloeMsg) : State := f.members.foldl (fun s c => s.sendFloe c m) s

/-- Type 7 goes to every member (R219). -/
def State.breakFloe (s : State) (f : Floe) (member : Nat) : State :=
  s.sendMembers f { s.floeMsg f 7 f.epoch f.nextAction with arg := member }

/-- Can the floe become BROKEN? (DEDUCED, log 70). -/
def FloeState.breakable : FloeState → Bool
  | .armed => true
  | .running => true
  | .cutting => true
  | .fallback => true
  | _ => false

/-- Messages of floes with no member launch here that are held at most. -/
def heldCapacity : Nat := 64

/-- A message for a floe: held where no member launch is here, discarded where it has reached DONE. -/
def State.withFloe (s : State) (m : FloeMsg) (body : Floe → State) : State :=
  match s.floes.look? m.floe with
  | some f => if f.state = .done then s else body f
  | none => if s.heldFloe.length < heldCapacity then { s with heldFloe := s.heldFloe ++ [m] } else s

/-- Is an epoch one that a member may name? Members differ by the action in hand, and by one more while this one still
awaits its resume (DEDUCED, log 17). -/
def Floe.lawful (f : Floe) (epoch : Nat) : Bool :=
  decide (f.epoch ≤ epoch + 1 ∧ epoch ≤ f.epoch + if f.awaitsResume then 2 else 1)

/-- A frozen member whose launch has ended has nothing to resume: it is past the resume once another member is (R219)
(DEDUCED, log 17). -/
def Floe.pastResume (f : Floe) : Floe :=
  { f with state := .running, epoch := f.epoch + 1, unscheduled := true, prepared := false, readySent := false, minimum := none }

/-- The same with the check of the epoch. -/
def State.withEpoch (s : State) (m : FloeMsg) (body : State → Floe → Launch → State) : State :=
  s.withFloe m fun f =>
    match s.launches.look? f.launch with
    | none => s
    | some l =>
      if !f.lawful m.epoch && f.state.breakable then s.breakFloe f (f.indexOf m.chip)
      else if l.state = .ended ∧ f.state = .frozen ∧ f.epoch < m.epoch then body (s.setFloe f.pastResume) f.pastResume l
      else body s f l

/-- A floe and its launch. -/
def State.onFloe (s : State) (id : Nat) (body : Floe → Launch → State) : State :=
  match s.floes.look? id with
  | none => s
  | some f => match s.launches.look? f.launch with
    | some l => body f l
    | none => s

/-! ## Records (R221) -/

structure FloeRec where
  action : FloeAction
  status : Nat
  scheduled : Nat
  actual : Nat
  u : BitVec 32
  stragglers : Nat := 0
  base : Nat := 0
  mask : Nat := 0
  complete : Nat := 0
deriving DecidableEq, Repr

/-- The record of an action that the floe has counted; vector 1 is raised where it is written (R262). -/
def State.floeRecord (s : State) (f : Floe) (r : FloeRec) : State :=
  match s.ringPut f.part .floe
      [field f.id 32 + field r.action.code 24 + field r.status 16 + field f.barrier.toNat 8, r.scheduled, r.actual,
        field r.u.toNat 32 + s.pkg.chip, field (f.epoch % 2 ^ 32) 32 + r.stragglers, r.base, r.mask, r.complete] with
  | (s, true) => s.msix f.part 1
  | (s, false) => s

/-- The record of the cut in hand. -/
def Floe.cutRec (f : Floe) (l : Launch) (status : Nat) : FloeRec :=
  { action := .cut, status, scheduled := Block.preempt l.block, actual := f.cutAt, u := f.cutU, complete := f.complete }

/-! ## Actions (R220, R222, R229) -/

/-- A launch distributes, or a resume begins its restore. -/
def State.act (s : State) (f : Floe) (l : Launch) (barrier : Bool) : State :=
  let now := s.time.ns
  let late := decide (Block.start l.block + Block.tolerance l.block < now)
  let g := { f with
    state := .running, epoch := f.epochOf f.action, barrier, prepared := false, readySent := false }
  let s := (s.setFloe g).floeRecord g
    { action := f.action, status := late.toNat, scheduled := Block.start l.block, actual := now, u := s.time.u }
  s.leaveWaiting l

/-- The marker classes: request, response, bulk. -/
def markerClasses : List Nat := [0, 1, 3]

/-- The straggler deadline of a timed cut: T_p + D, for a coordinator that has a T_p; in barrier mode the commit sets it. -/
def State.cutDeadline (s : State) (f : Floe) (l : Launch) : Option Nat :=
  if s.isCoordinator f && !f.unscheduled && f.preparing != some (.cut, f.epochOf .cut) then
    some (Block.preempt l.block + Block.straggle l.block)
  else none

/-- A cut: the launch stops and the markers leave. -/
def State.cut (s : State) (f : Floe) (l : Launch) (barrier : Bool) : State :=
  let g := { f with
    state := .cutting, epoch := f.epochOf .cut, barrier, prepared := false, readySent := false, cutAt := s.time.ns
    cutU := s.time.u, imaged := false, recorded := false, complete := 0, late := none
    deadline := if barrier then f.deadline else s.cutDeadline f l }
  let s := (if l.state = .ended then s else s.stopFor l.lid id).setFloe g
  (f.members.filter (· != s.pkg.chip)).foldl (fun s c =>
    markerClasses.foldl (fun s k => s.sendFloe c { s.floeMsg f 0 g.epoch .cut with bits := k }) s) s

/-- The instant of the next action, if it has one. -/
def Floe.actionTime (f : Floe) (l : Launch) : Option Nat :=
  if f.unscheduled then none
  else if f.nextAction = .cut then (if Block.preempt l.block = 0 then none else some (Block.preempt l.block))
  else some (Block.start l.block)

/-- A member in its window with U above G (R229). -/
def State.voteDue (s : State) (f : Floe) (l : Launch) : Bool :=
  (f.state == .armed || f.state == .running) && match f.actionTime l with
    | some t => decide (t ≤ s.time.ns + 10000 ∧ s.time.ns ≤ t ∧ Block.tolerance l.block < s.time.u.toNat)
    | none => false

/-- FALLBACK_VOTE. -/
def execFallbackVote (floe : Nat) (s : State) : Out :=
  .next <| s.onFloe floe fun f l =>
    if s.voteDue f l then
      (s.setFloe { f with state := .fallback, back := f.state, votedFor := f.nextAction }).sendFloe f.coordinator
        (s.floeMsg f 1 f.nextEpoch f.nextAction)
    else s

def State.sendReady (s : State) (f : Floe) (a : FloeAction) (epoch : Nat) (acted : Bool) : State :=
  s.sendFloe f.coordinator { s.floeMsg f 3 epoch a with acted }

/-- FLOE_ACTION: an armed member acts; one in fallback replies ready once it could act. -/
def execFloeAction (floe : Nat) (s : State) : Out :=
  .next <| s.onFloe floe fun f l =>
    if f.state = .armed ∧ s.waitOverFor l ∧ !s.voteDue f l then s.act f l false
    else if f.state = .fallback ∧ f.prepared ∧ !f.readySent ∧ f.votedFor ≠ .cut ∧ s.waitOverFor l then
      (s.setFloe { f with readySent := true }).sendReady f f.votedFor (f.epochOf f.votedFor) false
    else s

/-- Is a cut due at T_p: a member running, or still armed? -/
def State.cutDue (s : State) (f : Floe) (l : Launch) : Bool :=
  (f.state == .running || f.state == .armed) && !f.unscheduled && Block.preempt l.block != 0 &&
    decide (Block.preempt l.block ≤ s.time.ns) && !s.voteDue f l

/-- FLOE_CUT. -/
def execFloeCut (floe : Nat) (s : State) : Out :=
  .next <| s.onFloe floe fun f l => if s.cutDue f l then s.cut f l false else s

/-! ## Barrier mode (R229) -/

/-- FALLBACK_VOTE_ARRIVAL: the first vote for an action sends prepare; a cut's deadline waits for the commit. -/
def execFallbackVoteArrival (floe : Nat) (phase : FloePhase) (chip : Nat) (s : State) : Out :=
  let a := FloeAction.ofCode phase.action
  let epoch := phase.epoch
  .next <| s.withEpoch { kind := 1, action := a, floe, epoch, chip } fun s f _ =>
    if !s.isCoordinator f ∨ f.preparing = some (a, epoch) then s
    else
      (s.setFloe { f with
        preparing := some (a, epoch), readies := [], deadline := if a = .cut then none else f.deadline }).sendMembers f
          (s.floeMsg f 2 epoch a)

/-- A member that has not acted enters FALLBACK for the action that a prepare names, whichever it waited for. -/
def Floe.prepare (f : Floe) (a : FloeAction) : Floe :=
  let g : Floe := if f.state = .armed ∨ f.state = .running then { f with state := .fallback, back := f.state } else f
  { g with votedFor := a, prepared := true, readySent := a == .cut }

/-- PREPARE: a cut could act at once. -/
def execPrepare (message : FloeFrom) (phase : FloePhase) (s : State) : Out :=
  let a := FloeAction.ofCode phase.action
  let epoch := phase.epoch
  .next <| s.withEpoch { kind := 2, action := a, floe := message.floe, epoch, chip := message.chip } fun s f _ =>
    if f.actedFor a epoch then s.sendReady f a epoch true
    else
      let s := s.setFloe (f.prepare a)
      if a = .cut then s.sendReady f a epoch false else s

/-- READY: once every member has replied, commit; a cut's deadline counts from here. -/
def execReady (floe : Nat) (phase : FloePhase) (chip : Nat) (acted : Bool) (s : State) : Out :=
  let a := FloeAction.ofCode phase.action
  let epoch := phase.epoch
  .next <| s.withEpoch { kind := 3, action := a, floe, epoch, chip, acted } fun s f l =>
    if !s.isCoordinator f ∨ f.preparing ≠ some (a, epoch) then s
    else
      let readies := if f.readies.contains chip then f.readies else f.readies ++ [chip]
      if f.members.all readies.contains then
        let deadline := if a = .cut then some (s.time.ns + Block.straggle l.block) else f.deadline
        (s.setFloe { f with preparing := none, readies := [], deadline }).sendMembers f
          { s.floeMsg f 4 epoch a with arg := s.time.ns }
      else s.setFloe { f with readies }

/-- COMMIT: a member that waits to perform the action performs it now. -/
def execCommit (message : FloeFrom) (phase : FloePhase) (time : Nat) (s : State) : Out :=
  let a := FloeAction.ofCode phase.action
  let epoch := phase.epoch
  .next <| s.withEpoch { kind := 4, action := a, floe := message.floe, epoch, chip := message.chip, arg := time } fun s f l =>
    if f.state ≠ .fallback ∨ f.votedFor ≠ a ∨ f.epochOf a ≠ epoch then s
    else if a = .cut then s.cut f l true
    else s.act f l true

/-! ## The cut (R222-R225) -/

/-- CUT_MARKER; a member with no T_p of its own cuts with the first (R219). -/
def execCutMarker (floe epoch cls chip : Nat) (s : State) : Out :=
  .next <| s.withEpoch { kind := 0, action := .cut, floe, epoch, chip, bits := cls } fun s f l =>
    let g : Floe := if f.markers.contains (chip, cls, epoch) then f else { f with markers := f.markers ++ [(chip, cls, epoch)] }
    let s := if g = f then s else s.setFloe g
    if f.unscheduled ∧ f.state = .running ∧ epoch = f.epochOf .cut then s.cut g l false else s

/-- Does a member hold every marker? -/
def State.markersIn (s : State) (f : Floe) : Bool :=
  (f.members.filter (· != s.pkg.chip)).all fun c => markerClasses.all fun k => f.markers.contains (c, k, f.epoch)

/-- R223; a member of a broken floe that was stopped completes its image too, which is inconsistent. -/
def State.cutSettled (s : State) (f : Floe) : Bool :=
  (f.state == .cutting || f.state == .broken) && !f.imaged && !f.recorded && s.markersIn f && s.settledLaunch f.launch

/-- CUT_COMPLETE. -/
def execCutComplete (floe : Nat) (s : State) : Out :=
  .next <| s.onFloe floe fun f l =>
    match s.imageAddr l.part (Block.asid l.block) (Block.cutImage l.block) with
    | none => s
    | some key =>
      if !s.cutSettled f then s
      else
        let broken := f.state == .broken
        let g := { f with imaged := true, complete := s.time.ns, recorded := broken || !s.isCoordinator f }
        let s := (s.takeImage l key (Block.cutImage l.block).toNat f.epoch broken).setFloe g
        if broken then
          (match f.late with
            | some (status, stragglers, base, mask) =>
              s.floeRecord g { g.cutRec l status with stragglers, base, mask }
            | none => s).swapLaunch l.lid
        else
          let s := if s.isCoordinator f then s else s.floeRecord g (g.cutRec l 0x00)
          s.sendFloe f.coordinator { s.floeMsg f 5 f.epoch .cut with arg := g.complete }

/-- CUT_COMPLETE_REPORT: one that comes by the deadline counts; every member's brings frozen. -/
def execCutCompleteReport (floe epoch chip time : Nat) (s : State) : Out :=
  .next <| s.withEpoch { kind := 5, action := .cut, floe, epoch, chip, arg := time } fun s f _ =>
    let inTime := match f.deadline with
      | some d => decide (s.time.ns ≤ d)
      | none => true
    if !s.isCoordinator f ∨ f.state = .broken ∨ !inTime then s
    else
      let reports := if f.reports.contains (chip, epoch) then f.reports else f.reports ++ [(chip, epoch)]
      if f.members.all fun c => reports.contains (c, epoch) then
        (s.setFloe { f with reports, deadline := none }).sendMembers f (s.floeMsg f 6 epoch .cut)
      else s.setFloe { f with reports }

/-- FROZEN: transitions and grants that waited for the end of the cut go on (R226). -/
def execFrozen (message : FloeFrom) (epoch : Nat) (s : State) : Out :=
  .next <| s.withEpoch { kind := 6, action := .cut, floe := message.floe, epoch, chip := message.chip } fun s f l =>
    if f.state = .cutting ∧ f.imaged ∧ epoch = f.epoch then
      let s := if f.recorded then s else s.floeRecord f (f.cutRec l 0x00)
      ((s.setFloe { f with state := .frozen, recorded := true, deadline := none }).swapLaunch l.lid).startWaiting f.part
    else s

/-- The argument of a broken message for a straggler set. -/
def stragglerSet : Nat := 0x3FFFF

/-- The coordinator's cut record with its stragglers. -/
def Floe.stragglerRec (f : Floe) (l : Launch) : FloeRec :=
  let missing := (upFrom 0 f.members.length).filter fun i => !f.reports.contains (f.members.getD i 0, f.epoch)
  let base := (missing.head?.getD 0) / 64 * 64
  let mask := (missing.filter fun i => i < base + 64).foldl (fun m i => m + 2 ^ (i - base)) 0
  { f.cutRec l (if f.imaged then 0x03 else 0x02) with stragglers := missing.length, base, mask }

/-- STRAGGLER: the deadline has passed with a report missing. A coordinator whose own cut is not complete writes its
record when it is (R223). -/
def execStraggler (floe : Nat) (s : State) : Out :=
  .next <| s.onFloe floe fun f l =>
    match f.deadline with
    | none => s
    | some d =>
      if f.state = .cutting ∧ s.isCoordinator f ∧ d < s.time.ns then
        let r := f.stragglerRec l
        let f := { f with deadline := none, reports := [], recorded := f.imaged
                          late := if f.imaged then none else some (r.status, r.stragglers, r.base, r.mask) }
        (if f.imaged then (s.setFloe f).floeRecord f r else s.setFloe f).breakFloe f stragglerSet
      else s

/-- The status that a member's cut record takes from a break. -/
def State.breakStatus (s : State) (f : Floe) (member : Nat) : Nat :=
  if member = stragglerSet then (if f.imaged then 0x03 else 0x02)
  else if s.pkg.isDown (f.members.getD member 0) then 0x04
  else 0x03

/-- STRAGGLER in the fault ring and to the host (R246, R262). -/
def State.stragglerNotice (s : State) (f : Floe) : State :=
  (s.faultRecord f.part f.id 0xFFFF Cause.straggler 0 0).msix f.part 2

/-- BROKEN: the images that a member has are inconsistent (R219). A member that is stopped and has no image of the cut
yet writes it later, and its record with it (R223); where a peer is lost the record is written at once (DEDUCED,
log 31). -/
def execBroken (message : FloeFrom) (epoch member : Nat) (s : State) : Out :=
  .next <| s.withEpoch
      { kind := 7, action := .cut, floe := message.floe, epoch, chip := message.chip, arg := member } fun s f l =>
    if !f.state.breakable then s
    else
      let straggled := decide (member = stragglerSet)
      let owes := f.state == .cutting && !f.recorded
      let s := if owes && !straggled then s.floeRecord f (f.cutRec l (s.breakStatus f member)) else s
      let s := if straggled then s.stragglerNotice f else s
      let late := if f.late.isSome || !(owes && straggled) || f.imaged then f.late else some (s.breakStatus f member, 0, 0, 0)
      let s := s.setFloe { f with state := .broken, deadline := none, preparing := none, late }
      let s := match l.lastImage with
        | some k => s.markInconsistent k
        | none => s
      (if f.state = .cutting ∧ f.imaged then s.swapLaunch l.lid else s).startWaiting f.part

/-- A peer declared down breaks the floes it is a member of (R219). -/
def State.peerLostFloes (s : State) (chip : Nat) : State :=
  s.floes.foldl (fun s p =>
    if p.2.state.breakable && p.2.members.contains chip then s.breakFloe p.2 (p.2.indexOf chip) else s) s

/-! ## The end (R219) -/

/-- ENDED: once every member's has come, done goes to all. -/
def execEnded (message : FloeFrom) (epoch time : Nat) (s : State) : Out :=
  .next <| s.withEpoch
      { kind := 10, action := .cut, floe := message.floe, epoch, chip := message.chip, arg := time } fun s f _ =>
    if !s.isCoordinator f then s
    else
      let endeds := if f.endeds.contains message.chip then f.endeds else f.endeds ++ [message.chip]
      let s := s.setFloe { f with endeds }
      if f.members.all endeds.contains then s.sendMembers f (s.floeMsg f 11 f.epoch f.nextAction) else s

/-- DONE. -/
def execDone (message : FloeFrom × Nat) (s : State) : Out :=
  .next <| s.withEpoch
      { kind := 11, action := .cut, floe := message.1.floe, epoch := message.2, chip := message.1.chip } fun s f _ =>
    s.setFloe { f with state := .done }

/-- The threads that the image sets of a launch hold. -/
def State.imageThreads (s : State) (lid : Nat) : List Thread :=
  (s.images.filter fun i => i.2.launch == lid).flatMap fun i =>
    (i.2.threads.map (·.2)) ++ (i.2.queued.filterMap fun e => e.2.entry.thread?) ++ i.2.captured.filterMap (·.thread)

/-- IMAGE_DISCARD: the images of a frozen or broken launch are gone, and with them every thread of it; the member sends
ended (R219), and the launch ends, once its domain has no round in progress and no record owed (R182, R185) (DEDUCED,
log 18). -/
def execImageDiscard (launch : Nat) (s : State) : Out :=
  .next <| match s.launches.look? launch, s.floeOf launch with
  | some l, some f =>
    if (f.state = .frozen ∨ f.state = .broken) ∧ (l.state = .swapped ∨ l.state = .waiting) then
      let s := (s.imageThreads launch).foldl (fun s t => s.threadGone t true) s
      let s : State := { s with images := s.images.filter fun i => i.2.launch != launch }
      let l := { l with state := .swapped, resume := none, discarded := true }
      let s := (s.setLaunch l).sendEnded l
      if s.launchLives launch then s else s.endLaunch l
    else s
  | _, _ => s

/-! ## Uniform grants (R208, R209) -/

/-- The tuple that codes name. -/
def Steps.ofCodes (c : BitVec 16) : Steps :=
  let n := c.toNat
  ⟨natBits n 12 4 + 1, natBits n 8 4 + 1, natBits n 4 4 + 1, natBits n 0 4 + 1⟩


/-- The element-wise minimum of the latest reports. -/
def Floe.minimumNow (f : Floe) : Steps :=
  (f.members.map fun c => f.feas.get lowestSteps c).foldl Steps.min ⟨16, 16, 16, 16⟩

/-- The coordinator grants a minimum (DEDUCED, log 71). -/
def State.grantMinimum (s : State) (f : Floe) (instant : Nat) : State :=
  let t := f.minimumNow
  (s.setFloe { f with minimum := some t }).sendMembers f
    { s.floeMsg f 9 f.runEpoch f.nextAction with bits := t.codes, arg := instant }

/-- UNIFORM_REPORT: after the first grant, a report that changes the minimum brings another. -/
def execUniformReport (floe epoch chip : Nat) (codes : BitVec 16) (s : State) : Out :=
  .next <| s.withEpoch { kind := 8, action := .cut, floe, epoch, chip, arg := codes.toNat } fun s f _ =>
    if !s.isCoordinator f then s
    else
      let g := { f with feas := f.feas.insert chip (Steps.ofCodes codes) }
      match f.minimum with
      | some t => if g.minimumNow = t then s.setFloe g else s.grantMinimum g (s.time.ns + 200000)
      | none => s.setFloe g

/-- Is the first minimum due? -/
def State.minimumDue (s : State) (f : Floe) (l : Launch) : Bool :=
  s.isCoordinator f && l.uniform && !f.unscheduled && f.minimum.isNone &&
    (f.state == .armed || f.state == .fallback || f.state == .running) &&
    decide (Block.start l.block ≤ s.time.ns + 200000)

/-- UNIFORM_MINIMUM. -/
def execUniformMinimum (floe : Nat) (s : State) : Out :=
  .next <| s.onFloe floe fun f l =>
    if s.minimumDue f l then s.grantMinimum f (Block.start l.block - 100000) else s

/-- UNIFORM_GRANT. -/
def execUniformGrant (message : FloeFrom) (epoch : Nat) (codes : BitVec 16) (instant : Nat) (s : State) : Out :=
  .next <| s.withEpoch
      { kind := 9, action := .cut, floe := message.floe, epoch, chip := message.chip, bits := codes.toNat, arg := instant }
    fun s f _ =>
    s.setFloe { f with grants := f.grants ++ [(Steps.ofCodes codes, instant)] }

/-- The first grant whose instant has come; none is applied during a cut (R226). -/
def State.grantDue (s : State) (f : Floe) : Option (Steps × Nat) :=
  if f.state = .cutting then none else f.grants.find? fun g => decide (g.2 ≤ s.time.ns)

/-- Is the member before its launch or resume? -/
def Floe.beforeAction (f : Floe) : Bool := f.state == .armed || f.state == .frozen || (f.state == .fallback && f.back == .armed)

/-- UNIFORM_APPLY: before the first spawn leaves there is no ratio event, and before a resume it has no notice (R228). -/
def execUniformApply (floe : Nat) (s : State) : Out :=
  .next <| s.onFloe floe fun f l =>
    match s.grantDue f with
    | none => s
    | some g =>
      let event := decide (l.sent ≠ 0)
      (s.setFloe { f with grants := f.grants.erase g }).setTarget f.part
        { steps := g.1, uniform := true, event, notice := event && !f.beforeAction }

end Sys2Proof.Machine
end

