-- ==== Sys2Proof/Machine/Time.lean ====
section
/-!
DEFINITION. Sys2Proof/Machine/Time.lean: the time unit: device time and its servo (R210-R213), and the IEEE 1588
exchange on the 25 GbE ports and in timing flits (R214, R215, R263). Times are in units of 2^-16 ns where not said.
-/

namespace Sys2Proof.Machine

open Sys2Proof

/-! ## Device time -/

def TimeUnit.now (u : TimeUnit) : Nat := u.ns * 65536 + u.frac

def TimeUnit.setNow (u : TimeUnit) (t : Nat) : TimeUnit := { u with ns := t / 65536, frac := t % 65536 }

/-- U saturates. -/
def satU (n : Nat) : BitVec 32 := BitVec.ofNat 32 (min n 0xFFFFFFFF)

/-- U in holdover: 1 ns more at each 500 µs. -/
def TimeUnit.holdoverU (u : TimeUnit) : BitVec 32 := satU (u.uLost.toNat + (u.ns - u.lost) / 500000)

/-- HOLDOVER_TICK. -/
def execHoldoverTick (s : State) : Out :=
  .next <| if s.time.servo = .holdover then { s with time := { s.time with u := s.time.holdoverU } } else s

/-! ## Configuration (R263) -/

/-- 2^n seconds in ns, for a 4-bit signed n. -/
def logInterval (n : Nat) : Nat := if n < 8 then 1000000000 * 2 ^ n else 1000000000 / 2 ^ (16 - n)

def Package.syncInterval (p : Package) : Nat := logInterval (wbits p.ptpcfg 24 4)
def Package.announceInterval (p : Package) : Nat := logInterval (wbits p.ptpcfg 28 4)
def Package.delayInterval (p : Package) : Nat := logInterval (wbits p.ptpcfg 32 4)
def Package.domain (p : Package) : Nat := wbits p.ptpcfg 0 8

/-- The role of fabric port `k`: 0 disabled, 1 master, 2 slave. -/
def Package.role (p : Package) (k : Nat) : Nat := wbits p.ptprole (2 * k) 2

def isFabricPort (port : Nat) : Bool := decide (2 ≤ port ∧ port < 34)

/-- May the port be in the SLAVE state? -/
def Package.mayFollow (p : Package) (port : Nat) : Bool :=
  decide (port < 2) || (isFabricPort port && p.role (port - 2) == 2)

/-- Is the package the grandmaster: firmware permits it, and no Announce heard is better than its own data (R214)? -/
def State.isGrandmaster (s : State) : Bool := s.time.permitted && s.time.source.isNone

/-- A fabric port with the master role, and a 25 GbE port of the grandmaster. -/
def State.isMaster (s : State) (port : Nat) : Bool :=
  (isFabricPort port && s.pkg.role (port - 2) == 1) || (decide (port < 2) && s.isGrandmaster)

/-! ## The best master clock (R214, R215) -/

/-- The order of the default data set comparison: priority1, clockClass, clockAccuracy, variance, priority2, identity,
then stepsRemoved. -/
def announceRank (quality grandmaster : Word) : Nat :=
  field (wbits quality 32 8) 120 + field (wbits quality 0 8) 112 + field (wbits quality 8 8) 104 +
    field (wbits quality 16 16) 88 + field (wbits quality 40 8) 80 + field grandmaster.toNat 16 + wbits quality 48 16

/-- The port of the best Announce, with its rank. -/
def bestPort (xs : Tbl (Word × Word × Nat)) : Option (Nat × Nat) :=
  xs.foldl (fun (best : Option (Nat × Nat)) x =>
    let r := announceRank x.2.1 x.2.2.1
    match best with
    | none => some (x.1, r)
    | some b => if r < b.2 then some (x.1, r) else some b) none

/-- The data of the package itself: the priorities of PTPCFG, and what the manual does not give (DESIGN CHOICE, log 73). -/
def Package.ownQuality (p : Package) : Word :=
  Config.clockQuality.setWidth 64 + w64 (field (wbits p.ptpcfg 8 8) 32 + field (wbits p.ptpcfg 16 8) 40)

/-- The port that becomes SLAVE: that of the best Announce, unless the package may be grandmaster and is better. -/
def State.bestSource (s : State) : Option Nat :=
  match bestPort (s.time.announces.filter fun x => s.pkg.mayFollow x.1) with
  | some (p, r) => if s.time.permitted ∧ announceRank s.pkg.ownQuality Config.clockIdentity < r then none else some p
  | none => none

/-- The SLAVE port is chosen again; the exchange of another port is forgotten. -/
def State.chooseSource (s : State) : State :=
  let p := s.bestSource
  if p = s.time.source then s
  else { s with time := { s.time with source := p, sync := none, last := none, request := none, syncAt := s.time.ns } }

/-- An Announce of a port. -/
def State.hearAnnounce (s : State) (port : Nat) (quality grandmaster : Word) : State :=
  if s.pkg.mayFollow port then
    ({ s with time := { s.time with
        announces := s.time.announces.insert port (quality, grandmaster, s.time.ns) } } : State).chooseSource
  else s

/-- PTP_ANNOUNCE. -/
def execPtpAnnounce (port : Nat) (quality grandmaster : Word) (s : State) : Out :=
  .next (s.hearAnnounce port quality grandmaster)

/-- Is an Announce still current? Three intervals without another end it (PRESUMED, log 95). -/
def State.isCurrent (s : State) (heard : Nat) : Bool := decide (s.time.ns < heard + 3 * s.pkg.announceInterval)

/-- A port that has fallen silent is no source. -/
def State.expireAnnounces (s : State) : State :=
  if s.time.announces.all fun x => s.isCurrent x.2.2.2 then s
  else ({ s with time := { s.time with announces := s.time.announces.filter fun x => s.isCurrent x.2.2.2 } } : State).chooseSource

/-! ## Time passes -/

/-- Time passes: slewing takes at most 200 ppm of it from the remaining offset (R211; the bound while acquiring is a
DESIGN CHOICE, log 20). -/
def TimeUnit.advance (u : TimeUnit) (d : Nat) : TimeUnit :=
  let most : Int := d / 5000
  let x : Int := max (-most) (min most u.slew)
  { u with slew := u.slew - x }.setNow ((u.now : Int) + d - x).toNat

def State.advanceTime (s : State) (d : Nat) : State :=
  ({ s.countCycles d with time := s.time.advance d } : State).expireAnnounces

/-! ## The servo (R211, R212) -/

/-- Does a floe member forbid a step? -/
def State.stepForbidden (s : State) : Bool := s.floes.any fun f => f.2.state.breakable

/-- 1 ms. -/
def stepLimit : Int := 1000000 * 65536

/-- Device time steps; what the unit remembers by device time moves with it. -/
def TimeUnit.step (t : TimeUnit) (offset : Int) : TimeUnit :=
  let at_ (n : Nat) : Nat := ((n : Int) - offset).toNat
  let ns (n : Nat) : Nat := at_ (n * 65536) / 65536
  { t.setNow (at_ t.now) with
    syncAt := ns t.syncAt, sent := t.sent.mapVal fun _ n => ns n
    announces := t.announces.mapVal fun _ x => (x.1, x.2.1, ns x.2.2)
    last := t.last.map fun x => (x.1, at_ x.2), request := t.request.map fun x => (x.1, at_ x.2) }

/-- Device time has stepped: the selection timers go on from the new time, and a multiple of the period that a step passes
over begins no round (R176) (DESIGN CHOICE, log 20). -/
def State.restartTimers (s : State) : State :=
  { s with domains := s.domains.mapVal fun _ d => { d with lastTimer := s.time.ns / Desc.period d.desc } }

/-- The offset from the source is known: its estimate of U, and the moment at which it locks, are free values (log 5);
locked U is at least 8 ns, and U includes an offset that slewing has still to take away (DESIGN CHOICE, log 72). A servo
that is not locked is acquiring, and may step. -/
def State.discipline (s : State) (offset : Int) : State :=
  let (i, s) := s.takeFree
  let t := s.time
  let est := (Config.freeWord i).toNat % 2 ^ 32
  let lock := t.servo == .locked || Config.freeBit i
  let step := t.servo != .locked && decide (stepLimit < offset ∨ offset < -stepLimit) && !s.stepForbidden
  let slew := if step then 0 else offset
  let u := (if lock then max 8 est else est) + slew.natAbs / 65536
  let t := { t with servo := if lock then .locked else .acquiring, slew, u := satU u }
  if step then ({ s with time := t.step offset } : State).restartTimers else { s with time := t }

/-- A Sync of the source is complete: its origin with corrections, and its receive time. -/
def State.syncDone (s : State) (origin : Int) (rx : Nat) : State :=
  let s : State := { s with time := { s.time with sync := none, last := some (origin, rx) } }
  s.discipline ((rx : Int) - origin - s.time.delay)

/-- A Sync of the source: it has returned where it was lost. -/
def TimeUnit.heard (t : TimeUnit) : TimeUnit :=
  { t with syncAt := t.ns, servo := if t.servo = .locked then .locked else .acquiring }

/-- A Sync of the source keeps it from being lost; of two steps, its Follow_Up completes it. -/
def State.hearSync (s : State) (port seqId : Nat) (twoStep : Bool) (correction : Int) (origin : Nat) : State :=
  if s.time.source ≠ some port then s
  else
    let rx := s.time.now
    let s : State := { s with time := s.time.heard }
    if twoStep then { s with time := { s.time with sync := some (seqId, rx, correction) } }
    else s.syncDone (origin + correction) rx

/-- PTP_SYNC. -/
def execPtpSync (port seqId : Nat) (twoStep : Bool) (correction : Int) (origin : Nat) (s : State) : Out :=
  .next (s.hearSync port seqId twoStep correction origin)

def State.hearFollowUp (s : State) (port seqId : Nat) (correction : Int) (origin : Nat) : State :=
  if s.time.source ≠ some port then s
  else match s.time.sync with
  | some (q, rx, c) => if q = seqId then s.syncDone (origin + c + correction) rx else s
  | none => s

/-- PTP_FOLLOW_UP. -/
def execPtpFollowUp (port seqId : Nat) (correction : Int) (origin : Nat) (s : State) : Out :=
  .next (s.hearFollowUp port seqId correction origin)

/-- SYNC_TIMEOUT: three Sync intervals without a Sync. -/
def State.syncLost (s : State) : Bool :=
  (s.time.servo == .acquiring || s.time.servo == .locked) && decide (s.time.syncAt + 3 * s.pkg.syncInterval ≤ s.time.ns)

def execSyncTimeout (s : State) : Out :=
  .next <|
    if s.syncLost then
      { s with time := { s.time with
          servo := .holdover, lost := s.time.ns, uLost := s.time.u, slew := 0, sync := none, last := none, request := none } }
    else s

/-- TIME_UNIT_FAILOVER: FD1's unit goes on without a step, with its own 25 GbE ports. -/
def execTimeUnitFailover (s : State) : Out :=
  .next <|
    if s.time.unit then s
    else
      ({ s with time := { s.time with
          unit := true, u := satU (s.time.u.toNat + 4), uLost := satU (s.time.uLost.toNat + 4)
          announces := s.time.announces.filter fun x => decide (2 ≤ x.1) } } : State).chooseSource

/-! ## Transmission -/

def typeSync : Nat := 0x0
def typeDelayReq : Nat := 0x1
def typeFollowUp : Nat := 0x8
def typeDelayResp : Nat := 0x9
def typeAnnounce : Nat := 0xB

/-- The source field of a port. -/
def State.portId (s : State) (port : Nat) : Nat := s.pkg.chip + field (port - 2) 18

/-- A flit in the layout of R215. -/
def State.flit (s : State) (port type seqId : Nat) (twoStep : Bool) (time requester grandmaster quality : Nat) : List Nat :=
  [type + 0xA0 + field 0x12 8 + field s.pkg.domain 16 + field twoStep.toNat 24 + field seqId 32, 0, s.portId port,
    time / 65536, time % 65536, requester, grandmaster, quality]

def State.transmit (s : State) (port : Nat) (flit : List Nat) : State := { s with outbox := s.outbox ++ [Fabric.ptp port flit] }

/-- The next sequence number of a port. -/
def State.nextSeq (s : State) (port : Nat) : Nat × State :=
  let q := s.time.seqId.get 0 port
  (q, { s with time := { s.time with seqId := s.time.seqId.insert port ((q + 1) % 65536) } })

/-- The Announce of a master port, grandmaster and quality: its source's data with stepsRemoved one higher, or with no
source the package's own (DESIGN CHOICE, log 73). -/
def State.announceData (s : State) : Nat × Nat :=
  match s.time.source.bind s.time.announces.look? with
  | some (q, g, _) => (g.toNat, wbits q 0 48 + field ((wbits q 48 16 + 1) % 65536) 48)
  | none => (Config.clockIdentity.toNat, s.pkg.ownQuality.toNat)

/-- The interval of a message type. -/
def Package.interval (p : Package) (type : Nat) : Nat :=
  if type = typeSync then p.syncInterval else if type = typeAnnounce then p.announceInterval else p.delayInterval

/-- Does a port send messages of a type? -/
def State.sends (s : State) (port type : Nat) : Bool :=
  if type = typeDelayReq then s.time.source == some port else (type == typeSync || type == typeAnnounce) && s.isMaster port

def timerKey (port type : Nat) : Nat := port * 16 + type

def State.intervalDue (s : State) (port type : Nat) : Bool :=
  s.sends port type && match s.time.sent.look? (timerKey port type) with
    | some t => decide (t + s.pkg.interval type ≤ s.time.ns)
    | none => true

/-- PTP_INTERVAL_TIMER: two-step Sync with its Follow_Up, Announce, or Delay_Req. -/
def execPtpIntervalTimer (port kind : Nat) (s : State) : Out :=
  .next <|
    if !s.intervalDue port kind then s
    else
      let s : State := { s with time := { s.time with sent := s.time.sent.insert (timerKey port kind) s.time.ns } }
      let (q, s) := s.nextSeq port
      if kind = typeSync then
        (s.transmit port (s.flit port typeSync q true 0 0 0 0)).transmit port
          (s.flit port typeFollowUp q false s.time.now 0 0 0)
      else if kind = typeAnnounce then
        s.transmit port (s.flit port typeAnnounce q false 0 0 s.announceData.1 s.announceData.2)
      else
        let s : State := { s with time := { s.time with request := some (q, s.time.now) } }
        s.transmit port (s.flit port typeDelayReq q false 0 0 0 0)

/-- A master port answers with the receive time and the request's correction. -/
def State.hearDelayReq (s : State) (port seqId : Nat) (correction : Int) (requester : Nat) : State :=
  if s.isMaster port then
    s.transmit port ((s.flit port typeDelayResp seqId false s.time.now requester 0 0).set 1
      (BitVec.ofInt 64 correction).toNat)
  else s

/-- PTP_DELAY_REQ. -/
def execPtpDelayReq (port seqId : Nat) (correction : Int) (requester : Nat) (s : State) : Out :=
  .next (s.hearDelayReq port seqId correction requester)

/-- The answer to the request outstanding gives the mean of the two paths. -/
def State.hearDelayResp (s : State) (port seqId : Nat) (correction : Int) (receive requester : Nat) : State :=
  if s.time.source ≠ some port ∨ (isFabricPort port ∧ requester ≠ s.portId port) then s
  else match s.time.request, s.time.last with
  | some (q, t3), some (t1, t2) =>
    if q = seqId then
      { s with time := { s.time with
          request := none
          delay := (((t2 : Int) - t1) + ((receive : Int) - correction - t3)) / 2 } }
    else s
  | _, _ => s

/-- PTP_DELAY_RESP. -/
def execPtpDelayResp (port seqId : Nat) (correction : Int) (receive requester : Nat) (s : State) : Out :=
  .next (s.hearDelayResp port seqId correction receive requester)

/-! ## A timing flit, or a PTP message in the same layout, arrives (R214, R215) -/

/-- Reserved bytes, version and type are as R215 lays down. -/
def flitOk (w : List Nat) : Bool :=
  let h := w.getD 0 0
  natBits h 48 16 == 0 && natBits (w.getD 4 0) 16 48 == 0 && natBits h 8 8 == 0x12 &&
    [0xA0, 0xA1, 0xA8, 0xA9, 0xAB].contains (natBits h 0 8)

/-- A flit that is not well formed is discarded and counted; one of another domain is ignored. -/
def State.hearFlit (s : State) (port : Nat) (w : List Nat) : State :=
  let h := w.getD 0 0
  let seqId := natBits h 32 16
  let correction := (BitVec.ofNat 64 (w.getD 1 0)).toInt
  let time := natBits (w.getD 3 0) 0 64 * 65536 + natBits (w.getD 4 0) 0 16
  if !flitOk w then { s with time := { s.time with discarded := s.time.discarded + 1 } }
  else if natBits h 16 8 ≠ s.pkg.domain then s
  else if natBits h 0 4 = typeSync then s.hearSync port seqId (natBits h 24 1 == 1) correction time
  else if natBits h 0 4 = typeDelayReq then s.hearDelayReq port seqId correction (natBits (w.getD 2 0) 0 64)
  else if natBits h 0 4 = typeFollowUp then s.hearFollowUp port seqId correction time
  else if natBits h 0 4 = typeDelayResp then s.hearDelayResp port seqId correction time (natBits (w.getD 5 0) 0 64)
  else s.hearAnnounce port (w64 (w.getD 7 0)) (w64 (w.getD 6 0))

/-- Firmware permits the package to be grandmaster, or no longer (R214). -/
def State.permit (s : State) (permitted : Bool) : State :=
  ({ s with time := { s.time with permitted } } : State).chooseSource

/-- The ports and types whose interval has expired, the first. -/
def State.ptpDue (s : State) : Option (Nat × Nat) :=
  let ports := (match s.time.source with
    | some p => [p]
    | none => []) ++ if s.pkg.ptprole = 0 ∧ !s.isGrandmaster then [] else (upFrom 0 34).filter s.isMaster
  (ports.flatMap fun p => [(p, typeSync), (p, typeAnnounce), (p, typeDelayReq)]).find? fun x => s.intervalDue x.1 x.2

end Sys2Proof.Machine
end

