-- ==== Sys2Proof/Machine/Host.lean ====
section
/-!
DEFINITION. Sys2Proof/Machine/Host.lean: what the host, the fabric and the package registers do: the control page
(R258, R259, R262, R263), BAR4 (R256), the host mailbox (R261), profiling records (R266-R268), links and peers
(R264, R265), peers' requests (R125), boot, attestation and alarms (R269-R272), and die reset (R273).
-/

namespace Sys2Proof.Machine

open Sys2Proof

/-! ## Register writes -/

/-- A register field that ignores some values. -/
def writeIf (ok : Bool) (old new : Nat) : Nat := if ok then new else old

/-- The low 16 bits of a 64 KiB aligned register read zero (DEDUCED, log 22). -/
def align64K (v : Word) : Word := w64 (v.toNat / 65536 * 65536)

/-- The clusters that other partitions hold. -/
def State.othersClusters (s : State) (part : Nat) : BitVec 96 :=
  s.parts.foldl (fun c p => if p.1 = part then c else c ||| p.2.clusters) 0

/-- PARTCFG0 and PARTCFG1: ignored while the partition holds a launch. -/
def State.writeClusters (s : State) (part : Nat) (hi : Bool) (v : Word) : State :=
  if (s.launchesOf part).any fun l => l.state != .ended then s
  else
    let p := s.part part
    let low : BitVec 96 := BitVec.ofNat 96 (2 ^ 64 - 1)
    let new := if hi then (p.clusters &&& low) ||| BitVec.ofNat 96 (field (wbits v 0 32) 64)
      else (p.clusters &&& ~~~low) ||| v.setWidth 96
    s.setPart part { p with clusters := new &&& ~~~s.othersClusters part }

/-- PARTCFG. -/
def execPartcfg (part : Nat) (hiHalf : Bool) (value : Word) (s : State) : Out := .next (s.writeClusters part hiHalf value)

/-- A counter slot counts new events from zero. -/
def State.writeCtrsel (s : State) (part slot : Nat) (v : Word) : State :=
  let p := s.part part
  s.setPart part { p with pm := p.pm.insert slot { sel := v.setWidth 32 }, pmSince := s.time.ns }

/-- CTRSEL. -/
def execCtrsel (part slot : Nat) (value : Word) (s : State) : Out := .next (s.writeCtrsel part slot value)

/-- Rotation r is the r-th millisecond of device time (DEDUCED, log 23). -/
def State.rotationNow (s : State) : Nat := s.time.ns / 1000000

/-- COUNTER_ROTATION. -/
def execCounterRotation (part : Nat) (s : State) : Out :=
  .next (s.setPart part { s.part part with rotation := s.rotationNow })

/-- SAMPCTL: the interval takes 10 to 24 only. -/
def sampctl (old v : Word) : Word :=
  let n := wbits v 0 5
  w64 (field (wbits v 63 1) 63 + writeIf (decide (10 ≤ n ∧ n ≤ 24)) (wbits old 0 5) n)

/-- A word of a ring group; the migration ring is produced by software and consumed by the engine. -/
def Ring.write (r : Ring) (migrate : Bool) (i : Nat) (v : Word) : Ring :=
  if i = 0 then { r with base := v }
  else if i = 1 ∧ migrate then { r with producer := v }
  else if i = 2 ∧ !migrate then { r with consumer := v }
  else r

def Ring.read (r : Ring) (i : Nat) : Word :=
  if i = 0 then r.base else if i = 1 then r.producer else if i = 2 then r.consumer else r.dropped.setWidth 64

def ringOf (i : Nat) : RingSel := if i = 0 then .fault else if i = 1 then .floe else if i = 2 then .sample else .migrate

/-- PTPCFG: a domain of 128 or more is ignored. -/
def ptpcfg (old v : Word) : Word :=
  w64 (field (wbits v 8 28) 8 + writeIf (decide (wbits v 0 8 < 128)) (wbits old 0 8) (wbits v 0 8))

/-- A write of PTPCFG: what other domains have announced counts no longer, and the source is chosen again. -/
def State.writePtpcfg (s : State) (v : Word) : State :=
  let pkg := { s.pkg with ptpcfg := ptpcfg s.pkg.ptpcfg v }
  let announces := if pkg.domain = s.pkg.domain then s.time.announces else []
  ({ s with pkg, time := { s.time with announces } } : State).chooseSource

/-- PTPROLE: the value 3 is ignored, port by port. -/
def ptprole (old v : Word) : Word :=
  w64 ((upFrom 0 32).foldl (fun w k =>
    w + field (writeIf (decide (wbits v (2 * k) 2 ≠ 3)) (wbits old (2 * k) 2) (wbits v (2 * k) 2)) (2 * k)) 0)

/-- DIERST: a second one during a reset is ignored, and so is a deadline outside its range. The bits that R273 does not
name read zero (DEDUCED, log 96). -/
def State.writeDierst (s : State) (v : Word) : State :=
  let us := wbits v 32 32
  if s.pkg.dierst ≠ 0 ∨ us < 10 ∨ 100000 < us then s
  else { s with pkg := { s.pkg with
    dierstReg := w64 (field us 32 + wbits v 0 4), dierst := BitVec.ofNat 4 (wbits v 0 4), quiesceBy := s.time.ns + 1000 * us } }

/-- DIERST. -/
def execDierst (value : Word) (s : State) : Out := .next (s.writeDierst value)

def State.clearPeer (s : State) (v : Word) : State :=
  { s with pkg := { s.pkg with
      down := s.pkg.down.filter (· != wbits v 0 18)
      cleared := if s.pkg.allDown then wbits v 0 18 :: s.pkg.cleared else [] } }

/-- PEERCLR. -/
def execPeerclr (value : Word) (s : State) : Out := .next (s.clearPeer value)

/-- ATTREQ: no key, or a report begins. -/
def State.attest (s : State) : State :=
  { s with pkg := { s.pkg with attState := if s.pkg.keyErased then 3 else 1 } }

def execAttreq (_value : Word) (s : State) : Out := .next s.attest

/-- A write of the MSI-X table; a pending vector that is no longer masked is raised. -/
def State.writeMsix (s : State) (part i : Nat) (v : Word) : State :=
  let s := s.setPart part { s.part part with msixTable := (s.part part).msixTable.insert i v }
  let p := s.part part
  let vec := i / 2
  if p.msix.getLsbD vec ∧ !p.msixMasked vec then
    (s.setPart part { p with msix := p.msix &&& ~~~BitVec.ofNat 16 (2 ^ vec) }).msix part vec
  else s

/-- The host sets a function's MSI-X enable and function mask; vectors that are pending and no longer masked are raised. -/
def State.msixControl (s : State) (part : Nat) (on mask : Bool) : State :=
  let s := s.setPart part { s.part part with msixOn := on, msixMask := mask }
  (upFrom 0 16).foldl (fun s vec =>
    let p := s.part part
    if p.msix.getLsbD vec ∧ !p.msixMasked vec then
      (s.setPart part { p with msix := p.msix &&& ~~~BitVec.ofNat 16 (2 ^ vec) }).msix part vec
    else s) s

/-- The host sizes BAR4: 2^n GiB, at most 512; APBASE reads zero below the size (R256). -/
def State.sizeAperture (s : State) (part n : Nat) : State :=
  let p := s.part part
  let aperture := 0x40000000 * 2 ^ n
  if n ≤ 9 then s.setPart part { p with aperture, apbase := w64 (p.apbase.toNat / aperture * aperture) } else s

/-- Replace 8 bytes of a byte buffer of a size. -/
def putWord (old : List Byte) (size i : Nat) (v : Word) : List Byte :=
  splice (old ++ List.replicate (size - old.length) 0) (8 * i) (leBytes 8 v.toNat)

/-- Package registers, writable with the rights of a physical function only. -/
def State.packageWrite (s : State) (off : Nat) (v : Word) : State :=
  if off = 0x0400 then s.writeCap v
  else if off = 0x0408 then s.writePtpcfg v
  else if off = 0x0410 then ({ s with pkg := { s.pkg with ptprole := ptprole s.pkg.ptprole v } } : State).chooseSource
  else if off = 0x0418 then
    if 50 ≤ wbits v 0 32 ∧ wbits v 0 32 ≤ 10000 then { s with pkg := { s.pkg with downint := v.setWidth 32 } } else s
  else if off = 0x0420 then s.writeDierst v
  else if off = 0x0438 then s.clearPeer v
  else if 0x0800 ≤ off ∧ off < 0x0840 then
    { s with pkg := { s.pkg with nonce := putWord s.pkg.nonce 64 ((off - 0x0800) / 8) v } }
  else if off = 0x0840 then s.attest
  else s

/-- Registers of a partition (DESIGN CHOICE, log 78). -/
def State.partWrite (s : State) (part : Nat) (pf : Bool) (off : Nat) (v : Word) : State :=
  let p := s.part part
  if off ≤ 0x0020 ∨ off = 0x0030 then
    if !pf then s
    else if off = 0x0000 then s.writeClusters part false v
    else if off = 0x0008 then s.writeClusters part true v
    else if off = 0x0010 then s.setPart part { p with glshare := BitVec.ofNat 4 (wbits v 0 4) }
    else if off = 0x0018 then s.setPart part { p with bulkBase := align64K v }
    else if off = 0x0020 then s.setPart part { p with bulkLimit := align64K v }
    else s.writeShare part v
  else if off = 0x0028 then s.setPart part { p with asdir := align64K v }
  else if off = 0x0048 then s.setPart part { p with apbase := w64 (v.toNat / p.aperture * p.aperture) }
  else if off = 0x0050 then s.setPart part { p with hwbase := v }
  else if off = 0x0058 then s.setPart part { p with sampctl := sampctl p.sampctl v }
  else if 0x0060 ≤ off ∧ off < 0x00A0 then s.writeCtrsel part ((off - 0x0060) / 8) v
  else if 0x0100 ≤ off ∧ off < 0x0180 then
    let r := ringOf ((off - 0x0100) / 0x20)
    s.setPart part (p.setRing ((p.ring r).write (r == .migrate) (off % 0x20 / 8) v) r)
  else if off = 0x0200 then s.prelaunch part v
  else if off = 0x0208 then s.setPart part { p with preimage := v }
  else if 0x8000 ≤ off ∧ off < 0x8100 then s.writeMsix part ((off - 0x8000) / 8) v
  else s

/-- A write of 8 bytes of a control page; unlisted offsets ignore it. -/
def State.pageWrite (s : State) (part : Nat) (pf : Bool) (off : Nat) (v : Word) : State :=
  if 0x0400 ≤ off ∧ off < 0x8000 then (if pf then s.packageWrite off v else s) else s.partWrite part pf off v

/-- The host mailbox buffer lies behind BAR2, 0x1_0000 (R261). -/
def mailboxWrite (old : List Byte) (off : Nat) (v : Word) : List Byte := putWord old 256 (off / 8) v

/-- REGISTER_WRITE; offsets from 0x1_0000 name the host mailbox buffer. -/
def execRegisterWrite (part : Nat) (pf : Bool) (offset : Nat) (value : Word) (s : State) : Out :=
  .next <|
    if offset < 0x10000 then s.pageWrite part pf offset value
    else if offset < 0x10100 then
      s.setPart part { s.part part with mailbox := mailboxWrite (s.part part).mailbox (offset - 0x10000) value }
    else s

/-! ## Register reads -/

/-- The 8 bytes of a buffer at an index. -/
def getWord (bytes : List Byte) (i : Nat) : Word := w64 (leNat ((bytes.drop (8 * i)).take 8))

/-- The identity public key at 0x0C00: x and y of 66 bytes each, then zeros. -/
def identityKey : List Byte := (upFrom 0 132).map Config.identityKey

/-- DIESTAT. -/
def Package.diestat (p : Package) : Word := w64 (field p.bootFailed.toNat 63 + p.dierst.toNat)

def Package.read (p : Package) (off : Nat) : Word :=
  if off = 0x0400 then p.pwrcap.setWidth 64
  else if off = 0x0408 then p.ptpcfg
  else if off = 0x0410 then p.ptprole
  else if off = 0x0418 then p.downint.setWidth 64
  else if off = 0x0420 then p.dierstReg
  else if off = 0x0428 then p.diestat
  else if off = 0x0430 then p.alarmlog
  else if 0x0800 ≤ off ∧ off < 0x0840 then getWord p.nonce ((off - 0x0800) / 8)
  else if off = 0x0840 then p.attState.setWidth 64
  else if 0x0A00 ≤ off ∧ off < 0x0C00 then getWord p.report ((off - 0x0A00) / 8)
  else if 0x0C00 ≤ off ∧ off < 0x0C88 then getWord identityKey ((off - 0x0C00) / 8)
  else 0

def Part.read (p : Part) (off : Nat) : Word :=
  if off = 0x0000 then p.clusters.setWidth 64
  else if off = 0x0008 then w64 (p.clusters.toNat / 2 ^ 64)
  else if off = 0x0010 then p.glshare.setWidth 64
  else if off = 0x0018 then p.bulkBase
  else if off = 0x0020 then p.bulkLimit
  else if off = 0x0028 then p.asdir
  else if off = 0x0030 then p.pwrshare.setWidth 64
  else if off = 0x0038 then w64 (field (p.cB % 65536) 48 + field (p.cN % 65536) 32 + field (p.cV % 65536) 16 + p.cM % 65536)
  else if off = 0x0040 then w64 (p.cS % 65536)
  else if off = 0x0048 then p.apbase
  else if off = 0x0050 then p.hwbase
  else if off = 0x0058 then p.sampctl
  else if 0x0060 ≤ off ∧ off < 0x00A0 then (p.pm.get {} ((off - 0x0060) / 8)).sel.setWidth 64
  else if off = 0x00A0 then p.failflake
  else if off = 0x00A8 then p.cecount
  else if off = 0x00B0 then p.aperr
  else if 0x0100 ≤ off ∧ off < 0x0180 then (p.ring (ringOf ((off - 0x0100) / 0x20))).read (off % 0x20 / 8)
  else if off = 0x0208 then p.preimage
  else if off = 0x0210 then p.prestat.setWidth 64
  else if 0x8000 ≤ off ∧ off < 0x8100 then p.msixWord ((off - 0x8000) / 8)
  else if off = 0x9000 then p.msix.setWidth 64
  else 0

/-- A read of 8 bytes of a control page; ALARMLOG is cleared by it. -/
def State.pageRead (s : State) (part off : Nat) : Word × State :=
  if 0x0400 ≤ off ∧ off < 0x8000 then
    (s.pkg.read off, if off = 0x0430 then { s with pkg := { s.pkg with alarmlog := 0 } } else s)
  else ((s.part part).read off, s)

/-- ALARMLOG_READ by the host. -/
def execAlarmlogRead (s : State) : Out :=
  .next <|
    let (v, s) := s.pageRead 0 0x0430
    { s with outbox := s.outbox ++ [Fabric.hostData 0 (leBytes 8 v.toNat)] }

/-! ## Device control space (R258) -/

/-- An 8-byte write at a physical address of device control space, from supervisor code of a partition. -/
def State.controlWrite (s : State) (part pa : Nat) (v : Word) : State :=
  if 0xC0000400000 ≤ pa then s.pageWrite part (part % 16 == 0) ((pa - 0xC0000400000) % 65536) v
  else s.windowWrite (3 * part + 1 + (pa - 0xC0000000000) / 65536 % 2) (pa % 65536) v

def State.controlRead (s : State) (part pa : Nat) : Word × State :=
  if 0xC0000400000 ≤ pa then s.pageRead part ((pa - 0xC0000400000) % 65536)
  else (s.windowRead (3 * part + 1 + (pa - 0xC0000000000) / 65536 % 2) (pa % 65536), s)

/-! ## BAR4 (R256, R257) -/

/-- Does a byte of the aperture reach memory? (DEDUCED, log 74). -/
def State.apertureByte (s : State) (p : Part) (pa : Nat) : Bool :=
  decide (p.bulkBase.toNat ≤ pa ∧ pa < p.bulkLimit.toNat) && match s.phys pa with
    | some k => k.isMemory && !s.unreachable (.bulk k pa)
    | none => false

/-- BAR4_ACCESS: a read gives the host its bytes; a write lands, as a release. -/
def execBar4Access (part offset : Nat) (write : Option (List Byte)) (len : Nat) (s : State) : Out :=
  .next <|
    let p := s.part part
    let pa := p.apbase.toNat + offset
    let n := match write with
      | some bs => bs.length
      | none => len
    let ok := decide (offset + n ≤ p.aperture) && (upFrom pa n).all (s.apertureByte p)
    let s := if ok then s else s.setPart part { p with aperr := p.aperr + 1 }
    match write with
    | some bs => if ok then s.land pa bs else s
    | none =>
      { s with outbox := s.outbox ++
          [Fabric.hostData part (if ok then Memory.readBytes s.mem pa n else List.replicate n 0xFF)] }

/-! ## The host mailbox (R261) -/

/-- The message in the mailbox buffer: its header, then its payload. -/
def State.mailboxMsg (s : State) (part : Nat) (l : Launch) : Msg :=
  let b := (s.part part).mailbox
  let h := getWord b 0
  { id := 0, header := h, payload := (upFrom 1 (min (hCount h) 31)).map (getWord b), sender := noSender, part, launch := l.lid
    origin := .send, lev := false, asid := Block.asid l.block, thread := none, at_ := entryPoint h, entered := true
    taker := none, blocked := false }

/-- The reason of MBSTAT. A kind other than 0 and 5, or an entry of 0xFFFF_FFFF, has reason 1 (DEDUCED, log 24). -/
def State.mailboxReason (s : State) (l : Launch) (m : Msg) : Nat :=
  if l.state ≠ .running then 5
  else if (hKind m.header ≠ 0 ∧ hKind m.header ≠ 5) ∨ hEntry m.header = replyEntry then 1
  else (s.msgFault m).getD 0

def State.sendMailbox (s : State) (part : Nat) (v : Word) : State :=
  let set (s : State) (r : Nat) : State := s.setPart part { s.part part with mbstat := BitVec.ofNat 8 r }
  match s.launches.look? (launchKey part (wbits v 32 32)) with
  | none => set s 5
  | some l =>
    let m := s.mailboxMsg part l
    let r := s.mailboxReason l m
    set (if r = 0 then s.inject m else s) r

/-- SENDLAUNCH. -/
def execSendlaunch (part : Nat) (value : Word) (s : State) : Out := .next (s.sendMailbox part value)

/-! ## PC samples (R41, R266, R267) -/

/-- The stall reason of a wait that is not over, where R267 names one (DESIGN CHOICE, log 66). -/
def State.waitCode (s : State) (core : Nat) : Wait → Option Nat
  | .token _ => some 4
  | .queueRead _ _ _ => some 5
  | .queueWrite _ _ _ => some 6
  | .barrier _ _ => some 7
  | .wired _ _ => some 7
  | .wiredBusy => some 7
  | .groupBar _ _ _ _ => some 7
  | .tswap _ _ => some 7
  | .tswapBusy => some 7
  | .line key => some (if isSpadKey key then (if coreOfKey key = core then 1 else 2) else if isGlacierKey key then 1 else 12)
  | .yielded _ _ => some 0
  | .bank _ => some 10
  | .load _ _ _ key _ fill _ _ _ =>
    if s.keyRefreshing key then some 10
    else if fill then some 2
    else if isGlacierKey key then some 1
    else some 12
  | .settle => some 3
  | .jobQueue _ => some 9
  | .reserved => some 9
  | _ => none

/-- Is the line of a thread's next instruction in its core's instruction cache (R77)? -/
def State.lineHeld (s : State) (ctx : Nat) : Bool :=
  let t := s.thAt ctx
  t.flake.isSome || (s.core (coreOfCtx ctx)).icache.any fun l =>
    l.asid == t.asid && l.part == t.part && l.va == lineOf (natBits t.pc.toNat 0 52)

/-- The stall reason of a context (R267): a context that can issue has none, unless its next instruction has to be fetched
first. -/
def State.stallCode (s : State) (ctx : Nat) : Option Nat :=
  if s.isReady ctx then (if s.lineHeld ctx then some 0 else some 11) else s.waitCode (coreOfCtx ctx) (s.thAt ctx).wait

/-- Has a context issued in this tick? -/
def State.issuedNow (s : State) (ctx : Nat) : Bool :=
  let c := s.core (coreOfCtx ctx)
  s.issued.contains (coreOfCtx ctx) && if ctx % 4 = 3 then c.svcNow else !c.svcNow && c.lastUser == ctx % 4

/-- A sample of a context, which has issued in the V cycle or not; a stall that R267 gives no reason for has a free one of
the 13 (log 5). -/
def State.samplePc (s : State) (ctx : Nat) (issued : Bool) : State :=
  let t := s.thAt ctx
  let (stall, s) := match (if issued then some 0 else s.stallCode ctx) with
    | some n => (n, s)
    | none => let (i, s) := s.takeFree; ((Config.freeWord i).toNat % 13, s)
  let group := if t.flake.isSome then 0xFFFF else ((s.groupsOf t.part t.tid).head?).getD 0xFFFF
  let id := if t.flake.isSome then 0 else t.tid % 2 ^ 32
  match s.ringPut t.part .sample [t.pc.toNat, s.time.ns, field id 32 + field group 16 + ctx, stall] with
  | (s, true) =>
    let r := (s.part t.part).sample
    if (r.producer - r.consumer).toNat * 2 = 2 ^ wbits r.base 0 6 then s.msix t.part 4 else s
  | (s, false) => s

/-- Is a context sampled: its partition samples, and it holds a thread or a service flake? -/
def State.sampled (s : State) (ctx : Nat) : Bool :=
  (s.ctx ctx).isRunning && wbit (s.part (s.thAt ctx).part).sampctl 63

/-- PC_SAMPLE. -/
def execPcSample (ctx : Nat) (s : State) : Out := .next (if s.sampled ctx then s.samplePc ctx (s.issuedNow ctx) else s)

/-! ## Links and peers (R238, R264, R265) -/

/-- The egress port for a destination: the first live one from its own. -/
def State.egressPort (s : State) (chip : Nat) : Option Nat :=
  ((upFrom 0 32).map fun i => (chip + i) % 32).find? fun p => s.pkg.ports.getLsbD p

/-- The destination of what leaves for another chip. -/
def Fabric.dest : Fabric → Option Nat
  | .floe c _ => some c
  | .msg c _ => some c
  | .store c _ _ _ => some c
  | .atomic c _ _ _ _ _ _ => some c
  | .fitness c _ _ _ _ => some c
  | .driftRequest c _ _ _ _ => some c
  | .driftReady c _ _ _ _ => some c
  | .driftStream c _ _ _ _ _ _ => some c
  | .driftAck c _ _ _ _ _ => some c
  | .peerReply c _ _ _ => some c
  | _ => none

/-- Destinations keep their old port while something sent to them is not acknowledged. -/
def State.reroute (s : State) : State :=
  let busy (c : Nat) : Bool := s.outbox.any fun f => f.dest == some c
  let chips := (s.pkg.routes.keys ++ s.outbox.filterMap Fabric.dest).eraseDups
  let next (t : Tbl Nat) (c : Nat) : Tbl Nat :=
    if busy c && (t.look? c).isSome then t
    else match s.egressPort c with
      | some p => t.insert c p
      | none => t
  { s with pkg := { s.pkg with routes := chips.foldl next s.pkg.routes } }

/-- FABRIC_LINK_CHANGE: what is on its way keeps the route on which it left. -/
def execFabricLinkChange (port : Nat) (up : Bool) (s : State) : Out :=
  .next <|
    let s := s.reroute
    let bit := BitVec.ofNat 32 (2 ^ port)
    let ports := if up then s.pkg.ports ||| bit else s.pkg.ports &&& ~~~bit
    let noRoute := if ports ≠ 0 then none else some (s.pkg.noRoute.getD s.time.ns)
    ({ s with pkg := { s.pkg with ports, noRoute } } : State).reroute

/-- CXL_LINK_CHANGE. -/
def execCxlLinkChange (port : Nat) (up : Bool) (s : State) : Out :=
  .next <|
    let bit := BitVec.ofNat 4 (2 ^ port)
    { s with pkg := { s.pkg with cxlUp := if up then s.pkg.cxlUp ||| bit else s.pkg.cxlUp &&& ~~~bit } }

/-- The contexts whose atomic awaits a peer's reply trap STORE_FAULT. -/
def State.peerLostAtomics (s : State) (chip : Nat) : State :=
  s.ctxs.foldl (fun r c => match c.2.th.wait with
    | .reply _ addr (some p) => if p = chip ∧ c.2.isRunning then r.trapAt c.1 Cause.storeFault addr else r
    | _ => r) s

/-- Thread messages to a peer that it has not acknowledged: their threads end (R236). -/
def State.peerLostThreads (s : State) (chip : Nat) : State :=
  s.outbox.foldl (fun r f => match f with
    | .msg c m =>
      if c = chip then
        match m.thread with
        | some t => (r.faultRecord t.part t.tid (ctxOfMesh m.sender) Cause.loadFault m.fault t.pc).threadGone t true
        | none => r
      else r
    | _ => r) s

/-- A peer is declared down. -/
def State.declareDown (s : State) (chip : Nat) : State :=
  let s : State := { s with pkg := { s.pkg with down := s.pkg.down ++ [chip] } }
  let s := (s.peerLostAtomics chip).peerLostThreads chip
  let s : State := { s with
    stores := s.stores.map fun p => if p.peer = some chip then { p with lost := true } else p
    outbox := s.outbox.filter fun f => f.dest != some chip }
  let s := (s.peerLostDomains chip).peerLostFloes chip
  (upFrom 0 32).foldl (fun s p => s.msix p 5) s.reroute

/-- No route from a moment on, for DOWNINT. -/
def State.unroutedSince (s : State) (since : Option Nat) : Bool :=
  since.any fun t => decide (t + 1000 * s.pkg.downint.toNat ≤ s.time.ns)

/-- The peers that something here waits for or talks to. -/
def State.knownPeers (s : State) : List Nat :=
  (s.outbox.filterMap Fabric.dest ++ s.stores.filterMap (·.peer) ++ (s.floes.flatMap fun f => f.2.members) ++
    (s.ctxs.filterMap fun c => match c.2.th.wait with
      | .reply _ _ p => p
      | _ => none) ++
    s.domains.flatMap fun d => d.2.slots.map (·.chip)).eraseDups.filter fun c => c != s.pkg.chip && !s.pkg.isDown c

/-- Every peer is declared down: no port has been live for DOWNINT. -/
def State.declareAllDown (s : State) : State :=
  let s := s.knownPeers.foldl State.declareDown s
  let s : State := { s with pkg := { s.pkg with allDown := true, cleared := [] } }
  (upFrom 0 32).foldl (fun s p => s.msix p 5) s

/-- PEER_DECLARED_DOWN: once no route to it has been live for DOWNINT. -/
def execPeerDeclaredDown (chip : Nat) (s : State) : Out :=
  .next <|
    if s.pkg.isDown chip ∨ chip = s.pkg.chip then s
    else if s.unroutedSince s.pkg.noRoute then s.declareAllDown
    else if s.unroutedSince (s.pkg.noRouteTo.look? chip) then s.declareDown chip
    else s

/-- The fabric has a route to a peer, or has lost the last. -/
def State.peerRoute (s : State) (chip : Nat) (live : Bool) : State :=
  let t := s.pkg.noRouteTo
  { s with pkg := { s.pkg with
      noRouteTo := if live then t.erase chip else if (t.look? chip).isSome then t else t.insert chip s.time.ns } }

/-- A peer that is to be declared down. -/
def State.downDue (s : State) : Option Nat :=
  if s.unroutedSince s.pkg.noRoute then
    if s.pkg.allDown then s.pkg.cleared.find? (· != s.pkg.chip) else some (if s.pkg.chip = 0 then 1 else 0)
  else s.pkg.noRouteTo.keys.find? fun c =>
    c != s.pkg.chip && !s.pkg.isDown c && s.unroutedSince (s.pkg.noRouteTo.look? c)

/-! ## A peer's request (R125) -/

/-- What a peer asks for: a store, an ATOM or a CAS. -/
def peerOp (kind size op : Nat) (data data2 : Word) : Option AtomicOp :=
  if kind = 1 then some (.rmw op size (lowBytes data size))
  else if kind = 2 then some (.cas size (lowBytes data2 size) (lowBytes data size))
  else none

/-- The reply to a peer: the old value, and 0 or the cause of a rejection. -/
def State.peerReply (s : State) (chip part : Nat) (v : Word) (status : BitVec 8) : State :=
  { s with outbox := s.outbox ++ [Fabric.peerReply chip part v status] }

/-- PEER_REQUEST: the access runs under the sender's partition number and ASID (R330); a place that it cannot reach
rejects it, and so does a bound granule (DEDUCED, log 76). A store to a refreshing bank waits at the port (R73). -/
def execPeerRequest (chip kind part : Nat) (asid : BitVec 16) (sup : Bool) (addr : Word) (size op : Nat)
    (data data2 : Word) (s : State) : Out :=
  .next <|
    let reject := s.peerReply chip part 0 Cause.storeFault
    match s.resolve { core := none, part, asid, sup } addr (if kind = 0 then .write else .atomic) with
    | .error _ => reject
    | .ok p =>
      let k := s.keyOf part p
      if addr.toNat % size ≠ 0 ∨ s.unreachable p ∨ s.placeBound p ∨ isControlKey k then reject
      else match peerOp kind size op data data2 with
      | none =>
        if s.portHolds k none then
          { s with
            portQueue := s.portQueue ++ [⟨s.nextId, k, chip, part, leBytes size data.toNat⟩]
            nextId := s.nextId + 1 }
        else (s.land k (leBytes size data.toNat)).peerReply chip part 0 0
      | some o =>
        if !carries p o ∨ isGlacierKey k then reject
        else if (s.badGranule? k size).isSome then s.peerReply chip part 0 Cause.mchk
        else
          let (old, _, s) := s.perform k o
          s.peerReply chip part (w64 old) 0

/-- A peer's store that has waited for its bank is performed (R73), unless its place has gone meanwhile. -/
def State.servePort (s : State) (x : PortWrite) : State :=
  let s : State := { s with portQueue := s.portQueue.filter fun y => y.number != x.number }
  if s.pkg.fenced.getLsbD (natBits x.key 42 2) then s.peerReply x.chip x.part 0 Cause.storeFault
  else (s.land x.key x.bytes).peerReply x.chip x.part 0 0

/-! ## Boot, attestation, alarms (R269-R272) -/

/-- The package after its reset: what is fused, the key's loss, the alarm log, memory, links and the outside world
stay (DESIGN CHOICE, log 25). -/
def State.packageReset (s : State) : State :=
  { State.reset with
    mem := s.mem, errors := s.errors, outbox := s.outbox, turns := s.turns, nextId := s.nextId, free := s.free
    pkg := { chip := s.pkg.chip, attState := if s.pkg.keyErased then 3 else 0, policy := s.pkg.policy
             minVersion := s.pkg.minVersion, keyErased := s.pkg.keyErased
             alarmlog := s.pkg.alarmlog, alarms := s.pkg.alarms, firmware := s.pkg.firmware, bootFailed := s.pkg.bootFailed
             ports := s.pkg.ports, noRoute := s.pkg.noRoute, noRouteTo := s.pkg.noRouteTo
             cxlCap := s.pkg.cxlCap, cxlUp := s.pkg.cxlUp } }

/-- BOOT, at package reset. -/
def execBoot (signatureOk : Bool) (version : Nat) (s : State) : Out :=
  .next <|
    let s := s.packageReset
    let ok := signatureOk && decide (s.pkg.minVersion ≤ version)
    { s with pkg := { s.pkg with bootFailed := !ok, firmware := if ok then w64 version else s.pkg.firmware } }

/-- The bytes of control page 0 from 0x0000 to 0x005F. -/
def State.pageBytes (s : State) : List Byte := (upFrom 0 12).flatMap fun i => leBytes 8 ((s.part 0).read (8 * i)).toNat

/-- Bytes 0x000 to 0x0D7 of the report. The page it hashes is partition 0's (DESIGN CHOICE, log 26). -/
def State.reportBody (s : State) : List Byte :=
  let p := s.pkg
  leBytes 8 (p.chip + field 1 56) ++ leBytes 8 p.firmware.toNat ++ putWord p.nonce 64 0 (getWord p.nonce 0) ++
    (upFrom 0 64).map Config.firmwareHash ++ (upFrom 0 64).map (Config.sha512 s.pageBytes) ++
    leBytes 8 (p.policy.toNat + field p.alarms.toNat 32)

/-- ATTESTATION_DONE. -/
def execAttestationDone (s : State) : Out :=
  .next <|
    if s.pkg.attState ≠ 1 then s
    else
      let b := s.reportBody
      { s with pkg := { s.pkg with
          attState := 2, report := b ++ (upFrom 0 132).map (Config.signature b) ++ List.replicate 164 0 } }

/-- SECURITY_ALARM: the log, vector 7, then the fused policy. -/
def execSecurityAlarm (source : BitVec 2) (s : State) : Out :=
  .next <|
    let s : State := { s with pkg := { s.pkg with
      alarmlog := w64 (source.toNat + field (s.time.ns % 2 ^ 48) 16), alarms := satInc32 s.pkg.alarms } }
    let s := s.msixPhysical 7
    if s.pkg.policy = 1 then s.packageReset
    else if s.pkg.policy = 2 then ({ s with pkg := { s.pkg with keyErased := true } } : State).packageReset
    else s

/-! ## Die reset (R273) -/

def coresOfDie (die : Nat) : List Nat := upFrom (die * 576) 576

/-- Is a key a byte of a die: of a scratchpad, of glacier or of a weight buffer? -/
def keyOnDie (die k : Nat) : Bool := decide (1 ≤ k / 2 ^ 52 ∧ k / 2 ^ 52 ≤ 3) && natBits k 42 2 == die

/-- Does a die have nothing left to do? -/
def State.dieIdle (s : State) (die : Nat) : Bool :=
  !(s.jobs.any fun j => j.2.cls != 2 && dieOf j.2.core == die) &&
    !(s.stores.any fun p => p.peer.isNone && (dieOf (coreOfCtx p.ctx) == die || (!p.landed && keyOnDie die p.key))) &&
    !(s.ctxs.any fun c => c.2.isRunning && match c.2.th.wait with
      | .load _ _ _ key _ _ _ _ _ => dieOf (coreOfCtx c.1) == die || keyOnDie die key
      | .reply _ _ _ => dieOf (coreOfCtx c.1) == die
      | _ => false)

def State.fenceDue (s : State) (die : Nat) : Bool :=
  s.pkg.dierst.getLsbD die && !s.pkg.fenced.getLsbD die && (s.dieIdle die || decide (s.pkg.quiesceBy ≤ s.time.ns))

/-- Loads of other dies that wait for the die. -/
def State.fenceLoads (s : State) (die : Nat) : State :=
  s.ctxs.foldl (fun r c => match c.2.th.wait with
    | .load _ _ _ key addr _ _ _ _ =>
      if c.2.isRunning ∧ keyOnDie die key ∧ dieOf (coreOfCtx c.1) ≠ die then r.trapAt c.1 Cause.loadFault addr else r
    | _ => r) s

/-- The messages on their way to a core of the die that has been chosen to take them. -/
def State.boundFor (s : State) (die : Nat) : List (Nat × Msg) :=
  s.mesh.filterMap fun m => match m.taker with
    | some c => if dieOf c = die then some (c, m) else none
    | none => none

/-- Every thread on the die ends with MCHK, wherever it stands there, or on its way to it. -/
def State.endDieThreads (s : State) (die : Nat) : State :=
  let s := s.ctxs.foldl (fun r c =>
    if dieOf (coreOfCtx c.1) = die ∧ c.2.isRunning ∧ c.1 % 4 ≠ 3 then r.endFailed c.1 Cause.mchk 0 c.2.th.pc else r) s
  let parked := (s.cores.filter fun c => dieOf c.1 == die).flatMap fun c =>
    ((c.2.runq ++ c.2.backlog).filterMap fun e => e.entry.thread?.map fun t => (c.1, t)) ++
      c.2.mail.filterMap fun m => m.thread.map fun t => (c.1, t)
  let starting := (s.ctxs.filter fun c => dieOf (coreOfCtx c.1) == die).filterMap fun c => match c.2.mode with
    | .starting m => m.thread.map fun t => (coreOfCtx c.1, t)
    | _ => none
  let coming := (s.boundFor die).filterMap fun p => p.2.thread.map fun t => (p.1, t)
  (parked ++ starting ++ coming).foldl (fun s p => (s.faultRecord p.2.part p.2.tid (ctxOf p.1 0) Cause.mchk 0 p.2.pc).threadGone p.2 true) s

/-- Messages that stand on the die are refused with reason 3: in a mailbox, in a run queue, held by a context, or on their
way to one of its cores. -/
def State.refuseDieMail (s : State) (die : Nat) : State :=
  let queued := (s.cores.filter fun c => dieOf c.1 == die).flatMap fun c =>
    (c.2.mail ++ (c.2.runq ++ c.2.backlog).filterMap (fun e => match e.entry with
      | .msg m => some m
      | .thread _ => none)).map fun m => (c.1, m)
  let held := (s.ctxs.filter fun c => dieOf (coreOfCtx c.1) == die).filterMap fun c => match c.2.mode with
    | .starting m => some (coreOfCtx c.1, m)
    | _ => none
  ((queued ++ held ++ s.boundFor die).filter fun p => p.2.thread.isNone).foldl (fun s p => s.refuse p.2 p.1 3) s

/-- The die's cores, clusters, memories and bindings start over. -/
def State.clearDie (s : State) (die : Nat) : State :=
  { s with
    mesh := s.mesh.filter fun m => !(m.taker.any fun c => dieOf c == die)
    ctxs := s.ctxs.filter fun c => dieOf (coreOfCtx c.1) != die
    cores := s.cores.filter fun c => dieOf c.1 != die
    clusters := s.clusters.mapVal fun k c => if k / 24 = die then { c with tlb := [] } else c
    mem := s.mem.filter fun c => !keyOnDie die c.1
    tags := s.tags.filter fun k => !keyOnDie die k
    errors := s.errors.filter fun k => !keyOnDie die k
    fills := s.fills.filter fun f => dieOf f.1 != die
    bindings := s.bindings.filter fun b => b.die != die }

/-- A job that its die's reset ends. -/
def Job.cutOff (j : Job) : Job := { j with state := .bodyDone, status := 0x02, made := [], waits := none, pause := none }

/-- DIE_FENCE: what is still outstanding fails, and the die is reset. -/
def execDieFence (die : Nat) (s : State) : Out :=
  .next <|
    if !s.fenceDue die then s
    else
      let s : State := { s with pkg := { s.pkg with fenced := s.pkg.fenced ||| BitVec.ofNat 4 (2 ^ die) } }
      let s := s.fenceLoads die
      let s : State := { s with
        stores := s.stores.map fun p =>
          if p.peer.isNone ∧ !p.landed ∧ keyOnDie die p.key then { p with rejected := some 1 } else p
        jobs := s.jobs.mapVal fun _ j =>
          if j.cls ≠ 2 ∧ dieOf j.core = die ∧ j.state ≠ .bodyDone then j.cutOff else j }
      ((s.endDieThreads die).refuseDieMail die).clearDie die

/-- DIE_RESET_COMPLETE: the last die's raises vector 6. -/
def execDieResetComplete (die : Nat) (s : State) : Out :=
  .next <|
    if !s.pkg.fenced.getLsbD die then s
    else
      let m := ~~~BitVec.ofNat 4 (2 ^ die)
      let dierst := s.pkg.dierst &&& m
      let s : State := { s with pkg := { s.pkg with fenced := s.pkg.fenced &&& m, dierst } }
      if dierst = 0 then s.msixPhysical 6 else s

end Sys2Proof.Machine
end

