-- ==== Sys2Proof/Machine/MemEvents.lean ====
section
/-!
DEFINITION. Sys2Proof/Machine/MemEvents.lean: what memory and the hardware around a thread do on their own: posted
stores land, are acknowledged or rejected (R28, R71, R73, R238), loads return (R68), traps and kills fall at a
boundary (R29, R233, R239), join counters are told (R28), queues stay dead (R241), barriers pass their deadline (R320),
generations spread and walks end (R115-R117), and the page migration engine works (R78, R79).
-/

namespace Sys2Proof.Machine

open Sys2Proof

/-! ## Posted stores -/

def State.onStore (s : State) (id : Nat) (f : Posted → Posted) : State :=
  { s with stores := s.stores.map fun p => if p.id == id then f p else p }

def State.store? (s : State) (id : Nat) : Option Posted := s.stores.find? fun p => p.id == id

/-- Are two posted stores the same thread's? -/
def Posted.sameThread (p q : Posted) : Bool := p.ctx == q.ctx && p.tid == q.tid && p.part == q.part

/-- The stores that were posted before one. -/
def State.storesBefore (s : State) (id : Nat) : List Posted := s.stores.takeWhile fun p => p.id != id

/-- Has the store nothing left to do at its destination? -/
def Posted.settled (p : Posted) : Bool := p.landed || p.rejected.isSome || p.lost

/-- The destination of a store, as the mesh's order of transfers counts them: a core's scratchpad, a die's glacier, an
HBM stack (0 to 7), an LPDDR6 channel (8 to 15), a CXL root port (16 to 19), device control space (20), or a host port
(21 and 22) (R10) (DESIGN CHOICE, log 94). Which stack or channel holds a byte is free. -/
def State.destinationOf (s : State) (k : Nat) : Nat :=
  if isSpadKey k then k / 2 ^ 17
  else if isGlacierKey k then k / 2 ^ 29
  else if isHostKey k then 21 + (k - 2 ^ 60) / 2 ^ 66
  else match s.phys k with
    | some .hbm => Config.hbmStack k % 8
    | some .lpddr => 8 + Config.lpddrChannel k % 8
    | some .cxl => 16 + s.cxlPort k
    | _ => 20

/-- Is a store behind an earlier one? Stores of one core reach one destination in posted order (R10); and where happens-
before orders two stores to the same bytes, they land in that order (R88, R94). -/
def State.storeBehind (s : State) (p : Posted) : Bool :=
  (s.storesBefore p.id).any fun q =>
    !q.settled && q.peer.isNone && coreOfCtx q.ctx == coreOfCtx p.ctx &&
      ((q.arrival.isNone && s.destinationOf q.key == s.destinationOf p.key) ||
        overlaps q.key q.bytes.length p.key p.bytes.length)

/-- Why a destination rejects a store for good: its core or share left the partition, or it cannot be reached. -/
def State.storeRefused (s : State) (p : Posted) : Bool :=
  if isSpadKey p.key then !s.hasCore p.part (coreOfKey p.key) || s.pkg.fenced.getLsbD (dieOf (coreOfKey p.key))
  else if isGlacierKey p.key then !s.hasGlacier p.part (natBits p.key 42 2) || s.pkg.fenced.getLsbD (natBits p.key 42 2)
  else match s.phys p.key with
    | some .cxl => s.unreachable (.bulk .cxl p.key)
    | _ => false

/-- Is the store to a bound granule that its port has not accepted (R71)? -/
def State.storeBound (s : State) (p : Posted) : Bool :=
  isGlacierKey p.key && p.arrival.isNone && s.bound (natBits p.key 42 2) (p.key % 2 ^ 29 / 65536)

/-- The store's bytes and tag are written at their owner. -/
def State.performStore (s : State) (p : Posted) : State :=
  let s := if isControlKey p.key then s.controlWrite p.part p.key (w64 (leNat p.bytes))
    else match p.tag with
      | none => s.land p.key p.bytes
      | some b => s.landTagged p.key p.bytes b
  s.onStore p.id fun p => { p with landed := true }

/-- A posted store arrives: it is rejected, waits at its port for its bank (R73), or lands. A bound granule's port rejects
it as GLACIER_WRITE_REJECT. -/
def State.storeArrives (s : State) (p : Posted) : State :=
  if p.settled ∨ p.peer.isSome ∨ s.storeBehind p then s
  else if s.storeRefused p then s.onStore p.id fun p => { p with rejected := some 1 }
  else if s.storeBound p then s
  else if s.portHolds p.key p.arrival then
    if p.arrival.isSome then s
    else { s.onStore p.id fun p => { p with arrival := some s.nextId } with nextId := s.nextId + 1 }
  else s.performStore p

/-- POSTED_STORE_LANDING. -/
def execPostedStoreLanding (store : Nat) (s : State) : Out :=
  .next <| match s.store? store with
  | some p => s.storeArrives p
  | none => s

/-- GLACIER_WRITE_REJECT. -/
def execGlacierWriteReject (store : Nat) (s : State) : Out :=
  .next <| match s.store? store with
  | some p =>
    if !p.settled && p.peer.isNone && s.storeBound p then s.onStore store fun p => { p with rejected := some 0 } else s
  | none => s

def State.dropStore (s : State) (id : Nat) : State := { s with stores := s.stores.filter fun p => p.id != id }

/-- POSTED_STORE_ACK: of a store that has landed, or of a peer. -/
def execPostedStoreAck (store : Nat) (s : State) : Out :=
  .next <| match s.store? store with
  | some p => if p.landed || p.peer.isSome then s.dropStore store else s
  | none => s

/-- The size field of a record (R238). -/
def sizeCode (n : Nat) : Nat := if n = 1 then 0 else if n = 2 then 1 else if n = 4 then 2 else if n = 8 then 3 else 4

/-- Rejections of one thread's stores from one destination arrive in posted order. -/
def State.rejectBehind (s : State) (p : Posted) : Bool :=
  (s.storesBefore p.id).any fun q =>
    q.sameThread p && q.rejected.isSome && s.destinationOf q.key == s.destinationOf p.key

/-- STORE_REJECT: the record enters the queue of the thread that posted the store, with the reason that the destination
has given: 2 where it is a peer, whatever the event says (R125, R238). -/
def execStoreReject (store : Nat) (_reason : BitVec 5) (s : State) : Out :=
  .next <| match s.store? store with
  | some p =>
    match (if p.peer.isSome then some 2 else p.rejected) with
    | some r =>
      if s.rejectBehind p then s
      else (s.dropStore store).onThread p.part p.tid fun t =>
        t.addRecord (sfrqRecord r.toNat (sizeCode p.bytes.length) p.addr) p.posted
    | none => s
  | none => s

/-! ## Refresh windows (R73) -/

/-- REFRESH_WINDOW_START: device time alone says that the bank refreshes (State.refreshing); accesses that arrive from
now on wait, and nothing else changes. -/
def execRefreshWindowStart (_bank : Nat) (s : State) : Out := .next s

/-- The accesses that have waited for a bank, in arrival order. -/
def State.waitingFor (s : State) (bank : Nat) : List Nat :=
  let stores := (s.stores.filter fun p => !p.settled && isGlacierKey p.key && keyBank p.key == bank).filterMap (·.arrival)
  let peers := (s.portQueue.filter fun x => keyBank x.key == bank).map (·.number)
  ((stores ++ peers).foldl (fun t n => Tbl.insert t n n) []).map (·.1)

/-- The access with an arrival number proceeds, unless it still waits: for an access that arrived before it. -/
def State.proceed (s : State) (number : Nat) : State :=
  match s.stores.find? fun p => p.arrival == some number with
  | some p => s.storeArrives p
  | none => match s.portQueue.find? fun x => x.number == number with
    | some x => if s.portHolds x.key (some number) then s else s.servePort x
    | none => s

/-- Can some access that has waited for a bank proceed? -/
def State.windowOver (s : State) (bank : Nat) : Bool :=
  (s.stores.any fun p => !p.settled && isGlacierKey p.key && keyBank p.key == bank && p.arrival.isSome &&
      !s.portHolds p.key p.arrival) ||
    s.portQueue.any fun x => keyBank x.key == bank && !s.portHolds x.key (some x.number)

/-- REFRESH_WINDOW_END: the writes that wait for the bank proceed; its loads may return (LOAD_DATA_RETURN). -/
def execRefreshWindowEnd (bank : Nat) (s : State) : Out :=
  .next <| if s.refreshing bank then s else (s.waitingFor bank).foldl State.proceed s

/-! ## Loads -/

/-- May the data of a waiting load come? Not from a bank that refreshes or whose waiting accesses have not proceeded
(R73); and a line is filled only when its core has no store to it in flight (R98). -/
def State.loadCan (s : State) (ctx : Nat) : Bool :=
  (s.ctx ctx).isRunning && match (s.thAt ctx).wait with
  | .load _ _ _ key _ fill _ _ _ => !s.portHolds key none && !(fill && s.pendingOf (coreOfCtx ctx) (lineOf key) 64)
  | _ => false

/-- Is the memory of a waiting load out of reach (R238, R273)? -/
def State.loadLost (s : State) (key : Nat) : Bool :=
  if isSpadKey key then s.pkg.fenced.getLsbD (dieOf (coreOfKey key))
  else if isGlacierKey key then s.pkg.fenced.getLsbD (natBits key 42 2)
  else match s.phys key with
    | some .cxl => s.unreachable (.bulk .cxl key)
    | _ => false

/-- LOAD_DATA_RETURN. -/
def execLoadDataReturn (ctx : Nat) (s : State) : Out :=
  .next <|
    if !s.loadCan ctx then s
    else match (s.thAt ctx).wait with
    | .load d _ _ key addr _ _ after _ =>
      if s.loadLost key then s.trapAt ctx Cause.loadFault addr
      else if isControlKey key then
        let (v, s) := (s.acquireLate ctx).controlRead (s.thAt ctx).part key
        s.setThAt ctx (((s.thAt ctx).setS d v).retireTo after)
      else s.loadReturns ctx
    | _ => s

/-! ## Traps, kills and ends -/

/-- IMPRECISE_TRAP. -/
def execImpreciseTrap (ctx : Nat) (s : State) : Out :=
  .next <| if s.recordDue ctx then s.takeRecord ctx (s.thAt ctx).pc else s

/-- TADDR of a precise cause that names this address (R237); any other code is never raised as a precise trap. -/
def preciseAddr (code : BitVec 8) (addr : Word) : Option Word :=
  if [Cause.illegal, Cause.priv, Cause.noLanes, Cause.qdead, Cause.svc, Cause.bkpt].contains code then some 0
  else if [Cause.misalign, Cause.ifetchFault, Cause.loadFault, Cause.storeFault, Cause.capFault, Cause.atomUncarried,
      Cause.migrateBlocked, Cause.jobFault, Cause.copyCount, Cause.mchk].contains code then some addr
  else none

/-- PRECISE_TRAP: TakeTrap for a cause that the hardware raises at a boundary. -/
def execPreciseTrap (ctx : Nat) (code : BitVec 8) (addr : Word) (s : State) : Out :=
  .next <| match preciseAddr code addr with
  | none => s
  | some a => if s.atBoundary ctx then (s.withdrawGroup ctx).trapAt ctx code a else s

/-- Does a kill end the context's thread now (R29)? -/
def State.killDue (s : State) (ctx : Nat) : Bool :=
  ctx % 4 != 3 && (s.ctx ctx).isRunning && (s.thAt ctx).killed && (s.thAt ctx).wait.killable

/-- KILL. -/
def execKill (ctx : Nat) (s : State) : Out := .next <| if s.killDue ctx then s.endThread ctx true else s

/-- RING_STALL. -/
def execRingStall (ctx : Nat) (addr : Word) (s : State) : Out := .next (s.ringStalls ctx addr)

/-- Does a posted store happen before a thread's end (R28, R93)? -/
def Posted.beforeEnd (p : Posted) (part tid : Nat) : Bool :=
  !p.lost && ((p.tid == tid && p.part == part && p.ctx % 4 != 3) || p.after.contains (part, tid))

/-- A decrement is a release: it is performed once the ended thread's posted stores have performed (R28, R29, R90), at a
port that is free (R101). -/
def State.decrementDue (s : State) : Option Decrement :=
  s.decrements.find? fun d =>
    !(s.stores.any fun p => p.beforeEnd d.part d.tid) && !(isSpadKey d.addr.toNat && s.portTaken (coreOfKey d.addr.toNat))

/-- A thread whose FIN has had its decrement performed ends. -/
def State.finEnds (s : State) (part tid : Nat) : State :=
  match s.ctxOfTid part tid with
  | some k => (s.threadLeaves (s.thAt k)).idle k
  | none => s

/-- A decrement reaches its counter: FIN's thread is over with it, and a refused spawn message draws its completion. -/
def State.decrement (s : State) (d : Decrement) : State :=
  let s := s.countEnd d.addr d.failed
  let s := match d.refused with
    | some (m, core, reason) => s.refusal m core reason
    | none => s
  if d.fin then s.finEnds d.part d.tid else s

/-- FIN's read of its join counter meets an uncorrectable error: it traps MCHK (R245). -/
def State.finFails (s : State) (d : Decrement) (granule : Nat) : State :=
  match s.ctxOfTid d.part d.tid with
  | some k => s.trapAt k Cause.mchk (scalarMchk d.addr d.addr.toNat granule)
  | none => s

/-- JOIN_COUNTER_DECREMENT: the oldest end that may be told reaches its counter. -/
def execJoinCounterDecrement (s : State) : Out :=
  .next <| match s.decrementDue with
  | none => s
  | some d =>
    let r : State := { s with decrements := s.decrements.erase d }
    match d.fin, s.badGranule? d.addr.toNat 8 with
    | true, some g => r.finFails d g
    | _, _ => r.decrement d

/-! ## Queues (R241) and barriers (R320) -/

/-- Does a context sleep on a queue register? -/
def Thread.onQueue (t : Thread) : Bool :=
  match t.wait with
  | .queueRead _ _ _ => true
  | .queueWrite _ _ _ => true
  | _ => false

/-- Does every user context of a core that holds a thread sleep on a queue, and at least one do so? -/
def State.queuesDead (s : State) (core : Nat) : Bool :=
  let held := (userCtxs core).filter fun k => (s.ctx k).isRunning
  !held.isEmpty && held.all fun k => (s.thAt k).onQueue && !s.waitOver k

/-- QDEAD: the count has reached 2^20 (DEDUCED, log 80). -/
def execQdead (core : Nat) (s : State) : Out :=
  .next <|
    if 2 ^ 20 ≤ (s.core core).qdead ∧ s.queuesDead core then
      let s := ((userCtxs core).filter fun k => (s.ctx k).isRunning).foldl (fun s k => s.trapAt k Cause.qdead 0) s
      s.setCore core { s.core core with qdead := 0 }
    else s

/-- BARRIER_DEADLINE. -/
def execBarrierDeadline (core off : Nat) (s : State) : Out :=
  .next <|
    if barError (s.peek (spadKey core off) 8) = 0 ∧ s.barrierLate core off then s.barrierError core off 2 else s

/-! ## Generations and walks (R112, R115-R117) -/

/-- The oldest notice of an ASID at a cluster. -/
def State.notice? (s : State) (cluster asid : Nat) : Option (Nat × Nat × BitVec 32) :=
  s.notices.find? fun n => n.1 == cluster && n.2.1 == asid

/-- A cluster's instruction caches forget an ASID (R412); a generation that has wrapped empties the TLBs of it (R117). -/
def Core.forget (c : Core) (asid : Nat) (wrapped : Bool) : Core :=
  { c with
    icache := c.icache.filter fun l => l.asid.toNat != asid
    itlb := if wrapped then c.itlb.filter fun e => e.asid.toNat != asid else c.itlb
    dtlb := if wrapped then c.dtlb.filter fun e => e.asid.toNat != asid else c.dtlb }

/-- GENERATION_NOTICE. -/
def execGenerationNotice (cluster asid : Nat) (s : State) : Out :=
  .next <| match s.notice? cluster asid with
  | none => s
  | some n =>
    let c := s.cluster cluster
    let wrapped := n.2.2 == 0
    let s := s.setCluster cluster { c with
      gens := c.gens.insert asid n.2.2
      tlb := if wrapped then c.tlb.filter fun e => e.asid.toNat != asid else c.tlb }
    { s with
      notices := s.notices.erase n
      cores := s.cores.mapVal fun k x => if clusterOf k = cluster then x.forget asid wrapped else x }

/-- A TLB of a size takes an entry in front. -/
def tlbFill (size : Nat) (t : List TlbEntry) (e : TlbEntry) : List TlbEntry := (e :: t).take size

/-- The entry that a walk's leaf gives. -/
def Leaf.entry (l : Leaf) (part : Nat) (asid : BitVec 16) (gen : BitVec 32) (va : Nat) : TlbEntry :=
  { asid, part, gen, va := va / l.size * l.size, size := l.size, frame := l.frame, perm := l.perm }

/-- A walk that ends fills a core's TLB and its cluster's, 64 and 2,048 entries (DESIGN CHOICE, log 35). -/
def State.fillTlb (s : State) (core : Nat) (fetch : Bool) (e : TlbEntry) : State :=
  let c := s.core core
  let s := s.setCore core (if fetch then { c with itlb := tlbFill 64 c.itlb e } else { c with dtlb := tlbFill 64 c.dtlb e })
  let x := s.cluster (clusterOf core)
  s.setCluster (clusterOf core) { x with tlb := tlbFill 2048 x.tlb e }

/-- PAGE_WALK: a walk under a generation that has changed fills nothing and starts again. -/
def execPageWalk (core : Nat) (fetch : Bool) (part asid : Nat) (va : Word) (gen : Nat) (s : State) : Out :=
  .next <|
    let id := BitVec.ofNat 16 asid
    let g := s.genOf (clusterOf core) id
    if g.toNat ≠ gen then s
    else match s.walk part id (wbits va 0 52) with
    | some l => s.fillTlb core fetch (l.entry part id g (wbits va 0 52))
    | none => s

/-! ## Page migration (R78, R79, R465) -/

/-- The key of the `n` bytes that a partition's migration engine reads or writes at an address under ASID 0, in bulk
memory, a scratchpad of the partition or a glacier window (R64, R465); no atomic reaches glacier, and no write a bound
granule. An address that is not aligned names none (DESIGN CHOICE, log 27). -/
def State.engineKey (s : State) (part : Nat) (a : Word) (n : Nat) (acc : Acc) : Option Nat :=
  match s.resolve (unitIssuer part 0) a acc with
  | .ok (.bulk .control _) => none
  | .ok p =>
    if s.unreachable p ∨ a.toNat % n ≠ 0 ∨ (acc = .write ∧ s.placeBound p) ∨
        (acc = .atomic ∧ isGlacierKey (s.keyOf part p)) then none
    else some (s.keyOf part p)
  | _ => none

def State.engineWord (s : State) (part : Nat) (a : Word) : Option Word :=
  (s.engineKey part a 8 .read).map fun k => w64 (s.peek k 8)

/-- The words of a list in memory; none where one cannot be read. -/
def State.engineList (s : State) (part : Nat) (a : Word) : Nat → Option (List Word)
  | 0 => some []
  | n + 1 =>
    match s.engineWord part a, s.engineList part (a + 8) n with
    | some w, some ws => some (w :: ws)
    | _, _ => none

/-- A batch as its descriptor gives it: address space, pages with their frames, status bytes and done counter. -/
structure Batch where
  asid   : BitVec 16
  pages  : List (Word × Word)
  status : List Nat
  done   : Word
deriving DecidableEq, Repr

/-- The batch at an entry of the migration ring; none where it is to be skipped. A count outside 1 to 64 skips it too, and
so does a list or a counter that is not 8-byte aligned; the descriptor's reserved fields are ignored (DESIGN CHOICE,
log 27). -/
def State.batchAt (s : State) (part : Nat) (entry : Word) : Option Batch :=
  match wbits entry 52 12 == 0 && (s.engineKey part entry 64 .read).isSome, s.engineList part entry 5 with
  | true, some [w0, pages, frames, status, done] =>
    let n := wbits w0 0 8
    if n = 0 ∨ 64 < n then none
    else match s.engineList part pages n, s.engineList part frames n, s.engineKey part done 8 .atomic with
    | some ps, some fs, some _ =>
      let st := (upFrom 0 n).filterMap fun i => s.engineKey part (status + w64 i) 1 .write
      if st.length = n then some ⟨BitVec.ofNat 16 (wbits w0 48 16), ps.zip fs, st, done⟩ else none
    | _, _, _ => none
  | _, _ => none

/-- The address of a page's level-3 entry. -/
def State.level3 (s : State) (part : Nat) (asid : BitVec 16) (va : Nat) : Option Nat :=
  let down (base level lo width : Nat) : Option Nat :=
    match s.readPte level (s.physWord part (base + 8 * natBits va lo width)) with
    | .table b => some b
    | _ => none
  match s.dirRoot part asid with
  | none => none
  | some r => match down r 0 39 13 with
    | none => none
    | some a => match down a 1 30 9 with
      | none => none
      | some b => match down b 2 21 9 with
        | none => none
        | some c => some (c + 8 * natBits va 12 9)

/-- The entries of an eligible page, its frame, and the tier of its new one. A new frame that is not 64 KiB aligned makes
the page ineligible (DESIGN CHOICE, log 27). -/
def State.eligible (s : State) (part : Nat) (asid : BitVec 16) (page frame : Word) : Option (Nat × Nat × Nat) :=
  let va := page.toNat
  match s.level3 part asid va, s.phys frame.toNat with
  | some e, some kind =>
    match s.readPte 3 (s.physWord part e) with
    | .leaf l =>
      if va % 65536 = 0 ∧ va < 2 ^ 52 ∧ l.size = 65536 ∧ l.perm.getLsbD 1 = false ∧
          frame.toNat % 65536 = 0 ∧ natBits (s.physWord part e) 57 1 ≠ kind.tier then
        some (e, l.frame, kind.tier)
      else none
    | _ => none
  | _, _ => none

/-- Does the copy of a frame fail: an uncorrectable error, memory out of reach, or device control space? -/
def State.copyFails (s : State) (part from_ to_ : Nat) : Bool :=
  (s.badGranule? (s.physKey part from_) 65536).isSome || match s.phys from_, s.phys to_ with
  | some a, some b =>
    a == .control || b == .control || s.unreachable (.bulk a from_) || s.unreachable (.bulk b to_)
  | _, _ => true

/-- Rewrite the sixteen entries of a page with a frame and a tier. -/
def State.rewritePte (s : State) (part entry frame tier : Nat) : State :=
  (upFrom 0 16).foldl (fun s i =>
    let e := s.physKey part (entry + 8 * i)
    let old := s.peek e 8
    s.landLE e 8 (old - field (natBits old 12 32) 12 - field (natBits old 57 1) 57 + frame + field tier 57)) s

/-- The first loop of R79: check and copy each page, write its status; the answer lists the entries to rewrite. -/
def State.copyPages (s : State) (part : Nat) (b : Batch) : State × List (Nat × Nat × Nat) :=
  (b.pages.zip b.status).foldl (fun (a : State × List (Nat × Nat × Nat)) x =>
    let (s, todo) := a
    match s.eligible part b.asid x.1.1 x.1.2 with
    | none => (s.landLE x.2 1 1, todo)
    | some (e, old, tier) =>
      let new := x.1.2.toNat
      if s.copyFails part old new then (s.landLE x.2 1 2, todo)
      else
        let s := s.land (s.physKey part new) (Memory.readBytes s.mem (s.physKey part old) 65536)
        (s.landLE x.2 1 0, todo ++ [(e, new, tier)])) (s, [])

/-- A batch up to the raise; its end waits for the older accesses. -/
def State.runBatch (s : State) (part : Nat) (b : Batch) : State :=
  let (s, todo) := s.copyPages part b
  let s := todo.foldl (fun s e => s.rewritePte part e.1 e.2.1 e.2.2) s
  let (g, s) := s.raiseGeneration b.asid.toNat
  s.setPart part { s.part part with migDone := some (b.done, b.asid.toNat, g) }

/-- Must the engine wait at a glacier port for a byte of a batch's lists (R73)? -/
def State.listsHeld (s : State) (part : Nat) (entry : Word) : Bool :=
  let held (a : Word) : Bool := (s.engineKey part a 1 .read).any fun k => s.portHolds k none
  match s.engineList part entry 5 with
  | some [w0, pages, frames, status, _] =>
    (upFrom 0 (min 64 (wbits w0 0 8))).any fun i => held (pages + w64 (8 * i)) || held (frames + w64 (8 * i)) || held (status + w64 i)
  | _ => false

/-- The address of the ring entry that the engine takes next; none where the ring is empty or that batch waits. -/
def State.nextBatch (s : State) (part : Nat) : Option Word :=
  let r := (s.part part).migrate
  match r.size? with
  | none => none
  | some n =>
    let a := w64 (r.addr + r.consumer.toNat % 2 ^ n * 8)
    if r.producer = r.consumer ∨ (s.engineWord part a).any (s.listsHeld part) then none else some a

/-- The engine takes the next entry of the ring. -/
def State.takeBatch (s : State) (part : Nat) : State :=
  match s.nextBatch part with
  | none => s
  | some a =>
    let r := (s.part part).migrate
    let s := s.setPart part { s.part part with migrate := { r with consumer := r.consumer + 1 } }
    match (s.engineWord part a).bind (s.batchAt part) with
    | some b => s.runBatch part b
    | none => s.setPart part { s.part part with migrate := { (s.part part).migrate with dropped := satInc32 r.dropped } }

/-- Has the batch's GENDRAIN nothing left to wait for? -/
def State.batchDrained (s : State) (asid : Nat) (g : BitVec 32) : Bool :=
  !s.generationPending asid g && !s.olderAccess none (BitVec.ofNat 16 asid) g

/-- The event counter of a batch is raised, as a release. -/
def State.endBatch (s : State) (part : Nat) (done : Word) : State :=
  let s := s.setPart part { s.part part with migDone := none }
  match s.engineKey part done 8 .atomic with
  | some k => s.landAtomic k 8 ((s.peek k 8 + 1) % 2 ^ 64)
  | none => s

/-- MIGRATION_BATCH: the engine takes a batch, or ends the one it has. -/
def execMigrationBatch (part : Nat) (s : State) : Out :=
  .next <| match (s.part part).migDone with
  | some (done, asid, g) => if s.batchDrained asid g then s.endBatch part done else s
  | none => s.takeBatch part

/-- Has the engine something to do? -/
def State.migrationDue (s : State) (part : Nat) : Bool :=
  let p := s.part part
  match p.migDone with
  | some (_, asid, g) => s.batchDrained asid g
  | none => (s.nextBatch part).isSome

end Sys2Proof.Machine
end

