-- ==== Sys2Proof/Machine/Profile.lean ====
section
/-!
DEFINITION. Sys2Proof/Machine/Profile.lean: what the performance counters count (R268): each event is read off a step's
states before and after it.
-/

namespace Sys2Proof.Machine

open Sys2Proof

/-- The select that a slot counts in a rotation. -/
def PmSlot.selected (p : PmSlot) (rotation : Nat) : Option Nat :=
  if p.depth = 0 then none else some (rotation % p.depth)

/-- `n` events of a code. -/
def PmSlot.add (p : PmSlot) (rotation code n : Nat) : PmSlot :=
  match p.selected rotation with
  | some j => if p.code j = code then { p with values := p.values.insert j (p.values.get 0 j + n) } else p
  | none => p

/-- A rotation in units of 2^-16 ns. -/
def rotationTime : Nat := 1000000 * 65536

/-- The time up to a device time in which select `j` of `d` counts. -/
def enabledTime (d j t : Nat) : Nat :=
  t / (d * rotationTime) * rotationTime + min (t % (d * rotationTime) - j * rotationTime) rotationTime

/-- The enabled time of each select goes on from one device time to another. -/
def PmSlot.addTime (p : PmSlot) (t0 t1 : Nat) : PmSlot :=
  (upFrom 0 p.depth).foldl (fun p j =>
    { p with times := p.times.insert j (p.times.get 0 j + (enabledTime p.depth j t1 - enabledTime p.depth j t0)) }) p

def Part.count (p : Part) (code n : Nat) : Part :=
  if n = 0 ∨ p.pm.isEmpty then p else { p with pm := p.pm.mapVal fun _ x => x.add p.rotation code n }

/-- A partition counts `n` events of a code. -/
def State.count (s : State) (part code n : Nat) : State := s.setPart part ((s.part part).count code n)

/-- As State.count, where nothing is to be counted the state stays as it is. -/
def State.countIf (s : State) (part code n : Nat) : State :=
  if n = 0 ∨ (s.part part).pm.isEmpty then s else s.count part code n

/-! ## The events -/

/-- MACs of a matrix job that has ended well. -/
def Job.macs (j : Job) : Nat :=
  let op := CmdWord.opcode j.word
  if j.cls = 0 ∧ (op = 1 ∨ op = 2) ∧ j.status = 0 ∧ !j.tokenOnly then
    (mmaFields j).rows * (mmaFields j).cols * (mmaFields j).steps * j.cores.length
  else 0

def State.countJob (s : State) (j : Job) : State :=
  let s := s.countIf j.part 10 j.bulkRead
  if j.cls = 0 then (s.countIf j.part 4 1).countIf j.part 3 j.macs
  else if j.cls = 1 then s.countIf j.part 5 j.delivered
  else s

/-- The elements of a vector load. -/
def State.loadElems (s : State) : Instr → Option (Fmt × List ElemAcc)
  | .vld v a m t x => some (fmtT t, s.th.unitElems v a m x (fmtT t).bytes)
  | .vlds v a b m t x => some (fmtT t, s.th.strideElems v a b m x)
  | .vgath v a b m t x => some (fmtT t, s.th.indexElems v a b m x)
  | .vldt v a b m t x => some (fmtT t, s.th.tileElems (8 * v.toNat) a b m x (fmtT t).bytes)
  | _ => none

/-- The bytes that a vector load reads from bulk memory. -/
def State.bulkElems (s : State) (f : Fmt) (es : List ElemAcc) : Nat :=
  match s.elemPlaces .read f.bytes es with
  | .ok ps => f.bytes * (ps.filter fun p => p.2.isBulk).length
  | .error _ => 0

/-- Does an instruction read its command word now: its registers can be read, and the loads neither trap nor wait? -/
def State.readsCommand (s : State) (reads writes : List Nat) (addr : Word) : Bool :=
  s.th.latch.isEmpty && (s.withRegs reads writes fun u => u.withCommand addr fun u _ => { u with free := s.free + 1 }).free == s.free + 1

/-- The bytes of a command word that an instruction reads from bulk memory. -/
def State.commandBytes (s : State) (reads writes : List Nat) (addr : Word) : Nat :=
  if (s.commandPlace addr).any (·.isBulk) && s.readsCommand reads writes addr then 32 else 0

/-- The bytes that an instruction or event reads from bulk memory beside its elements: a command word, a launch block. -/
def State.bulkWords (s s' : State) : Instr → Nat
  | .job d a _ => s.commandBytes [d.toNat, a.toNat] [d.toNat] (s.th.S a.toNat)
  | .jobm d a b _ => s.commandBytes [d.toNat, a.toNat, b.toNat] [d.toNat] (s.th.S a.toNat)
  | .gissue d a => s.commandBytes [a.toNat] [d.toNat] (s.th.S a.toNat)
  | .ctxload _ a => if s.th.done < (s'.thAt s.cur).done ∧ ((s.dataPlace (s.th.S a.toNat) 8 .read).any (·.isBulk)) then 512 else 0
  | _ => 0

/-- Bytes read from bulk memory by a load that the event completes (DESIGN CHOICE, log 28: loads, engine reads and
instruction fetch count). -/
def State.bulkReads (s s' : State) (i : Instr) : Nat :=
  match i with
  | .loadDataReturn ctx =>
    match (s.thAt ctx).wait, (s'.thAt ctx).wait with
    | .load _ n _ key _ _ _ _ _, .ready =>
      if (s.thAt ctx).done < (s'.thAt ctx).done ∧ key < 0x90000000000 then n else 0
    | _, _ => 0
  | i =>
    match s.loadElems i with
    | some (f, es) => if s.th.done < (s'.thAt s.cur).done then s.bulkElems f es else 0
    | none => s.bulkWords s' i

/-- The context whose message an event starts as a flake. -/
def startCtx : Instr → Option Nat
  | .handlerFlakeStart ctx => some ctx
  | .completionFlake ctx => some ctx
  | .ratioNotice ctx => some ctx
  | .mailboxAdvance core => some (svcCtx core)
  | _ => none

/-- The partition for which a flake starts, if one does; a spawned thread is no flake. -/
def State.flakeStart (s s' : State) (i : Instr) : Option Nat :=
  match startCtx i with
  | none => none
  | some k =>
    match (s.ctx k).mode, (s'.ctx k).mode with
    | .starting m, .running => if m.origin = .spawn then none else some m.part
    | .idle, .starting m => some m.part
    | .idle, .running => some (s'.thAt k).part
    | _, _ => none

/-- The messages that a step injected. -/
def State.injected (s s' : State) : List Msg := s'.mesh.filter fun m => decide (s.nextId ≤ m.id)

/-- Are two entries of the outbox the same transfer: a thread that leaves may have changed in it? -/
def Fabric.same : Fabric → Fabric → Bool
  | .msg c m, .msg c' m' => c == c' && m.header == m'.header && m.sender == m'.sender && m.payload == m'.payload
  | x, y => x == y

/-- What stands in an outbox beyond what is left of an older one: a step may take entries out, and adds at the end. -/
def addedTo : List Fabric → List Fabric → List Fabric
  | x :: xs, y :: ys => if x.same y then addedTo xs ys else addedTo xs (y :: ys)
  | _, ys => ys

/-- What a step sent to other chips. -/
def State.sentOut (s s' : State) : List Fabric := addedTo s.outbox s'.outbox

/-- The partition whose fabric flits a message is, and how many where the manual says. -/
def State.flitsOf (s : State) : Fabric → Option (Nat × Option Nat)
  | .msg _ m => some (m.part, some (ceilDiv (8 + 8 * hCount m.header) 64))
  | .store _ id _ _ => (s.store? id).map fun p => (p.part, none)
  | .atomic _ ctx _ _ _ _ _ => some ((s.thAt ctx).part, none)
  | .fitness _ d _ _ _ => (s.domains.find? fun x => x.2.domainId.toNat == d).map fun x => (x.2.part, none)
  | .driftRequest _ d _ _ _ => (s.domains.find? fun x => x.2.domainId.toNat == d).map fun x => (x.2.part, none)
  | .driftReady _ d _ _ _ => (s.domains.find? fun x => x.2.domainId.toNat == d).map fun x => (x.2.part, none)
  | .driftStream _ d _ _ _ _ _ => (s.domains.find? fun x => x.2.domainId.toNat == d).map fun x => (x.2.part, none)
  | .floe _ ws => (s.floes.look? (wbits (ws.getD 1 0) 32 32)).map fun f => (f.part, some 1)
  | .peerReply _ part _ _ => some (part, none)
  | .driftAck _ d _ _ _ _ => (s.domains.find? fun x => x.2.domainId.toNat == d).map fun x => (x.2.part, none)
  | _ => none

/-- The manual gives the flits of a message (R47) and of no other fabric transfer: theirs are a free number (log 5). -/
def State.countFlits (s : State) (f : Fabric) : State :=
  match s.flitsOf f with
  | none => s
  | some (part, some n) => s.countIf part 11 n
  | some (part, none) =>
    if (s.part part).pm.isEmpty then s
    else
      let (i, s) := s.takeFree
      s.countIf part 11 (Config.freeWord i).toNat

/-- Lines that a step brought into a core's remote read cache: its misses. -/
def State.misses (s s' : State) (core : Nat) : Nat :=
  ((s'.core core).rrc.filter fun l => !((s.core core).rrc.any fun x => x.key == l.key)).length

/-- The core whose cache an event may fill. -/
def State.missCore (s : State) : Instr → Nat
  | .loadDataReturn ctx => coreOfCtx ctx
  | _ => s.me

/-- Is a message a thread that leaves its core? -/
def Msg.departs (m : Msg) : Bool := m.thread.isSome && hKind m.header == 2

/-- Count what an instruction or event has done between two states. -/
def State.account (s s' : State) (i : Instr) : State :=
  if s'.parts.all fun p => p.2.pm.isEmpty then s'
  else
    let r := match i with
      | .jobCompletion n => (match s.jobs.look? n, s'.jobs.look? n with
        | some j, none => s'.countJob j
        | _, _ => s')
      | _ => s'
    let p := (s.partOfCore (s.missCore i)).getD 0
    let r := (r.countIf p 6 (s.misses s' (s.missCore i))).countIf p 10 (s.bulkReads s' i)
    let r := match s.flakeStart s' i with
      | some q => r.countIf q 8 1
      | none => r
    let r := ((s.injected s').filter Msg.departs).foldl (fun r m => r.countIf m.part 7 1) r
    (s.sentOut s').foldl (fun r f =>
      let r := match f with
        | .msg _ m => if m.departs then r.countIf m.part 7 1 else r
        | _ => r
      r.countFlits f) r

/-- After an instruction or event: a field of a domain that only the selection unit writes and a program has written is a
free value (R170), and the counters have counted. -/
def State.after (s s' : State) (i : Instr) : State := s.account s'.spoilFields i

/-! ## Time (R268, R266) -/

/-- Does a context wait for a refreshing glacier bank? -/
def State.refreshStall (s : State) (c : Ctx) : Bool :=
  c.isRunning && match c.th.wait with
  | .load _ _ _ key _ _ _ _ _ => s.keyRefreshing key
  | .bank b => s.refreshing b
  | _ => false

/-- The refresh stalls of a partition in one V cycle. -/
def State.refreshStalls (s : State) (part : Nat) : Nat :=
  (s.ctxs.filter fun c => c.2.th.part == part && s.beats (coreOfCtx c.1) && s.refreshStall c.2).length

/-- The cores of a partition that have a V cycle in this tick. -/
def State.beatingCores (s : State) (p : Part) : Nat :=
  24 * ((upFrom 0 96).filter fun i => p.clusters.getLsbD i && beatsAt (s.islandStep (·.v) i) s.vcycle).length

/-- Enabled time of every slot, from one device time to another (DESIGN CHOICE, log 79). -/
def State.countTime (s : State) (t0 t1 : Nat) : State :=
  { s with parts := s.parts.mapVal fun _ p =>
      if p.pm.isEmpty then p else { p with pm := p.pm.mapVal fun _ x => x.addTime t0 t1 } }

/-- Device time passes, and with it enabled time. -/
def State.passTime (s : State) (d : Nat) : State :=
  let r := s.advanceTime d
  r.countTime s.time.now r.time.now

end Sys2Proof.Machine
end

