-- ==== Sys2Proof/Machine/Fetch.lean ====
section
/-!
DEFINITION. Sys2Proof/Machine/Fetch.lean: instruction fetch (R64, R77, R245), the word that a context executes next,
the checks that come before its meaning (R60, R61, R296 steps 1 to 3), IMX (R283, R284) and an unassigned OP (R295).
-/

namespace Sys2Proof.Machine

open Sys2Proof

/-! ## The instruction cache (R77) -/

/-- Lines of 64 bytes that the 32 KiB hold. -/
def icacheLines : Nat := 512

def State.icacheHit (s : State) (core part : Nat) (asid : BitVec 16) (va : Nat) : Option ILine :=
  (s.core core).icache.find? fun l => l.asid == asid && l.part == part && l.va == lineOf va

/-- The line of a place in bulk memory, from the key of its first byte (DESIGN CHOICE, log 36). -/
def State.icacheFill (s : State) (core part : Nat) (asid : BitVec 16) (va line : Nat) : ILine × State :=
  let l : ILine := { asid, part, va := lineOf va, bytes := Memory.readBytes s.mem line 64 }
  (l, s.setCore core { s.core core with icache := (l :: (s.core core).icache).take icacheLines })

/-- The bytes of an instruction word in a line. -/
def ILine.word (l : ILine) (va : Nat) : Nat := leNat ((l.bytes.drop (va - l.va)).take 4)

/-- Fetch the word at an address for the executing context: the word, or the cause and TADDR of the trap. A line with an
uncorrectable error elsewhere is not kept (R245) (DEDUCED, log 99). -/
def State.fetchWord (s : State) (pc : Word) : Except (BitVec 8 × Word) (Nat × State) :=
  let t := s.th
  if pc.toNat % 4 ≠ 0 then .error (Cause.ifetchFault, pc)
  else match s.resolve (t.issuer s.me) pc .fetch with
  | .ok (.bulk k pa) =>
    if k = .control ∨ s.unreachable (.bulk k pa) then .error (Cause.ifetchFault, pc)
    else
      let va := natBits pc.toNat 0 52
      let key := s.physKey t.part pa
      let line := s.physKey t.part (lineOf pa)
      match s.icacheHit s.me t.part t.asid va with
      | some l => .ok (l.word va, s)
      | none =>
        if (s.badGranule? key 4).isSome then .error (Cause.mchk, pc)
        else
          let s := s.countIf t.part 10 64
          if (s.badGranule? line 64).isSome then .ok (s.peek key 4, s)
          else
            let (l, s) := s.icacheFill s.me t.part t.asid va line
            .ok (l.word va, s)
  | _ => .error (Cause.ifetchFault, pc)

/-! ## Service flakes (R60, R61) -/

/-- Opcodes that inline code may use. -/
def inlineOpcode (op : Nat) : Bool :=
  decide ((0x01 ≤ op ∧ op ≤ 0x28) ∨ (0x30 ≤ op ∧ op ≤ 0x35) ∨ op = 0x3A ∨ (0x40 ≤ op ∧ op ≤ 0x4B) ∨ op = 0x4F ∨
    op = 0x50 ∨ op = 0x63)

/-- An instruction that waits executes again and is no new one; one after a YIELD is. -/
def Wait.again : Wait → Bool
  | .ready => false
  | .yielded _ _ => false
  | _ => true

/-- The next instruction of the flake that executes, with its place in the budget; or the state after its end. -/
def State.fetchInline (s : State) (f : Flake) : Except State (Instr × State) :=
  let i := s.th.pc.toNat / 4
  if f.code.length ≤ i then .error s.illegal
  else if !s.th.wait.again && decide (chainBudget ≤ f.spent) then .error (s.trap Cause.flakeOverrun 0)
  else
    let s := if s.th.wait.again then s else s.setTh { s.th with flake := some { f with spent := f.spent + 1 } }
    let w := (f.code.getD i 0).toNat
    if !inlineOpcode (w / 2 ^ 24) then .error s.illegal
    else match decode w with
    | .ok i => .ok (i, s)
    | .error _ => .error s.illegal

/-! ## The next instruction -/

/-- The instruction whose word stands next; or the state after the trap that its fetch or its encoding takes. A word behind
an IMX is fetched at its own address. -/
def State.fetchNext (s : State) : Except State (Instr × State) :=
  match s.th.flake with
  | some f => s.fetchInline f
  | none =>
    match s.fetchWord s.th.at_ with
    | .error (c, a) => .error (s.trap c a)
    | .ok (w, s) =>
      match decode w with
      | .ok i => .ok (i, s)
      | .error _ => .error s.illegal

/-- An instruction that reads a register with an uncorrectable error traps MCHK (R245) (DESIGN CHOICE, log 83). -/
def State.registerFault (s : State) : State := (s.setCore s.me { s.core s.me with regError := false }).trap Cause.mchk 0

/-- The instruction that the executing context runs next; or the state after the trap that it takes before its meaning. -/
def State.fetchInstr (s : State) : Except State (Instr × State) :=
  match s.fetchNext with
  | .ok (i, u) => if (u.core u.me).regError then .error u.registerFault else .ok (i, u)
  | e => e

/-- UNASSIGNED_OPCODE (R295). -/
def execUnassignedOpcode (_w : BitVec 32) (s : State) : Out := .next s.illegal

/-! ## IMX (R283, R284) -/

/-- May a word with this opcode follow an IMX: format I or S with a signed IMM14, or format J (R280)? -/
def takesImx (op : Nat) : Bool :=
  decide ((0x20 ≤ op ∧ op ≤ 0x23) ∨ op = 0x27 ∨ op = 0x28 ∨ op = 0x2A ∨ op = 0x2B ∨ (0x30 ≤ op ∧ op ≤ 0x37) ∨
    (0x40 ≤ op ∧ op ≤ 0x46) ∨ (0x48 ≤ op ∧ op ≤ 0x4B) ∨ op = 0x54 ∨ op = 0x55 ∨ op = 0x6A ∨ op = 0x6B)

/-- IMX: with a follower that may take it, the upper immediate is held for it, and the same step runs the follower; the
pair is one instruction. Otherwise it traps at the IMX. -/
def execImx (i : BitVec 24) (s : State) : Out :=
  .next <|
    if s.th.flake.isSome then s.illegal
    else match s.fetchWord (s.th.pc + 4) with
    | .error (c, a) => s.trap c a
    | .ok (w, s) => if takesImx (w / 2 ^ 24) then s.setTh { s.th with imx := some i } else s.illegal

end Sys2Proof.Machine
end

