-- ==== Sys2Proof/Machine/Dispatch.lean ====
section
/-!
DEFINITION. Sys2Proof/Machine/Dispatch.lean: one arm for each instruction and event, each a call of its meaning.
-/

namespace Sys2Proof.Machine

open Sys2Proof

/-- The meaning of an instruction, or of an event. -/
def exec (i : Instr) (s : State) : Host.Outcome State Fault Refusal :=
  match i with
  | .add d a b => Sys2Proof.Machine.execAdd d a b s
  | .sub d a b => Sys2Proof.Machine.execSub d a b s
  | .mul d a b => Sys2Proof.Machine.execMul d a b s
  | .mulh d a b => Sys2Proof.Machine.execMulh d a b s
  | .mulhu d a b => Sys2Proof.Machine.execMulhu d a b s
  | .div d a b => Sys2Proof.Machine.execDiv d a b s
  | .divu d a b => Sys2Proof.Machine.execDivu d a b s
  | .rem d a b => Sys2Proof.Machine.execRem d a b s
  | .remu d a b => Sys2Proof.Machine.execRemu d a b s
  | .and d a b => Sys2Proof.Machine.execAnd d a b s
  | .or d a b => Sys2Proof.Machine.execOr d a b s
  | .xor d a b => Sys2Proof.Machine.execXor d a b s
  | .shl d a b => Sys2Proof.Machine.execShl d a b s
  | .shr d a b => Sys2Proof.Machine.execShr d a b s
  | .sra d a b => Sys2Proof.Machine.execSra d a b s
  | .slt d a b => Sys2Proof.Machine.execSlt d a b s
  | .sltu d a b => Sys2Proof.Machine.execSltu d a b s
  | .min d a b => Sys2Proof.Machine.execMin d a b s
  | .max d a b => Sys2Proof.Machine.execMax d a b s
  | .minu d a b => Sys2Proof.Machine.execMinu d a b s
  | .maxu d a b => Sys2Proof.Machine.execMaxu d a b s
  | .clz d a => Sys2Proof.Machine.execClz d a s
  | .popc d a => Sys2Proof.Machine.execPopc d a s
  | .sel d a b c => Sys2Proof.Machine.execSel d a b c s
  | .bfx d a w p => Sys2Proof.Machine.execBfx d a w p s
  | .bfi d a w p => Sys2Proof.Machine.execBfi d a w p s
  | .addi d a imm => Sys2Proof.Machine.execAddi d a imm s
  | .andi d a imm => Sys2Proof.Machine.execAndi d a imm s
  | .ori d a imm => Sys2Proof.Machine.execOri d a imm s
  | .xori d a imm => Sys2Proof.Machine.execXori d a imm s
  | .shli d a amt => Sys2Proof.Machine.execShli d a amt s
  | .shri d a amt => Sys2Proof.Machine.execShri d a amt s
  | .srai d a amt => Sys2Proof.Machine.execSrai d a amt s
  | .slti d a imm => Sys2Proof.Machine.execSlti d a imm s
  | .sltiu d a imm => Sys2Proof.Machine.execSltiu d a imm s
  | .lih d imm => Sys2Proof.Machine.execLih d imm s
  | .gadr d a imm => Sys2Proof.Machine.execGadr d a imm s
  | .ladr d a imm => Sys2Proof.Machine.execLadr d a imm s
  | .beq a b imm => Sys2Proof.Machine.execBeq a b imm s
  | .bne a b imm => Sys2Proof.Machine.execBne a b imm s
  | .blt a b imm => Sys2Proof.Machine.execBlt a b imm s
  | .bge a b imm => Sys2Proof.Machine.execBge a b imm s
  | .bltu a b imm => Sys2Proof.Machine.execBltu a b imm s
  | .bgeu a b imm => Sys2Proof.Machine.execBgeu a b imm s
  | .jal d imm => Sys2Proof.Machine.execJal d imm s
  | .jalr d a imm => Sys2Proof.Machine.execJalr d a imm s
  | .wfe d a b => Sys2Proof.Machine.execWfe d a b s
  | .ldb d a imm => Sys2Proof.Machine.execLdb d a imm s
  | .ldbu d a imm => Sys2Proof.Machine.execLdbu d a imm s
  | .ldh d a imm => Sys2Proof.Machine.execLdh d a imm s
  | .ldhu d a imm => Sys2Proof.Machine.execLdhu d a imm s
  | .ldw d a imm => Sys2Proof.Machine.execLdw d a imm s
  | .ldwu d a imm => Sys2Proof.Machine.execLdwu d a imm s
  | .ldd d a imm => Sys2Proof.Machine.execLdd d a imm s
  | .ldacq d a sz c => Sys2Proof.Machine.execLdacq d a sz c s
  | .stb a b imm => Sys2Proof.Machine.execStb a b imm s
  | .sth a b imm => Sys2Proof.Machine.execSth a b imm s
  | .stw a b imm => Sys2Proof.Machine.execStw a b imm s
  | .std a b imm => Sys2Proof.Machine.execStd a b imm s
  | .strel a b sz c => Sys2Proof.Machine.execStrel a b sz c s
  | .fence d c => Sys2Proof.Machine.execFence d c s
  | .fenceRel d c => Sys2Proof.Machine.execFenceRel d c s
  | .fenceAcq d c => Sys2Proof.Machine.execFenceAcq d c s
  | .atom d a b o sz c => Sys2Proof.Machine.execAtom d a b o sz c s
  | .atomCap d a b o sz => Sys2Proof.Machine.execAtomCap d a b o sz s
  | .cas d a b sz c => Sys2Proof.Machine.execCas d a b sz c s
  | .casCap d a b sz => Sys2Proof.Machine.execCasCap d a b sz s
  | .ringenq d a b => Sys2Proof.Machine.execRingenq d a b s
  | .ringdeq d a => Sys2Proof.Machine.execRingdeq d a s
  | .cld d a imm => Sys2Proof.Machine.execCld d a imm s
  | .cst a b imm => Sys2Proof.Machine.execCst a b imm s
  | .cbnd d a b => Sys2Proof.Machine.execCbnd d a b s
  | .cperm d a b => Sys2Proof.Machine.execCperm d a b s
  | .barinit a b => Sys2Proof.Machine.execBarinit a b s
  | .bararr d a => Sys2Proof.Machine.execBararr d a s
  | .bardrop d a => Sys2Proof.Machine.execBardrop d a s
  | .barjoin d a => Sys2Proof.Machine.execBarjoin d a s
  | .barwait d a b => Sys2Proof.Machine.execBarwait d a b s
  | .gbarGroup d a => Sys2Proof.Machine.execGbarGroup d a s
  | .gjoin d a => Sys2Proof.Machine.execGjoin d a s
  | .gleave d a => Sys2Proof.Machine.execGleave d a s
  | .gkill d a => Sys2Proof.Machine.execGkill d a s
  | .send a b n => Sys2Proof.Machine.execSend a b n s
  | .sendi a b => Sys2Proof.Machine.execSendi a b s
  | .fwd a b k n => Sys2Proof.Machine.execFwd a b k n s
  | .spawn d a b n => Sys2Proof.Machine.execSpawn d a b n s
  | .jcwait d a => Sys2Proof.Machine.execJcwait d a s
  | .migrate d a e => Sys2Proof.Machine.execMigrate d a e s
  | .qrd d a => Sys2Proof.Machine.execQrd d a s
  | .qwr d a => Sys2Proof.Machine.execQwr d a s
  | .qlen d a => Sys2Proof.Machine.execQlen d a s
  | .cldd d a imm => Sys2Proof.Machine.execCldd d a imm s
  | .cstd a b imm => Sys2Proof.Machine.execCstd a b imm s
  | .srrd d n => Sys2Proof.Machine.execSrrd d n s
  | .srwr a n => Sys2Proof.Machine.execSrwr a n s
  | .srset a n => Sys2Proof.Machine.execSrset a n s
  | .srclr a n => Sys2Proof.Machine.execSrclr a n s
  | .svc imm => Sys2Proof.Machine.execSvc imm s
  | .bkpt imm => Sys2Proof.Machine.execBkpt imm s
  | .tlbgen d a => Sys2Proof.Machine.execTlbgen d a s
  | .ctxsave d a b => Sys2Proof.Machine.execCtxsave d a b s
  | .ctxload d a => Sys2Proof.Machine.execCtxload d a s
  | .timerdTime d => Sys2Proof.Machine.execTimerdTime d s
  | .timerdStatus d => Sys2Proof.Machine.execTimerdStatus d s
  | .clkreq a => Sys2Proof.Machine.execClkreq a s
  | .pmrd d n => Sys2Proof.Machine.execPmrd d n s
  | .rand d => Sys2Proof.Machine.execRand d s
  | .clkwait d a => Sys2Proof.Machine.execClkwait d a s
  | .vclaim d a => Sys2Proof.Machine.execVclaim d a s
  | .vsync d => Sys2Proof.Machine.execVsync d s
  | .vsetvl d a => Sys2Proof.Machine.execVsetvl d a s
  | .vld v a m t x => Sys2Proof.Machine.execVld v a m t x s
  | .vlds v a b m t x => Sys2Proof.Machine.execVlds v a b m t x s
  | .vldt v a b m t x => Sys2Proof.Machine.execVldt v a b m t x s
  | .vgath v a b m t x => Sys2Proof.Machine.execVgath v a b m t x s
  | .vst v a m t x => Sys2Proof.Machine.execVst v a m t x s
  | .vsts v a b m t x => Sys2Proof.Machine.execVsts v a b m t x s
  | .vscat v a b m t x => Sys2Proof.Machine.execVscat v a b m t x s
  | .vadd v a b m t => Sys2Proof.Machine.execVadd v a b m t s
  | .vsub v a b m t => Sys2Proof.Machine.execVsub v a b m t s
  | .vmul v a b m t => Sys2Proof.Machine.execVmul v a b m t s
  | .vfma v a b m t => Sys2Proof.Machine.execVfma v a b m t s
  | .vmax v a b m t => Sys2Proof.Machine.execVmax v a b m t s
  | .vmin v a b m t => Sys2Proof.Machine.execVmin v a b m t s
  | .vabs v a m t => Sys2Proof.Machine.execVabs v a m t s
  | .vneg v a m t => Sys2Proof.Machine.execVneg v a m t s
  | .vcvt v a b m t x => Sys2Proof.Machine.execVcvt v a b m t x s
  | .vcmp d a b m t x => Sys2Proof.Machine.execVcmp d a b m t x s
  | .vselm v a b m => Sys2Proof.Machine.execVselm v a b m s
  | .vredsum v a m t => Sys2Proof.Machine.execVredsum v a m t s
  | .vredmax v a m t => Sys2Proof.Machine.execVredmax v a m t s
  | .vexp2 v a m t => Sys2Proof.Machine.execVexp2 v a m t s
  | .vlog2 v a m t => Sys2Proof.Machine.execVlog2 v a m t s
  | .vrcp v a m t => Sys2Proof.Machine.execVrcp v a m t s
  | .vrsq v a m t => Sys2Proof.Machine.execVrsq v a m t s
  | .vtanh v a m t => Sys2Proof.Machine.execVtanh v a m t s
  | .vbcast v a b m => Sys2Proof.Machine.execVbcast v a b m s
  | .vext d a b => Sys2Proof.Machine.execVext d a b s
  | .vins v a b => Sys2Proof.Machine.execVins v a b s
  | .vperm v a b m => Sys2Proof.Machine.execVperm v a b m s
  | .vxall v a => Sys2Proof.Machine.execVxall v a s
  | .vand v a b m t => Sys2Proof.Machine.execVand v a b m t s
  | .vor v a b m t => Sys2Proof.Machine.execVor v a b m t s
  | .vxor v a b m t => Sys2Proof.Machine.execVxor v a b m t s
  | .vshl v a b m t => Sys2Proof.Machine.execVshl v a b m t s
  | .vshr v a b m t x => Sys2Proof.Machine.execVshr v a b m t x s
  | .viota v m t => Sys2Proof.Machine.execViota v m t s
  | .mops d a b x => Sys2Proof.Machine.execMops d a b x s
  | .mpop d a m x => Sys2Proof.Machine.execMpop d a m x s
  | .vldexp v a b m t => Sys2Proof.Machine.execVldexp v a b m t s
  | .job d a n => Sys2Proof.Machine.execJob d a n s
  | .jobm d a b n => Sys2Proof.Machine.execJobm d a b n s
  | .jobtest d a => Sys2Proof.Machine.execJobtest d a s
  | .gissue d a => Sys2Proof.Machine.execGissue d a s
  | .tswap a b => Sys2Proof.Machine.execTswap a b s
  | .accrd v n q m => Sys2Proof.Machine.execAccrd v n q m s
  | .accwr n a q m => Sys2Proof.Machine.execAccwr n a q m s
  | .imx imm => Sys2Proof.Machine.execImx imm s
  | .unassignedOpcode w => Sys2Proof.Machine.execUnassignedOpcode w s
  | .cutMarker floe epoch cls chip => Sys2Proof.Machine.execCutMarker floe epoch cls chip s
  | .uniformReport floe epoch chip codes => Sys2Proof.Machine.execUniformReport floe epoch chip codes s
  | .uniformGrant message epoch codes instant => Sys2Proof.Machine.execUniformGrant message epoch codes instant s
  | .frozen message epoch => Sys2Proof.Machine.execFrozen message epoch s
  | .broken message epoch member => Sys2Proof.Machine.execBroken message epoch member s
  | .prepare message phase => Sys2Proof.Machine.execPrepare message phase s
  | .ready floe phase chip acted => Sys2Proof.Machine.execReady floe phase chip acted s
  | .commit message phase time => Sys2Proof.Machine.execCommit message phase time s
  | .ended message epoch time => Sys2Proof.Machine.execEnded message epoch time s
  | .done message => Sys2Proof.Machine.execDone message s
  | .cutCompleteReport floe epoch chip time => Sys2Proof.Machine.execCutCompleteReport floe epoch chip time s
  | .fallbackVoteArrival floe phase chip => Sys2Proof.Machine.execFallbackVoteArrival floe phase chip s
  | .mma job => Sys2Proof.Machine.execMma job s
  | .mmat job => Sys2Proof.Machine.execMmat job s
  | .accz job => Sys2Proof.Machine.execAccz job s
  | .acccvt job => Sys2Proof.Machine.execAcccvt job s
  | .accld job => Sys2Proof.Machine.execAccld job s
  | .wbfill job => Sys2Proof.Machine.execWbfill job s
  | .copy job => Sys2Proof.Machine.execCopy job s
  | .copy2d job => Sys2Proof.Machine.execCopy2d job s
  | .deal job => Sys2Proof.Machine.execDeal job s
  | .gathb job => Sys2Proof.Machine.execGathb job s
  | .redw job => Sys2Proof.Machine.execRedw job s
  | .fill job => Sys2Proof.Machine.execFill job s
  | .selround job => Sys2Proof.Machine.execSelround job s
  | .calve job => Sys2Proof.Machine.execCalve job s
  | .drift job => Sys2Proof.Machine.execDrift job s
  | .moraineSet job => Sys2Proof.Machine.execMoraineSet job s
  | .moraineFlush job => Sys2Proof.Machine.execMoraineFlush job s
  | .unassignedEngineOpcode job => Sys2Proof.Machine.execUnassignedEngineOpcode job s
  | .jobCompletion job => Sys2Proof.Machine.execJobCompletion job s
  | .matrixJobBegin job => Sys2Proof.Machine.execMatrixJobBegin job s
  | .copyJobBegin job => Sys2Proof.Machine.execCopyJobBegin job s
  | .queueEntryFreed ctx => Sys2Proof.Machine.execQueueEntryFreed ctx s
  | .mailboxAdvance core => Sys2Proof.Machine.execMailboxAdvance core s
  | .messageArrival msg => Sys2Proof.Machine.execMessageArrival msg s
  | .meshHop msg => Sys2Proof.Machine.execMeshHop msg s
  | .handlerFlakeStart ctx => Sys2Proof.Machine.execHandlerFlakeStart ctx s
  | .threadMessageArrival ctx => Sys2Proof.Machine.execThreadMessageArrival ctx s
  | .atomicFlake core => Sys2Proof.Machine.execAtomicFlake core s
  | .completionFlake ctx => Sys2Proof.Machine.execCompletionFlake ctx s
  | .ratioNotice ctx => Sys2Proof.Machine.execRatioNotice ctx s
  | .runQueueTake core => Sys2Proof.Machine.execRunQueueTake core s
  | .runQueueAging core => Sys2Proof.Machine.execRunQueueAging core s
  | .postedStoreAck store => Sys2Proof.Machine.execPostedStoreAck store s
  | .storeReject store reason => Sys2Proof.Machine.execStoreReject store reason s
  | .impreciseTrap ctx => Sys2Proof.Machine.execImpreciseTrap ctx s
  | .loadDataReturn ctx => Sys2Proof.Machine.execLoadDataReturn ctx s
  | .kill ctx => Sys2Proof.Machine.execKill ctx s
  | .groupDirectoryApply part => Sys2Proof.Machine.execGroupDirectoryApply part s
  | .qdead core => Sys2Proof.Machine.execQdead core s
  | .barrierDeadline core off => Sys2Proof.Machine.execBarrierDeadline core off s
  | .generationNotice cluster asid => Sys2Proof.Machine.execGenerationNotice cluster asid s
  | .glacierWriteReject store => Sys2Proof.Machine.execGlacierWriteReject store s
  | .migrationBatch part => Sys2Proof.Machine.execMigrationBatch part s
  | .launchCheckDone win slot => Sys2Proof.Machine.execLaunchCheckDone win slot s
  | .launchCounterPoll launch => Sys2Proof.Machine.execLaunchCounterPoll launch s
  | .launchLeaveWaiting launch => Sys2Proof.Machine.execLaunchLeaveWaiting launch s
  | .spawnDistribute port => Sys2Proof.Machine.execSpawnDistribute port s
  | .launchEnd launch => Sys2Proof.Machine.execLaunchEnd launch s
  | .resumeRestore launch => Sys2Proof.Machine.execResumeRestore launch s
  | .preemptionComplete launch => Sys2Proof.Machine.execPreemptionComplete launch s
  | .counterRotation part => Sys2Proof.Machine.execCounterRotation part s
  | .pcSample ctx => Sys2Proof.Machine.execPcSample ctx s
  | .dieFence die => Sys2Proof.Machine.execDieFence die s
  | .dieResetComplete die => Sys2Proof.Machine.execDieResetComplete die s
  | .peerDeclaredDown chip => Sys2Proof.Machine.execPeerDeclaredDown chip s
  | .arbiterEvaluation part => Sys2Proof.Machine.execArbiterEvaluation part s
  | .transitionEnd part => Sys2Proof.Machine.execTransitionEnd part s
  | .uniformMinimum floe => Sys2Proof.Machine.execUniformMinimum floe s
  | .uniformApply floe => Sys2Proof.Machine.execUniformApply floe s
  | .floeAction floe => Sys2Proof.Machine.execFloeAction floe s
  | .floeCut floe => Sys2Proof.Machine.execFloeCut floe s
  | .cutComplete floe => Sys2Proof.Machine.execCutComplete floe s
  | .straggler floe => Sys2Proof.Machine.execStraggler floe s
  | .fallbackVote floe => Sys2Proof.Machine.execFallbackVote floe s
  | .ptpIntervalTimer port kind => Sys2Proof.Machine.execPtpIntervalTimer port kind s
  | .selectionTimer domain => Sys2Proof.Machine.execSelectionTimer domain s
  | .selectionRound domain => Sys2Proof.Machine.execSelectionRound domain s
  | .moraineRingSpace domain => Sys2Proof.Machine.execMoraineRingSpace domain s
  | .postedStoreLanding store => Sys2Proof.Machine.execPostedStoreLanding store s
  | .yield => Sys2Proof.Machine.execYield s
  | .fin => Sys2Proof.Machine.execFin s
  | .drain => Sys2Proof.Machine.execDrain s
  | .gbarWired => Sys2Proof.Machine.execGbarWired s
  | .tret => Sys2Proof.Machine.execTret s
  | .gendrainCl => Sys2Proof.Machine.execGendrainCl s
  | .gendrainPk => Sys2Proof.Machine.execGendrainPk s
  | .vrel => Sys2Proof.Machine.execVrel s
  | .flakeOverrun core => Sys2Proof.Machine.execFlakeOverrun core s
  | .serviceFlakeTrap core cause addr => Sys2Proof.Machine.execServiceFlakeTrap core cause addr s
  | .atomicReply core msg => Sys2Proof.Machine.execAtomicReply core msg s
  | .preciseTrap ctx code addr => Sys2Proof.Machine.execPreciseTrap ctx code addr s
  | .joinCounterDecrement => Sys2Proof.Machine.execJoinCounterDecrement s
  | .ringStall ctx addr => Sys2Proof.Machine.execRingStall ctx addr s
  | .pageWalk core fetch part asid va gen => Sys2Proof.Machine.execPageWalk core fetch part asid va gen s
  | .refreshWindowStart bank => Sys2Proof.Machine.execRefreshWindowStart bank s
  | .refreshWindowEnd bank => Sys2Proof.Machine.execRefreshWindowEnd bank s
  | .launchArm win value => Sys2Proof.Machine.execLaunchArm win value s
  | .prelaunch part value => Sys2Proof.Machine.execPrelaunch part value s
  | .pwrcap value => Sys2Proof.Machine.execPwrcap value s
  | .pwrshareWrite part value => Sys2Proof.Machine.execPwrshareWrite part value s
  | .partcfg part hiHalf value => Sys2Proof.Machine.execPartcfg part hiHalf value s
  | .ctrsel part slot value => Sys2Proof.Machine.execCtrsel part slot value s
  | .sendlaunch part value => Sys2Proof.Machine.execSendlaunch part value s
  | .bar4Access part offset write len => Sys2Proof.Machine.execBar4Access part offset write len s
  | .dierst value => Sys2Proof.Machine.execDierst value s
  | .peerclr value => Sys2Proof.Machine.execPeerclr value s
  | .fabricLinkChange port up => Sys2Proof.Machine.execFabricLinkChange port up s
  | .attreq value => Sys2Proof.Machine.execAttreq value s
  | .attestationDone => Sys2Proof.Machine.execAttestationDone s
  | .alarmlogRead => Sys2Proof.Machine.execAlarmlogRead s
  | .securityAlarm source => Sys2Proof.Machine.execSecurityAlarm source s
  | .boot signatureOk version => Sys2Proof.Machine.execBoot signatureOk version s
  | .registerWrite part pf offset value => Sys2Proof.Machine.execRegisterWrite part pf offset value s
  | .coefficientUpdate part cM cV cN cB cS => Sys2Proof.Machine.execCoefficientUpdate part cM cV cN cB cS s
  | .ptpSync port seqId twoStep correction origin => Sys2Proof.Machine.execPtpSync port seqId twoStep correction origin s
  | .ptpFollowUp port seqId correction origin => Sys2Proof.Machine.execPtpFollowUp port seqId correction origin s
  | .ptpDelayReq port seqId correction requester => Sys2Proof.Machine.execPtpDelayReq port seqId correction requester s
  | .ptpDelayResp port seqId correction receive requester => Sys2Proof.Machine.execPtpDelayResp port seqId correction receive requester s
  | .ptpAnnounce port quality grandmaster => Sys2Proof.Machine.execPtpAnnounce port quality grandmaster s
  | .syncTimeout => Sys2Proof.Machine.execSyncTimeout s
  | .holdoverTick => Sys2Proof.Machine.execHoldoverTick s
  | .timeUnitFailover => Sys2Proof.Machine.execTimeUnitFailover s
  | .fitnessExchange domainId chip round fitness registered => Sys2Proof.Machine.execFitnessExchange domainId chip round fitness registered s
  | .driftRequest domainId chip round loser parent => Sys2Proof.Machine.execDriftRequest domainId chip round loser parent s
  | .driftReady domainId round loser ready => Sys2Proof.Machine.execDriftReady domainId round loser ready s
  | .driftStream domainId round loser bytes parentFit parentStatus => Sys2Proof.Machine.execDriftStream domainId round loser bytes parentFit parentStatus s
  | .launchWindowWrite win offset value => Sys2Proof.Machine.execLaunchWindowWrite win offset value s
  | .imageDiscard launch => Sys2Proof.Machine.execImageDiscard launch s
  | .peerRequest chip kind part asid sup addr size op data data2 => Sys2Proof.Machine.execPeerRequest chip kind part asid sup addr size op data data2 s
  | .driftAcknowledgement domainId round loser status bytes => Sys2Proof.Machine.execDriftAcknowledgement domainId round loser status bytes s
  | .cxlLinkChange port up => Sys2Proof.Machine.execCxlLinkChange port up s

end Sys2Proof.Machine
end

