-- ==== Sys2Proof/Machine/Schedule.lean ====
section
/-!
DEFINITION. Sys2Proof/Machine/Schedule.lean: which context issues (R24, R444), what a tick does (R17, R45, R241, R266),
and which event the machine raises by itself next: the first that is due in a fixed order. The turn script may choose
otherwise (log 6).
-/

namespace Sys2Proof.Machine

open Sys2Proof

/-! ## Issue (R24) -/

/-- User contexts of a core in the order after the last one that issued. -/
def userOrder (core last : Nat) : List Nat := (upFrom 1 3).map fun i => core * 4 + (last + i) % 3

/-- The context of a core that issues. -/
def State.pick (s : State) (core : Nat) : Option Nat :=
  let user := (userOrder core (s.core core).lastUser).find? s.isReady
  if s.isReady (svcCtx core) ∧ (!(s.core core).svcPrev ∨ user.isNone) then some (svcCtx core) else user

/-- A YIELD waits for one context less. -/
def Wait.issued (k : Nat) : Wait → Wait
  | .yielded others left => .yielded (others.erase k) left
  | w => w

/-- The other contexts of a core see that one of them issues. -/
def State.seenIssuing (s : State) (k : Nat) : State :=
  { s with ctxs := s.ctxs.mapVal fun j c =>
      if coreOfCtx j = coreOfCtx k ∧ j ≠ k then { c with th := { c.th with wait := c.th.wait.issued k } } else c }

/-- A context issues; a user context that could issue has kept its core's queues from being dead (R241). -/
def State.issue (s : State) (k : Nat) : State :=
  let core := coreOfCtx k
  let c := s.core core
  let s := s.setCore core (if k % 4 = 3 then { c with svcNow := true } else { c with lastUser := k % 4, qdead := 0 })
  let s := if k % 4 = 3 ∨ (s.thAt k).wait.again then s else s.countIf (s.thAt k).part 1 1
  { s.seenIssuing k with cur := k, undo := none, issued := core :: s.issued }

/-! ## Ticks and V cycles (R17-R20, R200) -/

/-- The length of tick `v` in units of 2^-16 ns: a cycle of 2.4 GHz. -/
def tickTime (v : Nat) : Nat := (v + 1) * 81920 / 3 - v * 81920 / 3

/-- One V cycle for a core: run-queue entries wait, and a dead queue is counted. -/
def State.cycleCore (s : State) (k : Nat) (c : Core) : Core :=
  { c with
    runq := c.runq.map fun e => { e with waited := e.waited + 1 }
    qdead := if s.queuesDead k then c.qdead + 1 else 0
    svcPrev := c.svcNow, svcNow := false, vcount := c.vcount + 1, portBusy := false, mailBusy := false, kicked := false }

def Wait.cycle : Wait → Wait
  | .yielded others left => .yielded others (left - 1)
  | w => w

/-- Is a context due for a sample in the V cycle that its core has had? -/
def State.sampleDue (s : State) (k : Nat) : Bool :=
  s.sampled k && (s.core (coreOfCtx k)).vcount % 2 ^ wbits (s.part (s.thAt k).part).sampctl 0 5 == 0

/-- A tick passes: the cores whose island beats in it have had a V cycle (DESIGN CHOICE, log 29). -/
def State.cycle (s : State) : State :=
  let r : State := { s with
    vcycle := s.vcycle + 1, issued := [], closed := false
    cores := s.cores.mapVal fun k c => if s.beats k then s.cycleCore k c else c
    ctxs := s.ctxs.mapVal fun k c =>
      if s.beats (coreOfCtx k) then { c with th := { c.th with wait := c.th.wait.cycle } } else c }
  let r := s.parts.keys.foldl (fun r p => (r.countIf p 2 (s.beatingCores (s.part p))).countIf p 9 (s.refreshStalls p)) r
  let r := r.passTime (tickTime s.vcycle)
  (r.ctxs.keys.filter fun k => s.beats (coreOfCtx k) && r.sampleDue k).foldl (fun r k => r.samplePc k (s.issuedNow k)) r

/-! ## Events that are due -/

/-- The first number of a table with a property. -/
def firstKey {α : Type} (t : Tbl α) (p : Nat → α → Bool) : Option Nat := (t.find? fun x => p x.1 x.2).map (·.1)

/-- Time, clocks and counters. -/
def State.clockEvent (s : State) : Option Instr :=
  if s.time.servo = .holdover ∧ s.time.u ≠ s.time.holdoverU then some .holdoverTick
  else if s.syncLost then some .syncTimeout
  else match s.ptpDue with
  | some (p, k) => some (.ptpIntervalTimer p k)
  | none => match firstKey s.parts fun k _ => s.mayEvaluate k with
    | some k => some (.arbiterEvaluation k)
    | none => match firstKey s.parts fun _ p => p.moving.isSome with
      | some k => some (.transitionEnd k)
      | none => (firstKey s.parts fun _ p => !p.pm.isEmpty && p.rotation != s.rotationNow).map .counterRotation

/-- May a member of a floe act, or answer that it could? -/
def State.actionDue (s : State) (f : Floe) (l : Launch) : Bool :=
  s.waitOverFor l && ((f.state == .armed && !s.voteDue f l) ||
    (f.state == .fallback && f.prepared && !f.readySent && f.nextAction != .cut))

/-- Can a cut's image be written? -/
def State.completeDue (s : State) (f : Floe) (l : Launch) : Bool :=
  s.cutSettled f && (s.imageAddr l.part (Block.asid l.block) (Block.cutImage l.block)).isSome

/-- Has a straggler deadline passed? -/
def State.straggled (s : State) (f : Floe) : Bool :=
  f.state == .cutting && s.isCoordinator f && match f.deadline with
  | some d => decide (d < s.time.ns)
  | none => false

/-- What one floe does next. -/
def State.floeEvent (s : State) (f : Floe) : Option Instr :=
  match s.launches.look? f.launch with
  | none => none
  | some l =>
    if s.voteDue f l then some (.fallbackVote f.id)
    else if s.minimumDue f l then some (.uniformMinimum f.id)
    else if (s.grantDue f).isSome then some (.uniformApply f.id)
    else if s.actionDue f l then some (.floeAction f.id)
    else if s.cutDue f l then some (.floeCut f.id)
    else if s.completeDue f l then some (.cutComplete f.id)
    else if s.straggled f then some (.straggler f.id)
    else none

/-- Does a waiting launch have a counter that has come to be met? -/
def State.pollDue (s : State) (l : Launch) : Bool :=
  l.state == .waiting && (upFrom 0 4).any fun j => !l.met.getLsbD j && s.counterMet l j

/-- Is a resumed launch ready to restore? -/
def State.restoreDue (s : State) (l : Launch) : Bool :=
  l.state == .running && l.stopping && !(l.refilling && s.jobs.any fun j => j.2.refills l.lid) && match l.resume with
  | some k => (s.images.look? k).isSome
  | none => false

/-- What one launch does next. -/
def State.launchEvent (s : State) (l : Launch) : Option Instr :=
  if s.pollDue l then some (.launchCounterPoll l.lid)
  else if s.waitOverFor l && !l.isFloe then some (.launchLeaveWaiting l.lid)
  else if s.restoreDue l then some (.resumeRestore l.lid)
  else if s.requestSettled l then some (.preemptionComplete l.lid)
  else if l.mayEnd && !s.launchLives l.lid then some (.launchEnd l.lid)
  else none

/-- The launch controllers. -/
def State.controllerEvent (s : State) : Option Instr :=
  match firstKey s.slots fun _ x => x.state == 1 with
  | some k => some (.launchCheckDone (k / 64) (k % 64))
  | none => match s.launches.findSome? fun l => s.launchEvent l.2 with
    | some e => some e
    | none => ((upFrom 0 2).find? fun p => (s.nextSpawner p).isSome).map .spawnDistribute

/-- Does a message without a taking core move or leave the mesh? -/
def State.hopDue (s : State) (m : Msg) : Bool :=
  m.taker.isNone && ((s.swapped m.launch && m.isWork) || s.mayHop m)

/-- Does a message reach its taking core, or find its queue full? -/
def State.arrivalDue (s : State) (m : Msg) : Bool :=
  match m.taker with
  | none => false
  | some core =>
    (s.swapped m.launch && m.isWork) ||
      (!s.heldMsg m && !((s.earlierMsgs m).any fun x => sameSource x m && x.taker == some core) &&
        (!m.blocked || !s.hasCore m.part core ||
          decide (((s.core core).mailOf (hPrio m.header)).length < mailCapacity (hPrio m.header))))

/-- Does an entry of a core's run queue rise? -/
def Core.agingDue (c : Core) : Bool := c.runq.any fun e => decide (agingCycles ≤ e.waited ∧ e.level < 3)

/-- What one core's mailbox and run queue do next. -/
def State.coreEvent (s : State) (k : Nat) (c : Core) : Option Instr :=
  if (!c.backlog.isEmpty && decide (c.runq.length < runqCapacity)) || (s.nextMail k).isSome then some (.mailboxAdvance k)
  else if (s.idleCtx? k).isSome && (s.nextEntry k).isSome then some (.runQueueTake k)
  else if c.agingDue then some (.runQueueAging k)
  else if decide (2 ^ 20 ≤ c.qdead) && s.queuesDead k then some (.qdead k)
  else none

/-- The start of the work that a context holds. -/
def State.startEvent (s : State) (k : Nat) (c : Ctx) : Option Instr :=
  match c.mode with
  | .starting m =>
    let kind := hKind m.header
    if k % 4 = 3 then (if kind = 4 ∧ !s.portTaken (coreOfCtx k) then some (.atomicFlake (coreOfCtx k)) else none)
    else if s.heldMsg m then none
    else if kind = 0 then some (.handlerFlakeStart k)
    else if kind = 2 then some (.threadMessageArrival k)
    else if kind = 5 then some (.completionFlake k)
    else if kind = 7 then some (.ratioNotice k)
    else none
  | _ => none

/-- Has the barrier that a context sleeps on passed its deadline? -/
def State.deadlineOf (s : State) (k : Nat) (c : Ctx) : Option (Nat × Nat) :=
  match c.th.wait with
  | .barrier off _ =>
    if barError (s.peek (spadKey (coreOfCtx k) off) 8) = 0 ∧ s.barrierLate (coreOfCtx k) off then some (coreOfCtx k, off)
    else none
  | _ => none

/-- What happens to the work of one context. -/
def State.ctxEvent (s : State) (k : Nat) (c : Ctx) : Option Instr :=
  if s.recordDue k then some (.impreciseTrap k)
  else if s.loadCan k then some (.loadDataReturn k)
  else if c.isRunning && s.queueFreed k then some (.queueEntryFreed k)
  else match s.deadlineOf k c with
  | some (core, off) => some (.barrierDeadline core off)
  | none => s.startEvent k c

/-- What one posted store does next. -/
def State.storeEvent (s : State) (p : Posted) : Option Instr :=
  if p.peer.isSome then none
  else if p.landed then some (.postedStoreAck p.id)
  else if p.rejected.isSome then (if s.rejectBehind p then none else some (.storeReject p.id 0))
  else if !p.lost && !s.storeBehind p && !s.storeRefused p && s.storeBound p then some (.glacierWriteReject p.id)
  else none

/-- Does a posted store arrive or land (State.storeArrives)? One that waits for its bank goes on when its window ends. -/
def State.landingDue (s : State) (p : Posted) : Bool :=
  !p.settled && p.peer.isNone && !s.storeBehind p &&
    (s.storeRefused p || (!s.storeBound p && !(p.arrival.isSome && s.portHolds p.key p.arrival)))

/-- The body of a running job. -/
def Job.bodyEvent (j : Job) (n : Nat) : Instr :=
  let op := CmdWord.opcode j.word
  if !CmdWord.assigned j.word then .unassignedEngineOpcode n
  else if j.cls = 0 then
    (if op = 1 then .mma n else if op = 2 then .mmat n else if op = 3 then .accz n else if op = 4 then .acccvt n
      else if op = 5 then .accld n else .wbfill n)
  else
    (if op = 1 then .copy n else if op = 2 then .copy2d n else if op = 3 then .deal n else if op = 4 then .gathb n
      else if op = 5 then .redw n else .fill n)

/-- A selection job on its turn. -/
def Job.selectionEvent (j : Job) (n : Nat) : Instr :=
  let op := CmdWord.opcode j.word
  if !CmdWord.assigned j.word then .unassignedEngineOpcode n
  else if op = 1 then .selround n else if op = 2 then .calve n else if op = 3 then .drift n
  else if moraineFn j.word = 0 then .moraineFlush n else .moraineSet n

/-- A job that may begin. -/
def State.jobBegins (s : State) (n : Nat) (j : Job) : Option Instr :=
  if s.matrixCanBegin n j then some (.matrixJobBegin n)
  else if s.copyCanBegin n j then some (.copyJobBegin n)
  else none

/-- Does an access that waits at a glacier port go on waiting (R73)? -/
def State.accessHeld (s : State) (waits : Option (Nat × Nat)) : Bool := waits.any fun w => s.portHolds w.1 (some w.2)

/-- What one job that has begun, or a selection job, does next. -/
def State.jobEvent (s : State) (n : Nat) (j : Job) : Option Instr :=
  if s.canComplete j then some (.jobCompletion n)
  else if j.cls ≤ 1 ∧ j.state = .running then
    if s.accessHeld j.waits then none else some (j.bodyEvent n)
  else if s.selTurn n j then some (j.selectionEvent n)
  else none

/-- Can a calving in hand, a stage of a domain's round, or a request of another chip go on? -/
def State.roundDue (s : State) (k : Nat) (d : Domain) : Bool :=
  if d.calve.isSome then !s.accessHeld d.waits
  else (!d.requests.isEmpty && d.drift.isNone) || match d.phase with
    | .idle => s.timerTurn k d
    | .begin_ => true
    | .exchange => s.exchangeFailed d || s.exchangeDone d
    | .pairs [] => false
    | .pairs (_ :: _) => d.owed.isEmpty && d.drift.isNone

/-- Can an owed record be written, or work that waited for one end? -/
def State.ringDue (s : State) (k : Nat) (d : Domain) : Bool :=
  if d.owed.isEmpty then d.drift.isNone && d.calve.isNone && (d.fin.isSome || d.phase == .pairs []) else (s.writeOwed k d).isSome

/-- What the selection unit does next for a domain. -/
def State.domainEvent (s : State) (k : Nat) (d : Domain) : Option Instr :=
  if s.ringDue k d then some (.moraineRingSpace k)
  else if s.roundDue k d then some (.selectionRound k)
  else none

/-- What the package's other units do next. -/
def State.unitEvent (s : State) : Option Instr :=
  if s.decrementDue.isSome then some .joinCounterDecrement
  else match s.notices with
  | n :: _ => some (.generationNotice n.1 n.2.1)
  | [] =>
    match firstKey s.parts fun _ p => (directoryNext s.nCycle p.ops).isSome with
    | some k => some (.groupDirectoryApply k)
    | none => match firstKey s.parts fun k _ => s.migrationDue k with
      | some k => some (.migrationBatch k)
      | none => match s.downDue with
        | some c => some (.peerDeclaredDown c)
        | none => match (upFrom 0 4).find? s.fenceDue with
          | some d => some (.dieFence d)
          | none => match (upFrom 0 4).find? fun d => s.pkg.fenced.getLsbD d with
            | some d => some (.dieResetComplete d)
            | none => match (upFrom 0 32).find? s.windowOver with
              | some b => some (.refreshWindowEnd b)
              | none => if s.pkg.attState = 1 then some .attestationDone else none

/-- The event that is due, if one is (DESIGN CHOICE, log 60). -/
def State.nextEvent (s : State) : Option Instr :=
  match s.clockEvent with
  | some e => some e
  | none => match s.floes.findSome? fun f => s.floeEvent f.2 with
    | some e => some e
    | none => match s.controllerEvent with
      | some e => some e
      | none => match s.unitEvent with
        | some e => some e
        | none => match firstKey s.domains fun _ d => d.timerDue s.time.ns with
          | some k => some (.selectionTimer k)
          | none => match s.ctxs.findSome? fun c => s.ctxEvent c.1 c.2 with
            | some e => some e
            | none => match s.stores.findSome? s.storeEvent with
              | some e => some e
              | none => match s.jobs.findSome? fun j => s.jobBegins j.1 j.2 with
                | some e => some e
                | none => match s.mesh.find? s.hopDue with
                  | some m => some (.meshHop m.id)
                  | none => match s.mesh.find? s.arrivalDue with
                    | some m => some (.messageArrival m.id)
                    | none => s.cores.findSome? fun c => s.coreEvent c.1 c.2

/-- The event that is due after the issues of a V cycle: a kill, which yields to a FIN (R29); a store or an engine's access,
which comes after an atomic (R101); a completion, whose flags come after a write of FPSTAT (R143). -/
def State.endEvent (s : State) : Option Instr :=
  match s.ctxs.keys.find? s.killDue with
  | some k => some (.kill k)
  | none => match s.stores.find? s.landingDue with
    | some p => some (.postedStoreLanding p.id)
    | none => match s.jobs.findSome? fun j => s.jobEvent j.1 j.2 with
      | some e => some e
      | none => s.domains.findSome? fun d => s.domainEvent d.1 d.2

/-- An event of the end of a V cycle. -/
def isEnd : Instr → Bool
  | .kill _ => true
  | .postedStoreLanding _ => true
  | .jobCompletion _ => true
  | .unassignedEngineOpcode _ => true
  | .mma _ => true
  | .mmat _ => true
  | .accz _ => true
  | .acccvt _ => true
  | .accld _ => true
  | .wbfill _ => true
  | .copy _ => true
  | .copy2d _ => true
  | .deal _ => true
  | .gathb _ => true
  | .redw _ => true
  | .fill _ => true
  | .selround _ => true
  | .calve _ => true
  | .drift _ => true
  | .moraineFlush _ => true
  | .moraineSet _ => true
  | .moraineRingSpace _ => true
  | .selectionRound _ => true
  | _ => false

/-! ## Which core issues next -/

/-- The cores with a context that can issue, in order. -/
def State.readyCores (s : State) : List Nat := ((s.ctxs.keys.filter s.isReady).map coreOfCtx).eraseDups

/-- May a core issue: a context of it is ready, it has a V cycle in this tick, and it has not issued in it? -/
def State.mayIssue (s : State) (core : Nat) : Bool :=
  (s.pick core).isSome && s.beats core && !s.closed && !s.issued.contains core

/-- Is a core's next instruction a kick? -/
def State.kicksNext (s : State) (core : Nat) : Bool :=
  match s.pick core with
  | none => false
  | some k => match State.fetchInstr { s with cur := k } with
    | .ok (.job _ _ _, _) => true
    | .ok (.jobm _ _ _ _, _) => true
    | .ok (.gissue _ _, _) => true
    | _ => false

/-- Has a kick from a higher position of a core's cell been accepted in this V cycle? -/
def State.kickedAbove (s : State) (core : Nat) : Bool := (cellCores (cellOf core)).any fun c => decide (core < c) && (s.core c).kicked

/-- Must a core's kick wait, so that within a V cycle a cell's acceptances go by position, lowest first (R153): for a lower
position's in this tick, or, after a higher one's, for the next V cycle (DESIGN CHOICE, log 60)? -/
def State.kickWaits (s : State) (core : Nat) : Bool :=
  (s.kickedAbove core ||
    (cellCores (cellOf core)).any fun c => decide (c < core) && s.mayIssue c && !s.kickedAbove c && s.kicksNext c) &&
  s.kicksNext core

/-- Can a core issue? -/
def State.canIssue (s : State) (core : Nat) : Bool := s.mayIssue core && !s.kickWaits core

/-- The next core of this tick, if one is left. -/
def State.coreLeft (s : State) : Option Nat := s.readyCores.find? s.canIssue

/-- What the atomic port and the trap hardware of a core do before its issue: an atomic flake whose turn it is (R24, R101),
and an imprecise trap where nothing else of the core is ready. -/
def State.beforeIssue (s : State) (core : Nat) : Option Instr :=
  let atomic := match (s.ctx (svcCtx core)).mode with
    | .starting m => hKind m.header == 4 && !s.portTaken core && !(s.core core).svcPrev
    | _ => false
  if atomic then some (.atomicFlake core)
  else if (s.pick core).isSome then none
  else ((userCtxs core).find? s.recordDue).map .impreciseTrap

/-- Nothing issues any more in this tick. -/
def State.closeTick (s : State) : State := { s with closed := true }

/-- What the end of a V cycle decides: a kill (R29), a rise in a run queue (R45), dead queues (R241). -/
def State.tickEvent (s : State) : Option Instr :=
  match s.ctxs.keys.find? s.killDue with
  | some k => some (.kill k)
  | none => match firstKey s.cores fun _ c => c.agingDue with
    | some k => some (.runQueueAging k)
    | none => (firstKey s.cores fun k c => decide (2 ^ 20 ≤ c.qdead) && s.queuesDead k).map .qdead

/-! ## The turn script -/

/-- An event of the script: rows without an encoding only. -/
def isEvent (i : Instr) : Bool := (encode i).isNone

/-- The fabric has taken the first message of the outbox and its peer has acknowledged it. A thread that has left for
another chip is no member of a group here any more (DESIGN CHOICE, log 104). -/
def State.sentFirst (s : State) : State :=
  match s.outbox with
  | [] => s
  | x :: rest =>
    let s : State := { s with outbox := rest }
    let s := match x with
      | .store _ id _ _ => s.dropStore id
      | .msg _ m => match m.thread with
        | some t => s.threadLeaves t
        | none => s
      | _ => s
    s.reroute

/-- The body of a running job is to pause after so many accesses (R105). -/
def State.pauseBody (s : State) (job accesses : Nat) : State :=
  match s.jobs.look? job with
  | some j => if j.state = .running then s.setJob job { j with pause := some accesses } else s
  | none => s

/-- A turn that is no instruction and no event. -/
def State.outside (s : State) : Turn → State
  | .tick ns frac => s.passTime (ns * 65536 + frac)
  | .inject m => s.inject m
  | .dropLine core n => s.setCore core { s.core core with icache := (s.core core).icache.eraseIdx n }
  | .dropTlb core n =>
    let s := s.setCore core { s.core core with itlb := (s.core core).itlb.eraseIdx n, dtlb := (s.core core).dtlb.eraseIdx n }
    s.setCluster (clusterOf core) { s.cluster (clusterOf core) with tlb := (s.cluster (clusterOf core)).tlb.eraseIdx n }
  | .dropRemote core n => s.setCore core { s.core core with rrc := (s.core core).rrc.eraseIdx n }
  | .softError key => { s with errors := key / 16 * 16 :: s.errors }
  | .registerError core => s.setCore core { s.core core with regError := true }
  | .cxlCapacity port bytes => { s with pkg := { s.pkg with cxlCap := s.pkg.cxlCap.insert port bytes } }
  | .corrected part => s.setPart part { s.part part with cecount := (s.part part).cecount + 1 }
  | .sent => s.sentFirst
  | .peerRoute chip live => s.peerRoute chip live
  | .aperture part n => s.sizeAperture part n
  | .msixControl part on mask => s.msixControl part on mask
  | .timing port flit => s.hearFlit port flit
  | .floeMessage words => match FloeMsg.ofWords words with
    | some m => { s with localFloe := s.localFloe ++ [m] }
    | none => s
  | .grandmaster permitted => s.permit permitted
  | .pauseBody job accesses => s.pauseBody job accesses
  | .issue _ => s
  | .event _ => s

/-! ## A word to fetch (log 30) -/

/-- Where State.withWord places its word: a bulk address and the frame that its translation names. -/
def wordAddress : Word := 0x100000000
def wordFrame : Nat := 0x10000

/-- The thread that fetches the word: at supervisor level, ready, of no launch. -/
def Thread.atWord (t : Thread) : Thread :=
  { t with pc := wordAddress, launch := 0, asid := 0, part := 0, lev := true, wait := .ready, killed := false, flake := none,
           imx := none }

/-- The bytes of an instruction stand at a bulk address that core 0 translates, context 0 of core 0 is at them, and the
next turn is its issue. -/
def State.withWord (s : State) (bytes : List Byte) : State :=
  let c := s.core 0
  let e : TlbEntry :=
    { asid := 0, part := 0, gen := s.genOf 0 0, va := wordAddress.toNat, size := 4096, frame := wordFrame, perm := 0b0101 }
  let s := s.setCore 0 { c with itlb := [e], icache := [], lastUser := 2, svcPrev := true, regError := false }
  let s := s.setCtx 0 { mode := .running, th := (s.thAt 0).atWord }
  { s with
    mem := Memory.writeBytes s.mem wordFrame bytes
    errors := s.errors.filter fun g => !overlaps g 16 wordFrame 64
    cur := 0, vcycle := s.vcycle / 16 * 16 + 15, issued := [], closed := false
    turns := .issue 0 :: s.turns }

end Sys2Proof.Machine
end

