-- ==== Sys2Proof/Machine/Step.lean ====
section
/-!
DEFINITION. Sys2Proof/Machine/Step.lean: one step of the package: a turn of the script, else a floe message of this
chip to itself, else an event that is due, else one instruction of one context, else what falls at the end of a V cycle,
else the next tick.
-/

namespace Sys2Proof.Machine

open Sys2Proof

/-- What follows an instruction (State.after). -/
def accounted (i : Instr) (s : State) : Out → Out
  | .next t => .next (s.after t i)
  | .fault f => .fault f
  | .refused r => .refused r

/-- An event happens; which context issued last stays as it was. -/
def runEvent (i : Instr) (s : State) : Out :=
  match exec i s with
  | .next t => .next (s.after { t with cur := s.cur } i)
  | .fault f => .fault f
  | .refused r => .refused r

/-- Fetch the executing context's next word, and execute it. -/
def runInstr (s : State) : Out :=
  match s.fetchInstr with
  | .error t => .next t
  | .ok (i, t) => accounted i t (exec i t)

/-- A context issues one instruction; an IMX that stands takes its follower with it (R284). -/
def runIssue (s : State) (k : Nat) : Out :=
  match runInstr (s.issue k) with
  | .next t => if t.th.imx.isSome then runInstr t else .next t
  | .fault f => .fault f
  | .refused r => .refused r

/-- A core issues; what comes before the issue at its port comes first. -/
def runCore (s : State) (core : Nat) : Out :=
  match s.beforeIssue core with
  | some i => runEvent i s
  | none => match s.pick core with
    | some k => runIssue s k
    | none => .next s

/-- An event of the end of a V cycle; nothing issues in the tick after it. -/
def runEnd (i : Instr) (s : State) : Out :=
  match runEvent i s with
  | .next t => .next t.closeTick
  | o => o

/-- The core that the script names issues, once every other core that can has issued in the tick and what the V cycle's end
decides has happened; then the next tick begins with it. -/
def runChoice (s : State) (core : Nat) : Out :=
  if s.canIssue core then runCore s core
  else match s.coreLeft with
  | some c => runCore s c
  | none => match s.beforeIssue core with
    | some i => runEvent i s
    | none => match s.tickEvent with
      | some i => if isEnd i then runEnd i s else runEvent i s
      | none => if s.cycle.canIssue core then runCore s.cycle core else .next s.cycle

/-- An event of the script. One of the end of a V cycle waits, with its turn, for the cores that can issue in the tick. -/
def runTurnEvent (s : State) (rest : List Turn) (i : Instr) : Out :=
  if !isEvent i then .next { s with turns := rest }
  else if !isEnd i then runEvent i { s with turns := rest }
  else match s.coreLeft with
  | some c => runCore s c
  | none => runEnd i { s with turns := rest }

/-- One turn of the script. -/
def runTurn (s : State) (rest : List Turn) : Turn → Out
  | .issue core => runChoice { s with turns := rest } core
  | .event i => runTurnEvent s rest i
  | t => .next (State.outside { s with turns := rest } t)

/-- A message of this chip's floe logic to itself. -/
def runFloe (s : State) (m : FloeMsg) : Out :=
  match m.event with
  | some i => runEvent i s
  | none => .next s

/-- What comes next where the script is empty: an event that is due, the next core of the tick, what falls at its end, and
the next tick. -/
def runNext (s : State) : Out :=
  match s.nextEvent with
  | some i => runEvent i s
  | none => match s.coreLeft with
    | some c => runCore s c
    | none => match s.endEvent with
      | some i => runEnd i s
      | none => .next s.cycle

/-- One step. -/
def step (s : State) : Host.Outcome State Fault Refusal :=
  match s.turns with
  | t :: rest => runTurn s rest t
  | [] => match s.localFloe with
    | m :: rest => runFloe { s with localFloe := rest } m
    | [] => runNext s

/-- `s` with the instruction whose bits are `w` placed where the next step fetches it; the bits above `nbits`, up to
the eight bytes of an IMX and its follower, are zero (log 30). -/
def State.withFetchWord (s : State) (nbits w : Nat) : State := s.withWord (leBytes 8 (w % 2 ^ nbits))

end Sys2Proof.Machine
end

