-- ==== Sys2Proof/Safety.lean ====
section
/-!
DEFINITION. Sys2Proof/Safety.lean: what claims call a safe run and the invariant of every step, and the terms in which
claims say what an instruction leaves: its registers, its bytes, and that nothing else changes.
-/

namespace Sys2Proof.Machine

open Sys2Proof

/-! ## Runs -/

/-- The step of a state answers a next state. -/
def StepRuns (s : State) : Prop := ∃ t, step s = .next t

/-- A run of any length from a state neither faults nor refuses. -/
def RunsOn (s : State) : Prop := ∀ n, ∃ t, Host.Core.run Sys2Proof.core n s = .next t

/-- The invariant of every step: memory is in its canonical form. -/
def MemInv (s : State) : Prop := Memory.wf s.mem = true

/-! ## Encodings (R278) -/

/-- The word of an R format: OP, D, A, B and F. -/
def wordR (op d a b f : Nat) : Nat := op * 2 ^ 24 + d * 2 ^ 19 + a * 2 ^ 14 + b * 2 ^ 9 + f

/-- The word of an I format: OP, D, A and IMM14. -/
def wordI (op d a imm : Nat) : Nat := op * 2 ^ 24 + d * 2 ^ 19 + a * 2 ^ 14 + imm

/-- The instruction is the one that a word stands for, in both directions. -/
def StandsFor (w : Nat) (i : Instr) : Prop := decode w = .ok i ∧ encode i = some w

/-- The word is rejected. -/
def Rejected (w : Nat) : Prop := ∃ e, decode w = .error e

/-! ## Operands -/

/-- None of these scalar registers holds a token of a job (R81), nor has the instruction read one before it waited, so it
reads and writes them at once. -/
def TokenFree (s : State) (rs : List Nat) : Prop := (∀ r ∈ rs, s.th.token r = .none) ∧ s.th.acquired = []

/-- Every posted store of the executing thread is acknowledged (R90). -/
def Settled (s : State) : Prop := s.unacked true = false

/-- The address after the executing instruction; an IMX pair counts as one (R284). -/
def following (s : State) : Word := s.th.at_ + 4

/-! ## What an instruction leaves -/

/-- `t` is `s` with the listed scalar registers written and the instruction completed at `pc`: s0 reads zero, every
other scalar register, every token but those of written registers, and everything else of the package are as before. -/
def ScalarOutcome (s t : State) (ws : Tbl Word) (pc : Word) : Prop :=
  (∀ r, t.th.S r = if r = 0 then 0 else (Tbl.look? ws r).getD (s.th.S r)) ∧
  (∀ r, Tbl.look? ws r = none → t.th.token r = s.th.token r) ∧
  ∃ regs tok dirty, t = s.setTh { s.th with
    s := regs, tok := tok, dirty := dirty, pc := pc, imx := none, wait := .ready, latch := [], acquired := [],
    done := s.th.done + 1 }

/-- The instruction answers a next state that is such an outcome. -/
def Completes (s : State) (i : Instr) (ws : Tbl Word) (pc : Word) : Prop :=
  ∃ t, exec i s = .next t ∧ ScalarOutcome s t ws pc

/-- The instruction traps precisely with a cause and TADDR (R7, R233): nothing else of it takes effect. -/
def Traps (s : State) (i : Instr) (cause : BitVec 8) (addr : Word) : Prop := exec i s = .next (s.trap cause addr)

/-- What taking a precise trap leaves (R233, R234): the saved registers, the level, the handler's address; every other
field of the thread, every other context and all memory as they were. What the instruction has read of tokens, and
what its acquire has changed, is put back (`undone`, `unconsume`): nothing, where it has read none. -/
def EntersHandler (s t : State) (cause : BitVec 8) (addr : Word) : Prop :=
  ∃ dirty, t = s.undone.setTh { s.th.unconsume with
    cause := cause, imprecise := false, notice := false, taddr := addr, epc := s.th.pc, plev := s.th.lev, lev := true,
    nest := true, pc := s.tvec.get 0 s.th.asid.toNat, wait := .ready, latch := [], imx := none, dirty := dirty }

/-- The instruction waits: its context sleeps, and nothing else changes. -/
def Waits (s : State) (i : Instr) (w : Wait) : Prop := exec i s = .next (s.sleep w)

/-- The event answers this next state. -/
def Gives (s : State) (i : Instr) (t : State) : Prop := exec i s = .next t

/-- `t` is `s` after the performance counters have counted: only they and the number of free values drawn differ, and
nothing where no counter is selected (R268). -/
def Accounted (s t : State) : Prop :=
  (∃ parts free, t = { s with parts := parts, free := free }) ∧ ((∀ p ∈ s.parts, p.2.pm = []) → t = s)

/-- Every byte of memory outside [k, k + n) reads in `t` as in `s`. -/
def SameOutside (s t : State) (k n : Nat) : Prop :=
  ∀ j, j < k ∨ k + n ≤ j → Memory.read1 t.mem j = Memory.read1 s.mem j

/-- `u` is `s` after writes that landed at their owners (R67, R122, R360, R442): bytes of memory with their tags, error
marks and dirty lines, and the waits that the writes end. Nothing else changes. -/
def OnlyLands (s u : State) : Prop :=
  (∃ mem tags errors cores ctxs, u = { s with mem := mem, tags := tags, errors := errors, cores := cores, ctxs := ctxs }) ∧
  (∀ k, ∃ dirty, u.core k = { s.core k with dirty := dirty }) ∧
  (∀ k, (u.ctx k).mode = (s.ctx k).mode ∧ ∃ w, u.thAt k = { s.thAt k with wait := w })

/-- Launches stand in the table in rising order, each under its own number. -/
def LaunchesTabled (s : State) : Prop :=
  s.launches.Pairwise (fun a b => a.1 < b.1) ∧ ∀ p ∈ s.launches, p.2.lid = p.1

/-- A kind-6 message is on its way to a member's floe logic: by the fabric, or within this chip (R216). -/
def Told (t : State) (chip : Nat) (m : FloeMsg) : Prop :=
  if chip = t.pkg.chip then m ∈ t.localFloe else Fabric.floe chip m.words ∈ t.outbox

/-- Every context but the executing one is as before. -/
def OthersKept (s t : State) : Prop := ∀ k, k ≠ s.cur → t.ctx k = s.ctx k

/-! ## Vectors (R150, R281, R415-R417) -/

/-- The scalar registers that a VA or VB field broadcasts hold no token, lanes are granted, and the vector length is
neither 0 nor above the grant. -/
def LanesReady (s : State) (fields : List (BitVec 5)) : Prop :=
  TokenFree s (fields.flatMap vreads) ∧ s.th.grant ≠ 0 ∧ s.th.vl ≠ 0 ∧ s.th.vl ≤ s.th.grant

/-- The instruction answers a next state that is as `s` but for lanes of one vector register, the pc and the thread's
draws, flags (which only gain) and dirty bits. -/
def KeepsButLanes (s t : State) : Prop :=
  t.th.pc = following s ∧ t.mem = s.mem ∧ t.stores = s.stores ∧ OthersKept s t ∧ (∀ r, t.th.S r = s.th.S r) ∧
  t.th.vl = s.th.vl ∧ t.th.grant = s.th.grant ∧ t.th.lev = s.th.lev ∧
  ∀ k, s.th.fpstat.getLsbD k = true → t.th.fpstat.getLsbD k = true

/-- Every active element of vD is as `P` says; every other lane and every mask register is as before. -/
def LanesGive (s : State) (i : Instr) (v : Nat) (act : Nat → Bool) (P : Nat → BitVec 32 → Prop) : Prop :=
  ∃ t, exec i s = .next t ∧ KeepsButLanes s t ∧ (∀ k, t.th.M k = s.th.M k) ∧
    (∀ r e, r < 16 → e < 256 → t.th.lane r e = s.th.lane r e ∨ (r = v ∧ act e = true)) ∧
    ∀ e, e < s.th.vl → act e = true → P e (t.th.lane v e)

/-- A lane that holds an exact value rounded to its format under the thread's mode and FTZ, with some draw. -/
def RoundsTo (t : Thread) (f : Fmt) (mode : RMode) (x : Num) (lane : BitVec 32) : Prop :=
  ∃ r, r < 2 ^ 32 ∧ lane = laneOf f (roundTo x f mode t.ftz r).bits

/-- An integer operation on the elements of two lanes: 32 bits, or 8 bits sign-extended to the lane (R281). -/
def elemWise (t : BitVec 3) (g : (w : Nat) → BitVec w → BitVec w → BitVec w) (x y : BitVec 32) : BitVec 32 :=
  if t = 6 then g 32 x y else (g 8 (x.setWidth 8) (y.setWidth 8)).signExtend 32

/-! ## Engine jobs (R82, R104, R169) -/

/-- A running job of a class and opcode whose header and reserved fields are in order. -/
def BodyReady (s : State) (n : Nat) (j : Job) (cls op : Nat) (l : Layout) : Prop :=
  s.jobs.look? n = some j ∧ j.state = .running ∧ j.made = [] ∧ j.waits = none ∧ j.pause = none ∧ CmdWord.cls j.word = cls ∧ CmdWord.opcode j.word = op ∧
    l.bad j.word = false

/-- The body of job `n` has run to its end in `t`: the job awaits its completion with its count of delivered bytes
raised, its status as before, and nothing of what it was kicked with changed. -/
def BodyDone (s t : State) (n : Nat) (j : Job) (bytes : Nat) : Prop :=
  ∃ k, t.jobs = s.jobs.insert n k ∧ k.state = .bodyDone ∧ k.status = j.status ∧ k.faultAddr = j.faultAddr ∧
    k.delivered = j.delivered + bytes ∧ k.word = j.word ∧ k.members = j.members ∧ k.core = j.core

/-- What a body leaves beside its job: writes that landed at their owners. -/
def BodyLands (s t : State) : Prop := ∃ u jobs fills, OnlyLands s u ∧ t = { u with jobs := jobs, fills := fills }

end Sys2Proof.Machine
end

