-- ==== Sys2Proof/Certificates/Slice0/Obligations.lean ====
section
/-!
DEFINITION. Sys2Proof/Certificates/Slice0/Obligations.lean: the statements for the provers. Most are about one family
of the opcode table or one kind of state: what its instructions and events leave, where they complete, trap or wait,
and what they do not change.
-/

open Sys2Proof Sys2Proof.Machine

/-! ## Scalar rules (R332, R382, R384, R387, R393, R408, R443) -/

/-- R332, whole: the format of CLZ, its result as the number of leading zero bits, the worked words and inline use.
R384, whole: the format of POPC, its result as the number of set bits, the worked word and inline use. R393, whole: the
format of SEL with C in F[8:4] and F[3:0] zero, its choice, the worked word and inline use. -/
def Obligations.CountAndSelectRules : Prop :=
  ((∀ d a : BitVec 5, StandsFor (wordR 0x16 d.toNat a.toNat 0 0) (.clz d a)) ∧
   (∀ w, w / 2 ^ 24 = 0x16 → w % 2 ^ 14 ≠ 0 → Rejected w) ∧
   (∀ (s : State) (d a : BitVec 5), TokenFree s [a.toNat, d.toNat] →
     ∃ n, n ≤ 64 ∧ Completes s (.clz d a) [(d.toNat, BitVec.ofNat 64 n)] (following s) ∧
       (∀ k, k < n → (s.th.S a.toNat).getLsbD (63 - k) = false) ∧
       (n < 64 → (s.th.S a.toNat).getLsbD (63 - n) = true)) ∧
   decode 0x16298000 = .ok (.clz 5 6) ∧
   (∀ (s : State) (d a : BitVec 5), TokenFree s [a.toNat, d.toNat] →
     (s.th.S a.toNat = 0 → Completes s (.clz d a) [(d.toNat, 64)] (following s)) ∧
     (s.th.S a.toNat = 0x10000 → Completes s (.clz d a) [(d.toNat, 47)] (following s))) ∧
   inlineOpcode 0x16 = true) ∧
  ((∀ d a : BitVec 5, StandsFor (wordR 0x17 d.toNat a.toNat 0 0) (.popc d a)) ∧
   (∀ w, w / 2 ^ 24 = 0x17 → w % 2 ^ 14 ≠ 0 → Rejected w) ∧
   (∀ (s : State) (d a : BitVec 5), TokenFree s [a.toNat, d.toNat] →
     Completes s (.popc d a)
       [(d.toNat, BitVec.ofNat 64 ((List.range 64).filter fun k => (s.th.S a.toNat).getLsbD k).length)] (following s)) ∧
   (∀ x : Word, ((List.range 64).filter fun k => x.getLsbD k).length ≤ 64) ∧
   decode 0x17298000 = .ok (.popc 5 6) ∧ inlineOpcode 0x17 = true) ∧
  ((∀ d a b c : BitVec 5, StandsFor (wordR 0x18 d.toNat a.toNat b.toNat (c.toNat * 16)) (.sel d a b c)) ∧
   (∀ w, w / 2 ^ 24 = 0x18 → w % 2 ^ 4 ≠ 0 → Rejected w) ∧
   (∀ (s : State) (d a b c : BitVec 5), TokenFree s [a.toNat, b.toNat, c.toNat, d.toNat] →
     (s.th.S c.toNat ≠ 0 → Completes s (.sel d a b c) [(d.toNat, s.th.S a.toNat)] (following s)) ∧
     (s.th.S c.toNat = 0 → Completes s (.sel d a b c) [(d.toNat, s.th.S b.toNat)] (following s))) ∧
   decode 0x18298E80 = .ok (.sel 5 6 7 8) ∧ inlineOpcode 0x18 = true)

/-- R408, whole: the format of SUB, S[D] := S[A] - S[B] modulo 2^64 with no flag, the worked word and inline use. The
outcome keeps FPSTAT with the rest of the thread. R382, whole: OR and ORI, with the immediate that IMX may extend.
R443, whole: XOR and XORI, with the immediate that IMX may extend, and the worked words. -/
def Obligations.SubtractAndLogicRules : Prop :=
  ((∀ d a b : BitVec 5, StandsFor (wordR 0x02 d.toNat a.toNat b.toNat 0) (.sub d a b)) ∧
   (∀ w, w / 2 ^ 24 = 0x02 → w % 2 ^ 9 ≠ 0 → Rejected w) ∧
   (∀ (s : State) (d a b : BitVec 5), TokenFree s [a.toNat, b.toNat, d.toNat] →
     Completes s (.sub d a b) [(d.toNat,
       BitVec.ofNat 64 (((s.th.S a.toNat).toNat + 2 ^ 64 - (s.th.S b.toNat).toNat) % 2 ^ 64))] (following s)) ∧
   decode 0x02298E00 = .ok (.sub 5 6 7) ∧ inlineOpcode 0x02 = true) ∧
  ((∀ d a b : BitVec 5, StandsFor (wordR 0x0B d.toNat a.toNat b.toNat 0) (.or d a b)) ∧
   (∀ w, w / 2 ^ 24 = 0x0B → w % 2 ^ 9 ≠ 0 → Rejected w) ∧
   (∀ (d a : BitVec 5) (i : BitVec 14), StandsFor (wordI 0x22 d.toNat a.toNat i.toNat) (.ori d a i)) ∧
   (∀ (s : State) (d a b : BitVec 5), TokenFree s [a.toNat, b.toNat, d.toNat] →
     Completes s (.or d a b) [(d.toNat, s.th.S a.toNat ||| s.th.S b.toNat)] (following s)) ∧
   (∀ (s : State) (d a : BitVec 5) (i : BitVec 14), TokenFree s [a.toNat, d.toNat] →
     (s.th.imx = none → Completes s (.ori d a i) [(d.toNat, s.th.S a.toNat ||| i.signExtend 64)] (s.th.pc + 4)) ∧
     (∀ x, s.th.imx = some x →
       Completes s (.ori d a i) [(d.toNat, s.th.S a.toNat ||| (x ++ i).signExtend 64)] (s.th.pc + 8))) ∧
   takesImx 0x22 = true ∧ inlineOpcode 0x0B = true ∧ inlineOpcode 0x22 = true ∧
   decode 0x22295230 = .ok (.ori 5 5 0x1230)) ∧
  ((∀ d a b : BitVec 5, StandsFor (wordR 0x0C d.toNat a.toNat b.toNat 0) (.xor d a b)) ∧
   (∀ w, w / 2 ^ 24 = 0x0C → w % 2 ^ 9 ≠ 0 → Rejected w) ∧
   (∀ (d a : BitVec 5) (i : BitVec 14), StandsFor (wordI 0x23 d.toNat a.toNat i.toNat) (.xori d a i)) ∧
   (∀ (s : State) (d a b : BitVec 5), TokenFree s [a.toNat, b.toNat, d.toNat] →
     Completes s (.xor d a b) [(d.toNat, s.th.S a.toNat ^^^ s.th.S b.toNat)] (following s)) ∧
   (∀ (s : State) (d a : BitVec 5) (i : BitVec 14), TokenFree s [a.toNat, d.toNat] →
     (s.th.imx = none → Completes s (.xori d a i) [(d.toNat, s.th.S a.toNat ^^^ i.signExtend 64)] (s.th.pc + 4)) ∧
     (∀ x, s.th.imx = some x →
       Completes s (.xori d a i) [(d.toNat, s.th.S a.toNat ^^^ (x ++ i).signExtend 64)] (s.th.pc + 8)) ∧
     (s.th.imx = none → Completes s (.xori d a (-1)) [(d.toNat, ~~~(s.th.S a.toNat))] (s.th.pc + 4))) ∧
   takesImx 0x23 = true ∧ inlineOpcode 0x0C = true ∧ inlineOpcode 0x23 = true ∧
   decode 0x0C298E00 = .ok (.xor 5 6 7) ∧ decode 0x2329BFFF = .ok (.xori 5 6 (-1)))

/-- R387, whole: RAND writes Flurry(SRSEED, FLURCNT) and raises FLURCNT by one, no other thread field changing; its
format, its stream with rounding and job keys, the worked word and that inline code may not use it. -/
def Obligations.RandRule : Prop :=
  (∀ d : BitVec 5, StandsFor (wordR 0x7E d.toNat 0 0 0) (.rand d)) ∧
  (∀ w, w / 2 ^ 24 = 0x7E → w % 2 ^ 19 ≠ 0 → Rejected w) ∧
  (∀ (s : State) (d : BitVec 5), TokenFree s [d.toNat] →
    ∃ t, exec (.rand d) s = .next t ∧ t.th.flurcnt = s.th.flurcnt + 1 ∧
      ScalarOutcome (s.setTh { s.th with flurcnt := s.th.flurcnt + 1 }) t
        [(d.toNat, flurry s.th.srseed s.th.flurcnt)] (following s)) ∧
  (∀ (t : Thread) (core : Nat) (w : CmdWord) (g : Bool) (ms : List Member) (m : BitVec 8),
    (t.newJob core w g ms m).key = flurry t.srseed t.flurcnt) ∧
  (∀ t : Thread, t.draw32 = (flurry t.srseed t.flurcnt).toNat / 2 ^ 32) ∧
  (∀ (s : State) (a d : BitVec 5), TokenFree s [a.toNat, d.toNat] → s.th.S a.toNat = 0 →
    ∃ t, exec (.srwr a 0x037) s = .next t ∧
      ∃ u, exec (.rand d) t = .next u ∧ u.th.S d.toNat = 0 ∧ u.th.flurcnt = 1) ∧
  decode 0x7E280000 = .ok (.rand 5) ∧ inlineOpcode 0x7E = false

/-! ## Scalar arithmetic (R312, R322, R339, R348, R365, R369, R370, R381, R390, R398) -/

/-- Every other R-format arithmetic instruction: its value for all operands, the next address, and nothing else. The I-
and U-format arithmetic instructions: values for all operands and immediates, an IMX extending a signed IMM14; nothing
else changes. -/
def Obligations.ScalarArithmetic : Prop :=
  (∀ (s : State) (d a b : BitVec 5), TokenFree s [a.toNat, b.toNat, d.toNat] →
     let x := s.th.S a.toNat
     let y := s.th.S b.toNat
     let result (i : Instr) (v : Word) : Prop := Completes s i [(d.toNat, v)] (following s)
     result (.add d a b) (x + y) ∧
     result (.mul d a b) (x * y) ∧
     result (.mulh d a b) (BitVec.ofInt 64 (x.toInt * y.toInt / 2 ^ 64)) ∧
     result (.mulhu d a b) (BitVec.ofNat 64 (x.toNat * y.toNat / 2 ^ 64)) ∧
     result (.div d a b) (if y = 0 then -1 else if x = BitVec.intMin 64 ∧ y = -1 then BitVec.intMin 64 else x.sdiv y) ∧
     result (.divu d a b) (if y = 0 then -1 else x / y) ∧
     result (.rem d a b) (if y = 0 then x else x.srem y) ∧
     result (.remu d a b) (if y = 0 then x else x % y) ∧
     result (.and d a b) (x &&& y) ∧
     result (.shl d a b) (x <<< (y.toNat % 64)) ∧
     result (.shr d a b) (x >>> (y.toNat % 64)) ∧
     result (.sra d a b) (x.sshiftRight (y.toNat % 64)) ∧
     result (.slt d a b) (if x.toInt < y.toInt then 1 else 0) ∧
     result (.sltu d a b) (if x.toNat < y.toNat then 1 else 0) ∧
     result (.min d a b) (if x.toInt ≤ y.toInt then x else y) ∧
     result (.max d a b) (if x.toInt ≤ y.toInt then y else x) ∧
     result (.minu d a b) (if x.toNat ≤ y.toNat then x else y) ∧
     result (.maxu d a b) (if x.toNat ≤ y.toNat then y else x)) ∧
  (∀ (s : State) (d a : BitVec 5) (i : BitVec 14) (n : BitVec 6) (u : BitVec 19), TokenFree s [a.toNat, d.toNat] →
     let x := s.th.S a.toNat
     let y := match s.th.imx with | some h => (h ++ i).signExtend 64 | none => i.signExtend 64
     let result (j : Instr) (v : Word) : Prop := Completes s j [(d.toNat, v)] (following s)
     result (.addi d a i) (x + y) ∧
     result (.andi d a i) (x &&& y) ∧
     result (.shli d a n) (x <<< n.toNat) ∧
     result (.shri d a n) (x >>> n.toNat) ∧
     result (.srai d a n) (x.sshiftRight n.toNat) ∧
     result (.slti d a i) (if x.toInt < y.toInt then 1 else 0) ∧
     result (.sltiu d a i) (if x.toNat < y.toNat then 1 else 0) ∧
     result (.lih d u) (u.signExtend 64 * 16384))

/-- BFX takes bits [p+w:p] and BFI replaces them (R322): bit by bit, for every field that lies within the register;
one that does not traps ILLEGAL. GADR and LADR (R348, R365): an alias offset becomes the global address of the executing
core's scratchpad, that address becomes the offset again, and every other address passes through. -/
def Obligations.FieldsAndAddresses : Prop :=
  (∀ (s : State) (d a : BitVec 5) (w p : BitVec 6),
    (p.toNat + w.toNat < 64 → TokenFree s [a.toNat, d.toNat] →
      (∃ v, Completes s (.bfx d a w p) [(d.toNat, v)] (following s) ∧
        ∀ k, k < 64 → v.getLsbD k = (decide (k ≤ w.toNat) && (s.th.S a.toNat).getLsbD (p.toNat + k))) ∧
      (∃ v, Completes s (.bfi d a w p) [(d.toNat, v)] (following s) ∧
        ∀ k, k < 64 → v.getLsbD k =
          if p.toNat ≤ k ∧ k ≤ p.toNat + w.toNat then (s.th.S a.toNat).getLsbD (k - p.toNat)
          else (s.th.S d.toNat).getLsbD k)) ∧
    (64 ≤ p.toNat + w.toNat → Traps s (.bfx d a w p) Cause.illegal 0 ∧ Traps s (.bfi d a w p) Cause.illegal 0)) ∧
  (∀ (s : State) (d a : BitVec 5) (i : BitVec 14), TokenFree s [a.toNat, d.toNat] → s.cur < 9216 →
    let e := s.th.S a.toNat + s.th.imm14 i
    let base := 2 ^ 52 + s.me / 576 * 2 ^ 42 + s.me / 24 % 24 * 2 ^ 37 + s.me % 24 * 2 ^ 32
    (e.toNat ≤ 0x1FFFF → Completes s (.gadr d a i) [(d.toNat, BitVec.ofNat 64 (base + e.toNat))] (following s)) ∧
    (0x1FFFF < e.toNat → Completes s (.gadr d a i) [(d.toNat, e)] (following s)) ∧
    (base ≤ e.toNat → e.toNat ≤ base + 0x1FFFF →
      Completes s (.ladr d a i) [(d.toNat, BitVec.ofNat 64 (e.toNat - base))] (following s)) ∧
    (e.toNat < base ∨ base + 0x1FFFF < e.toNat → Completes s (.ladr d a i) [(d.toNat, e)] (following s)))

/-! ## Branches, jumps and the traps that are an instruction's effect (R321, R359, R323, R409) -/

/-- The conditional branches: each goes to its own address plus four times the displacement where its condition holds,
and on otherwise; no register changes. In inline code a target that is not ahead within the code traps ILLEGAL (R60).
JAL and JALR (R359): the link is the address after the instruction, S[A] is read before D is written, and a target that
is not a multiple of 4 traps MISALIGN with TADDR the target. -/
def Obligations.BranchesAndJumps : Prop :=
  (∀ (s : State) (a b : BitVec 5) (i : BitVec 14),
     let x := s.th.S a.toNat
     let y := s.th.S b.toNat
     let goes (j : Instr) (c : Bool) : Prop :=
       Completes s j [] (if c then s.th.at_ + s.th.imm14 i * 4 else following s)
     (s.th.inlineTarget (s.th.imm14 i) = true → TokenFree s [a.toNat, b.toNat] →
       goes (.beq a b i) (decide (x = y)) ∧ goes (.bne a b i) (decide (x ≠ y)) ∧
       goes (.blt a b i) (decide (x.toInt < y.toInt)) ∧ goes (.bge a b i) (decide (y.toInt ≤ x.toInt)) ∧
       goes (.bltu a b i) (decide (x.toNat < y.toNat)) ∧ goes (.bgeu a b i) (decide (y.toNat ≤ x.toNat))) ∧
     (s.th.inlineTarget (s.th.imm14 i) = false →
       ∀ j ∈ [Instr.beq a b i, .bne a b i, .blt a b i, .bge a b i, .bltu a b i, .bgeu a b i],
         Traps s j Cause.illegal 0)) ∧
  (∀ (s : State) (d a : BitVec 5) (i : BitVec 14) (j : BitVec 19),
     (TokenFree s [d.toNat] →
       Completes s (.jal d j) [(d.toNat, following s)] (s.th.at_ + s.th.imm19 j * 4)) ∧
     (TokenFree s [a.toNat, d.toNat] →
       let t := s.th.S a.toNat + s.th.imm14 i
       (t.toNat % 4 = 0 → Completes s (.jalr d a i) [(d.toNat, following s)] t) ∧
       (t.toNat % 4 ≠ 0 → Traps s (.jalr d a i) Cause.misalign t)))

/-- TakeTrap of R233 for every cause and address: with no handler running and a vector, the trap enters the handler;
SVC and BKPT are such traps. Under a handler, or in an address space without a vector, a trap ends the thread as failed
(R236): its context is idle, its fault record is written to its partition's ring, its join counter is to be told of a
failure, and no other byte of memory changes. TRET (R413, R235): at supervisor level it restores the level, ends the
handler and goes to EPC without its low two bits; a record that waits in the SFRQ traps there at once. At user level it
traps PRIV. -/
def Obligations.TrapsAndReturn : Prop :=
  ((∀ (s : State), s.th.flake = none → s.th.nest = false → s.tvec.get 0 s.th.asid.toNat ≠ 0 →
     (∀ (cause : BitVec 8) (addr : Word), EntersHandler s (s.trap cause addr) cause addr) ∧
     (∀ c : BitVec 14, ∃ t, exec (.svc c) s = .next t ∧ EntersHandler s t 0x10 0) ∧
     (∀ c : BitVec 14, ∃ t, exec (.bkpt c) s = .next t ∧ EntersHandler s t 0x11 0)) ∧
   (∀ (s : State) (cause : BitVec 8) (addr : Word), s.th.flake = none →
     s.th.nest = true ∨ s.tvec.get 0 s.th.asid.toNat = 0 →
     let t := s.trap cause addr
     t.ctx s.cur = {} ∧
     t.mem = (s.undone.faultRecord s.th.part s.th.tid s.cur cause addr s.th.pc).mem ∧
     (s.th.join ≠ 0 → ⟨s.th.join, true, s.th.part, s.th.tid, false, none⟩ ∈ t.decrements))) ∧
  (∀ s : State,
     (s.th.lev = true → s.th.sfrq = [] → s.th.ringNote = none → s.th.joinNote = none →
       ∃ t dirty, exec .tret s = .next t ∧ t = s.setTh { s.th with
         pc := s.th.epc &&& ~~~3#64, lev := s.th.plev, nest := false, wait := .ready, latch := [], acquired := [],
         imx := none, done := s.th.done + 1, dirty := dirty }) ∧
     (s.th.lev = true → s.th.sfrq ≠ [] → s.tvec.get 0 s.th.asid.toNat ≠ 0 →
       ∃ t, exec .tret s = .next t ∧ t.th.nest = true ∧ t.th.lev = true ∧ t.th.plev = s.th.plev ∧
         t.th.imprecise = true ∧ t.th.epc = s.th.epc &&& ~~~3#64 ∧ t.th.pc = s.tvec.get 0 s.th.asid.toNat ∧
         (t.th.cause = 0x07 ∨ t.th.cause = 0x0C) ∧ t.mem = s.mem) ∧
     (s.th.lev = false → Traps s .tret Cause.priv 0))

/-! ## Traps, privilege and tokens (R29, R81, R82, R232-R239, R413) -/

/-- R259, R236: a record for an enabled ring with room is written at the producer's entry and the producer rises by
one; a full ring counts the record as dropped and memory keeps. -/
def Obligations.RingRecords : Prop :=
  ∀ (s : State) (p n : Nat) (sel : RingSel) (rec : List Nat),
    let r := (s.part p).ring sel
    r.size? = some n →
    ((r.producer - r.consumer).toNat = 2 ^ n →
      (s.ringPut p sel rec).2 = false ∧ (s.ringPut p sel rec).1.mem = s.mem ∧
      (((s.ringPut p sel rec).1.part p).ring sel).dropped = (if r.dropped = -1 then -1 else r.dropped + 1)) ∧
    ((r.producer - r.consumer).toNat ≠ 2 ^ n → ∀ (k : PhysKind) (pa : Nat),
      s.resolve (unitIssuer p 0) (BitVec.ofNat 64 (r.addr + r.producer.toNat % 2 ^ n * (8 * rec.length))) .write =
        .ok (.bulk k pa) → k ≠ .control → s.unreachable (.bulk k pa) = false →
      (s.ringPut p sel rec).2 = true ∧
      (((s.ringPut p sel rec).1.part p).ring sel).producer = r.producer + 1 ∧
      Memory.readBytes (s.ringPut p sel rec).1.mem (s.keyOf p (.bulk k pa)) (8 * rec.length) = rec.flatMap (leBytes 8) ∧
      SameOutside s (s.ringPut p sel rec).1 (s.keyOf p (.bulk k pa)) (8 * rec.length))

/-- The instructions of a supervisor (R296 step 5) trap PRIV at user level, and so do accesses of the state registers
0x010 to 0x017 (R232); a write of a register that holds only read-only fields traps PRIV at every level (R277). -/
def Obligations.Privilege : Prop :=
  (∀ (s : State) (d a b : BitVec 5), s.th.lev = false →
    ∀ i ∈ [Instr.tret, .tlbgen d a, .gendrainCl, .gendrainPk, .ctxsave d a b, .ctxload d a], Traps s i Cause.priv 0) ∧
  (∀ (s : State) (d a : BitVec 5) (n : BitVec 14), s.th.lev = false → 0x010 ≤ n.toNat → n.toNat ≤ 0x017 →
    ∀ i ∈ [Instr.srrd d n, .srwr a n, .srset a n, .srclr a n], Traps s i Cause.priv 0) ∧
  (∀ (s : State) (a : BitVec 5) (n : BitVec 14),
    n.toNat ∈ [0x000, 0x001, 0x002, 0x003, 0x040, 0x050, 0x051, 0x052, 0x060, 0x061] →
    ∀ i ∈ [Instr.srwr a n, .srset a n, .srclr a n], Traps s i Cause.priv 0)

/-- R81, R82: an instruction that reads or writes a pending token sleeps on it; the first read of a failed token traps
JOB_FAULT with the job's first faulting address, the token consumed; a read of any other completed one acquires and
goes on. -/
def Obligations.TokenReads : Prop :=
  ∀ (s : State) (d a b : BitVec 5),
    let is := [Instr.add d a b, .sub d a b, .mul d a b, .and d a b, .or d a b, .xor d a b, .slt d a b, .sltu d a b]
    let status := (s.th.S a.toNat).toNat / 2 ^ 56
    (∀ n, s.th.token a.toNat = .pending n → ∀ i ∈ is, Waits s i (.token a.toNat)) ∧
    (∀ n, TokenFree s [a.toNat, b.toNat] → s.th.token d.toNat = .pending n → ∀ i ∈ is, Waits s i (.token d.toNat)) ∧
    (∀ x, s.th.token a.toNat = .done x → (∀ r ∈ [b.toNat, d.toNat], r ≠ a.toNat → s.th.token r = .none) →
      (1 ≤ status → status ≤ 6 → ∀ i ∈ is,
        ∃ u : State, exec i s = .next (u.trapAt s.cur Cause.jobFault x) ∧ u.cur = s.cur ∧ u.th.token a.toNat = .none ∧
          (∀ r, u.th.S r = s.th.S r) ∧ u.mem = s.mem ∧ u.th.pc = s.th.pc) ∧
      (status = 0 ∨ 6 < status →
        ∃ t, exec (.add d a b) s = .next t ∧ t.th.pc = following s ∧ t.th.token a.toNat = .none ∧
          (d ≠ 0 → t.th.S d.toNat = s.th.S a.toNat + s.th.S b.toNat) ∧ (t.core s.me).rrc = []))

/-! ## Loads and stores (R64, R66, R90, R99, R366-R368, R405-R407) -/

/-- The scalar loads and LDACQ, by where the address leads: a misaligned one traps MISALIGN, one that names no place
LOAD_FAULT; the own scratchpad gives its value at once, sign- or zero-extended, or traps MCHK; a present line of the
remote read cache gives the line's; every other place makes the load wait for its data with nothing changed, or,
outside the cluster, the thread migrates. Nothing but D changes; LDACQ empties the remote read cache first, or, where
it waits, when its data come. The data of a waiting load (R68, R366): LOAD_DATA_RETURN writes the register, fills the
line that the load waits for, and goes to the instruction after the load; an uncorrectable error traps MCHK there, and
memory that is out of reach LOAD_FAULT. An LDACQ that has waited empties the remote read cache first, and so does a
load that has read a token (R81, R82). A line with an error beside the bytes read is not kept (the model's reading, log
99). -/
def Obligations.ScalarLoads : Prop :=
  (∀ (s : State) (d a : BitVec 5) (i : BitVec 14) (sz : BitVec 2) (c : BitVec 3), TokenFree s [a.toNat, d.toNat] →
     (let addr := s.th.S a.toNat + s.th.imm14 i
     ∀ p : Instr × Nat × Bool × (Nat → Word), p ∈ [
         ((Instr.ldb d a i, 1, true, fun x => (BitVec.ofNat 8 x).signExtend 64) : Instr × Nat × Bool × (Nat → Word)),
         (.ldbu d a i, 1, false, fun x => BitVec.ofNat 64 x),
         (.ldh d a i, 2, true, fun x => (BitVec.ofNat 16 x).signExtend 64),
         (.ldhu d a i, 2, false, fun x => BitVec.ofNat 64 x),
         (.ldw d a i, 4, true, fun x => (BitVec.ofNat 32 x).signExtend 64),
         (.ldwu d a i, 4, false, fun x => BitVec.ofNat 64 x),
         (.ldd d a i, 8, false, fun x => BitVec.ofNat 64 x)] →
       let n := p.2.1
       (addr.toNat % n ≠ 0 → Traps s p.1 Cause.misalign addr) ∧
       (addr.toNat % n = 0 → s.dataPlace addr n .read = none → Traps s p.1 Cause.loadFault addr) ∧
       ∀ place, addr.toNat % n = 0 → s.dataPlace addr n .read = some place → s.unreachable place = false →
         let key := s.keyOf s.th.part place
         (∀ off al, place = .spad s.me off al → s.storePending al key n = false →
           (s.badGranule? key n = none →
             Completes s p.1 [(d.toNat, p.2.2.2 (Memory.readLE s.mem key n))] (following s)) ∧
           ∀ g, s.badGranule? key n = some g → Traps s p.1 Cause.mchk (scalarMchk addr key g)) ∧
         (∀ core off l, place = .spad core off false → core ≠ s.me → clusterOf core = clusterOf s.me →
           rrcLookup (s.core s.me) key = some l →
           ∃ t, exec p.1 s = .next t ∧ ScalarOutcome ((s.markSeen key n).setCore s.me (rrcTouch (s.core s.me) l)) t
             [(d.toNat, extend p.2.2.1 n (l.read key n))] (following s)) ∧
         (∀ core off, place = .spad core off false → core ≠ s.me → clusterOf core = clusterOf s.me →
           rrcLookup (s.core s.me) key = none → s.pendingOf s.me (lineOf key) 64 = false →
           Waits s p.1 (.load d.toNat n p.2.2.1 key addr true (s.genOf (clusterOf s.me) s.th.asid) (following s) false)) ∧
         ((∀ core off al, place ≠ .spad core off al) → s.storePending false key n = false →
           Waits s p.1 (.load d.toNat n p.2.2.1 key addr false (s.genOf (clusterOf s.me) s.th.asid) (following s) false)) ∧
         (∀ core off, place = .spad core off false → clusterOf core ≠ clusterOf s.me → s.unsettled s.cur = false →
           s.th.grant = 0 → s.th.level < 4 → s.egressBlocked s.me s.th.level = false →
           ∃ m u, exec p.1 s = .next ({ s.setCtx s.cur {} with mesh := s.mesh ++ [m], nextId := s.nextId + 1 } : State) ∧
             hKind m.header = 2 ∧ m.thread = some u ∧ u.pc = s.th.pc ∧ ∀ r, u.S r = s.th.S r)) ∧
     (c.toNat ≤ 4 →
       let addr := s.th.S a.toNat
       let n := 2 ^ sz.toNat
       (addr.toNat % n ≠ 0 → Traps s (.ldacq d a sz c) Cause.misalign addr) ∧
       (addr.toNat % n = 0 → s.dataPlace addr n .read = none → Traps s (.ldacq d a sz c) Cause.loadFault addr) ∧
       ∀ place, addr.toNat % n = 0 → s.dataPlace addr n .read = some place → s.unreachable place = false →
         let key := s.keyOf s.th.part place
         (∀ off al, place = .spad s.me off al → s.acquire.storePending al key n = false → s.badGranule? key n = none →
           ∃ t, exec (.ldacq d a sz c) s = .next t ∧ (t.core s.me).rrc = [] ∧
             ScalarOutcome s.acquire t [(d.toNat, BitVec.ofNat 64 (Memory.readLE s.mem key n))] (following s)) ∧
         (∀ core off, place = .spad core off false → core ≠ s.me → clusterOf core = clusterOf s.me →
           s.acquire.pendingOf s.me (lineOf key) 64 = false →
           exec (.ldacq d a sz c) s = .next (s.acquire.sleep
             (.load d.toNat n false key addr true (s.genOf (clusterOf s.me) s.th.asid) (following s) true))) ∧
         ((∀ core off al, place ≠ .spad core off al) → s.acquire.storePending false key n = false →
           exec (.ldacq d a sz c) s = .next (s.acquire.sleep
             (.load d.toNat n false key addr false (s.genOf (clusterOf s.me) s.th.asid) (following s) true))))) ∧
  (∀ (s : State) (ctx d n : Nat) (signed : Bool) (key : Nat) (addr : Word) (fill : Bool) (gen : BitVec 32) (next : Word)
     (acq : Bool),
     (s.ctx ctx).isRunning = true → (s.thAt ctx).wait = .load d n signed key addr fill gen next acq →
     s.portHolds key none = false → (fill = true → s.pendingOf (coreOfCtx ctx) (lineOf key) 64 = false) →
     (s.loadLost key = true → exec (.loadDataReturn ctx) s = .next (s.trapAt ctx Cause.loadFault addr)) ∧
     (s.loadLost key = false → isControlKey key = false →
       (s.badGranule? key n = none → key % 64 + n ≤ 64 →
         ∃ t, exec (.loadDataReturn ctx) s = .next t ∧ t.mem = s.mem ∧ (t.thAt ctx).pc = next ∧
           (t.thAt ctx).wait = .ready ∧
           (∀ r, (t.thAt ctx).S r = if r = 0 then 0 else if r = d then extend signed n (Memory.readLE s.mem key n)
             else (s.thAt ctx).S r) ∧
           (fill = true → s.badGranule? (lineOf key) 64 = none →
              rrcLookup (t.core (coreOfCtx ctx)) key = some (s.fetchLine key)) ∧
           (fill = false ∨ (s.badGranule? (lineOf key) 64).isSome = true →
              (t.core (coreOfCtx ctx)).rrc =
                if acq = true ∨ (s.thAt ctx).acquired ≠ [] then [] else (s.core (coreOfCtx ctx)).rrc) ∧
           ∀ j, j ≠ ctx → t.thAt j = s.thAt j) ∧
       ∀ g, s.badGranule? key n = some g →
         exec (.loadDataReturn ctx) s = .next (s.trapAt ctx Cause.mchk (scalarMchk addr key g))))

/-- The stores into the private alias write their low bytes at once: STB, STH, STW, STD, and STREL once the thread's
posted stores are acknowledged. Every other byte of memory, every register and every posted store is as before. A store
anywhere but into the private alias is posted (R90): memory is unchanged when it completes, and one posted store of the
thread holds its bytes and key. The posted store then lands, is acknowledged, or is rejected into the SFRQ (R28, R71,
R238). -/
def Obligations.ScalarStores : Prop :=
  (∀ (s : State) (a b : BitVec 5) (i : BitVec 14), TokenFree s [a.toNat, b.toNat] →
     (let addr := s.th.S a.toNat + s.th.imm14 i
     ∀ p ∈ [(Instr.stb a b i, 1), (.sth a b i, 2), (.stw a b i, 4), (.std a b i, 8)],
       (addr.toNat % p.2 ≠ 0 → Traps s p.1 Cause.misalign addr) ∧
       (addr.toNat < 0x20000 → addr.toNat % p.2 = 0 → s.storePending true (spadKey s.me addr.toNat) p.2 = false →
         ∃ t, exec p.1 s = .next t ∧
           Memory.readLE t.mem (spadKey s.me addr.toNat) p.2 = (s.th.S b.toNat).toNat % 256 ^ p.2 ∧
           SameOutside s t (spadKey s.me addr.toNat) p.2 ∧ t.th = s.th.retire ∧ t.stores = s.stores ∧
           t.parts = s.parts ∧ ∀ k, (t.core k).fit = (s.core k).fit ∧ (t.core k).acc = (s.core k).acc)) ∧
     (∀ (sz : BitVec 2) (c : BitVec 3), c.toNat ≤ 4 →
       let addr := s.th.S a.toNat
       let n := 2 ^ sz.toNat
       (addr.toNat % n ≠ 0 → Traps s (.strel a b sz c) Cause.misalign addr) ∧
       (addr.toNat < 0x20000 → addr.toNat % n = 0 → s.unacked (c == 4) = true →
         Waits s (.strel a b sz c) (.stores (c == 4))) ∧
       (addr.toNat < 0x20000 → addr.toNat % n = 0 → s.unacked (c == 4) = false →
         s.storePending true (spadKey s.me addr.toNat) n = false →
         ∃ t, exec (.strel a b sz c) s = .next t ∧
           Memory.readLE t.mem (spadKey s.me addr.toNat) n = (s.th.S b.toNat).toNat % 256 ^ n ∧
           SameOutside s t (spadKey s.me addr.toNat) n ∧ t.th = s.th.retire ∧ t.stores = s.stores))) ∧
  ((∀ (s : State) (a b : BitVec 5) (i : BitVec 14) (place : Place), TokenFree s [a.toNat, b.toNat] →
     let addr := s.th.S a.toNat + s.th.imm14 i
     ∀ p ∈ [(Instr.stb a b i, 1), (.sth a b i, 2), (.stw a b i, 4), (.std a b i, 8)],
       (addr.toNat % p.2 = 0 → s.dataPlace addr p.2 .write = none → Traps s p.1 Cause.storeFault addr) ∧
       (addr.toNat % p.2 = 0 → s.dataPlace addr p.2 .write = some place → (∀ core off, place ≠ .spad core off true) →
         ∃ t q, exec p.1 s = .next t ∧ t.mem = s.mem ∧ t.th = s.th.retire ∧ t.stores = s.stores ++ [q] ∧
           q.ctx = s.cur ∧ q.tid = s.th.tid ∧ q.addr = addr ∧ q.key = s.keyOf s.th.part place ∧
           leNat q.bytes = (s.th.S b.toNat).toNat % 256 ^ p.2 ∧ q.landed = false ∧ OthersKept s t)) ∧
   (∀ (s : State) (q : Posted), s.stores = [q] → q.landed = false → q.rejected = none → q.lost = false → q.peer = none →
     q.tag = none →
     (s.storeRefused q = false → s.storeBound q = false → s.portHolds q.key q.arrival = false →
       isControlKey q.key = false →
       ∃ t, exec (.postedStoreLanding q.id) s = .next t ∧ t.stores = [{ q with landed := true }] ∧
         Memory.readBytes t.mem q.key q.bytes.length = q.bytes ∧ SameOutside s t q.key q.bytes.length) ∧
     (s.storeBound q = true →
       ∃ t, exec (.glacierWriteReject q.id) s = .next t ∧ t.mem = s.mem ∧ t.stores = [{ q with rejected := some 0 }])) ∧
   (∀ (s : State) (q : Posted), s.stores = [q] → q.landed = true → q.peer = none →
     ∃ t, exec (.postedStoreAck q.id) s = .next t ∧ t.stores = [] ∧ t.mem = s.mem) ∧
   (∀ (s : State) (q : Posted) (r x : BitVec 5), s.stores = [q] → q.rejected = some r → q.peer = none → 1 ≤ q.tid →
     ∃ t, exec (.storeReject q.id x) s = .next t ∧ t.stores = [] ∧ t.mem = s.mem ∧
       ∀ k, (s.thAt k).isTid q.part q.tid = true → (s.thAt k).sfrq.length < 8 →
         (t.thAt k).sfrq =
           (s.thAt k).sfrq ++ [(sfrqRecord r.toNat (sizeCode q.bytes.length) q.addr, q.posted)]))

/-! ## Fences, waits and the end of a thread (R28, R90, R99, R106, R240, R340, R343, R345, R441, R442, R444) -/

/-- FENCE, FENCE.rel and FENCE.acq at every scope, and DRAIN: what each waits for, D as the number of peers whose
stores were lost (scope .sy only, R106, R240), the emptied remote read cache of an acquire; no other register, and no
byte of memory, changes. That a lost peer is counted once, and its stores then forgotten, is the model's reading
(DEDUCED, log 37). WFE returns a word that differs from S[B], and else registers on it; a landing write on any byte of
the word ends the wait with the word as the write left it, and WFE returns that. It takes its owner's port, waiting for
the next V cycle where the port has performed an operation (R101), and a line of the remote read cache that holds the
word leaves (R96). YIELD completes; with another user context of the core ready, its context then waits for those
contexts, and no longer than 8 V cycles. Registers and memory keep. -/
def Obligations.FencesAndWaits : Prop :=
  (∀ (s : State) (d : BitVec 5) (c : BitVec 3), TokenFree s [d.toNat] → c.toNat ≤ 4 →
     (c ≠ 4 → s.unacked false = true → Waits s (.fence d c) (.stores false) ∧ Waits s (.fenceRel d c) (.stores false)) ∧
     (c ≠ 4 → s.unacked false = false →
       (∃ t, exec (.fence d c) s = .next t ∧ (t.core s.me).rrc = [] ∧
         ScalarOutcome s.acquire t [(d.toNat, 0)] (following s)) ∧
       (∃ t, exec (.fenceRel d c) s = .next t ∧
         ScalarOutcome { s with stores := s.acquire.stores } t [(d.toNat, 0)] (following s))) ∧
     (c ≠ 4 → ∃ t, exec (.fenceAcq d c) s = .next t ∧ (t.core s.me).rrc = [] ∧
       ScalarOutcome s.acquire t [(d.toNat, 0)] (following s)) ∧
     (s.unacked true = true → ∀ i ∈ [Instr.fence d 4, .fenceRel d 4, .fenceAcq d 4, .drain], Waits s i (.stores true)) ∧
     (s.unacked true = false →
       let n := BitVec.ofNat 64 s.lostPeers.length
       (∀ i ∈ [Instr.fence d 4, .fenceAcq d 4], ∃ t, exec i s = .next t ∧ (t.core s.me).rrc = [] ∧
         ScalarOutcome s.dropLost.acquire t [(d.toNat, n)] (following s)) ∧
       (∃ t, exec (.fenceRel d 4) s = .next t ∧
         ScalarOutcome { s with stores := s.dropLost.acquire.stores } t [(d.toNat, n)] (following s)) ∧
       Completes s .drain [] (following s))) ∧
  (((∀ (s : State) (d a b : BitVec 5) (p : Place), TokenFree s [a.toNat, b.toNat, d.toNat] →
     (∀ w, s.th.wait ≠ .wfeHit w) →
     let addr := s.th.S a.toNat
     let key := s.keyOf s.th.part p
     let w := BitVec.ofNat 64 (Memory.readLE s.mem key 8)
     addr.toNat < 0x20000 ∨ addr.toNat / 2 ^ 52 = 1 →
     (addr.toNat % 8 ≠ 0 → Traps s (.wfe d a b) Cause.misalign addr) ∧
     (addr.toNat % 8 = 0 → s.dataPlace addr 8 .read = some p →
       s.storePending (decide (addr.toNat < 0x20000)) key 8 = false → s.badGranule? key 8 = none →
       ((s.core (coreOfKey key)).portBusy = true → Waits s (.wfe d a b) (.port (coreOfKey key))) ∧
       ((s.core (coreOfKey key)).portBusy = false →
         (w ≠ s.th.S b.toNat → ∃ t, exec (.wfe d a b) s = .next t ∧
           ScalarOutcome (s.dropAt addr) t [(d.toNat, w)] (following s)) ∧
         (w = s.th.S b.toNat → Waits s (.wfe d a b) (.wfe key))))) ∧
   (∀ (s : State) (d a b : BitVec 5) (w : Word), s.th.wait = .wfeHit w →
     ∃ t, exec (.wfe d a b) s = .next t ∧
       ScalarOutcome (s.dropAt (s.th.S a.toNat)) t [(d.toNat, w)] (following s)) ∧
   (∀ (s : State) (k j key : Nat) (bytes : List Byte), (s.thAt k).wait = .wfe j →
     (key < j + 8 → j < key + bytes.length →
       ((s.land key bytes).thAt k).wait =
         .wfeHit (BitVec.ofNat 64 (Memory.readLE (Memory.writeBytes s.mem key bytes) j 8))) ∧
     (j + 8 ≤ key ∨ key + bytes.length ≤ j → ((s.land key bytes).thAt k).wait = .wfe j))) ∧
   (∀ s : State,
     let others := (userCtxs s.me).filter fun k => k != s.cur && s.isReady k
     (others = [] → Completes s .yield [] (following s)) ∧
     (others ≠ [] → exec .yield s = .next (s.setTh { s.th.retire with wait := .yielded others 8 }))))

/-- FIN: in the service context it ends the flake, whose message leaves the mailbox; a thread waits for its stores,
then, where it has no join counter, ends: its context is idle; with one, the decrement is on its way and the thread
waits for it. Where a handler runs the thread ends failed (R28, R345). -/
def Obligations.Finish : Prop :=
  ∀ s : State,
    (∀ f, s.th.flake = some f →
      ∃ t, exec .fin s = .next t ∧ t.ctx s.cur = {} ∧ t.mem = s.mem ∧ OthersKept s t ∧
        (t.core s.me).mail = (s.core s.me).mail.filter fun m => m.id != f.msg) ∧
    (s.th.flake = none → s.unacked true = true → Waits s .fin .finStores) ∧
    (s.th.flake = none → s.unacked true = false →
      (s.th.nest = false → s.th.join = 0 → ∃ t, exec .fin s = .next t ∧ t.ctx s.cur = {} ∧ t.mem = s.mem) ∧
      (s.th.nest = false → s.th.join ≠ 0 → ∃ t, exec .fin s = .next t ∧ t.th = s.th.sleepOn .finish ∧
        OthersKept s t ∧ t.mem = s.mem ∧ ⟨s.th.join, false, s.th.part, s.th.tid, true, none⟩ ∈ t.decrements) ∧
      (s.th.nest = true → ∃ t, exec .fin s = .next t ∧ t.ctx s.cur = {} ∧
        t.mem = (s.faultRecord s.th.part s.th.tid s.cur s.th.cause s.th.taddr s.th.pc).mem ∧
        (s.th.join ≠ 0 → ⟨s.th.join, true, s.th.part, s.th.tid, false, none⟩ ∈ t.decrements)))

/-! ## Atomic operations (R63, R100-R102, R126, R297, R314, R315, R326) -/

/-- The values that the integer operations of ATOM leave, at 8 bytes (R297). ATOM and CAS on a location that the
executing core's port or a memory controller owns, by address and through a capability of this chip: D takes the old
value, the location its new one, and CAS's D + 1 whether the compare failed; a failed compare writes nothing. No other
byte, register or thread changes. A port that has performed an operation in this V cycle makes them wait (R101), and an
uncorrectable error traps MCHK. The checks of ATOM and CAS (R60, R124, R315): alignment, place, scope and capability;
and what a location of another core or chip does: an atomic flake leaves for its owner, or a request for the peer, and
the context waits for the reply with nothing else of it changed (R63, R126). -/
def Obligations.AtomicOperations : Prop :=
  ((∀ x y : Word, let v (o : Nat) := BitVec.ofNat 64 (atomValue o 8 x.toNat y.toNat)
     v 0 = x + y ∧ v 1 = y ∧ v 2 = x &&& y ∧ v 3 = x ||| y ∧ v 4 = x ^^^ y ∧
     v 5 = (if y.toInt < x.toInt then y else x) ∧ v 6 = (if x.toInt < y.toInt then y else x) ∧
     v 7 = (if y.toNat < x.toNat then y else x) ∧ v 8 = (if x.toNat < y.toNat then y else x)) ∧
   (∀ (s : State) (d a b : BitVec 5) (o : BitVec 4) (sz : BitVec 2) (c : BitVec 3) (p : Place) (addr : Word),
     let n := 2 ^ sz.toNat
     let key := s.keyOf s.th.part p
     let old := Memory.readLE s.mem key n
     let x := (s.th.S b.toNat).toNat % 256 ^ n
     let exp := (s.th.S d.toNat).toNat % 256 ^ n
     let port := match p with | .spad _ _ _ => true | _ => false
     let v := if port then s.usePort s.me else s
     let idle := port = true → (s.core s.me).portBusy = false
     let byCap := (s.th.cap a.toNat).addr 0 = addr ∧ s.capOk (s.th.cap a.toNat) 0 n [107] = true ∧
       s.localPeer (s.th.cap a.toNat) = true ∧ inScope s.me p 7 = true ∧ s.th.flake = none
     let byAddr := s.th.S a.toNat = addr ∧ inScope s.me p c.toNat = true
     addr.toNat % n = 0 → s.resolve (s.th.issuer s.me) addr .atomic = .ok p → (∀ k off al, p = .spad k off al → k = s.me) →
     s.storePending (decide (addr.toNat < 0x20000)) key n = false →
     (∀ i : Instr, encodingOk i = true →
       (i = .atom d a b o sz c ∧ byAddr ∧ (s.th.flake = none ∨ c = 0) ∧ TokenFree s [a.toNat, b.toNat, d.toNat]) ∨
         (i = .atomCap d a b o sz ∧ byCap ∧ TokenFree s [b.toNat, d.toNat]) →
       (carries p (.rmw o.toNat n x) = false → Traps s i Cause.atomUncarried addr) ∧
       (carries p (.rmw o.toNat n x) = true →
         (port = true → (s.core s.me).portBusy = true → Waits s i (.port s.me)) ∧
         (idle →
           (s.badGranule? key n = none →
             ∃ t u, exec i s = .next t ∧ OnlyLands v u ∧ ScalarOutcome u t [(d.toNat, BitVec.ofNat 64 old)] (following s) ∧
               Memory.readLE t.mem key n = atomValue o.toNat n old x % 256 ^ n ∧ SameOutside s t key n) ∧
           ∀ g, s.badGranule? key n = some g → exec i s = .next (v.trap Cause.mchk (scalarMchk addr key g))))) ∧
     (∀ i : Instr, encodingOk i = true →
       (i = .cas d a b sz c ∧ byAddr ∧ (s.th.flake = none ∨ addr.toNat < 0x20000) ∧
           TokenFree s [a.toNat, b.toNat, d.toNat, d.toNat + 1]) ∨
         (i = .casCap d a b sz ∧ byCap ∧ TokenFree s [b.toNat, d.toNat, d.toNat + 1]) →
       (carries p (.cas n exp x) = false → Traps s i Cause.atomUncarried addr) ∧
       (carries p (.cas n exp x) = true →
         (port = true → (s.core s.me).portBusy = true → Waits s i (.port s.me)) ∧
         (idle →
           (s.badGranule? key n = none →
             (old = exp → ∃ t u, exec i s = .next t ∧ OnlyLands v u ∧
               ScalarOutcome u t [(d.toNat, BitVec.ofNat 64 old), (d.toNat + 1, 0)] (following s) ∧
               Memory.readLE t.mem key n = x ∧ SameOutside s t key n) ∧
             (old ≠ exp → ∃ t, exec i s = .next t ∧
               ScalarOutcome v t [(d.toNat, BitVec.ofNat 64 old), (d.toNat + 1, 1)] (following s))) ∧
           ∀ g, s.badGranule? key n = some g → exec i s = .next (v.trap Cause.mchk (scalarMchk addr key g))))))) ∧
  (∀ (s : State) (d a b : BitVec 5) (o : BitVec 4) (sz : BitVec 2) (c : BitVec 3),
     let n := 2 ^ sz.toNat
     let addr := s.th.S a.toNat
     let cap := s.th.cap a.toNat
     let al := decide (addr.toNat < 0x20000)
     let exp := BitVec.ofNat 64 ((s.th.S d.toNat).toNat % 256 ^ n)
     (s.th.flake = none → ∀ p ∈ [
           (Instr.atom d a b o sz c, ReplyFor.atom d.toNat, [s.th.S b.toNat], [a.toNat, b.toNat, d.toNat]),
           (.cas d a b sz c, .cas d.toNat exp, [s.th.S b.toNat, s.th.S d.toNat],
             [a.toNat, b.toNat, d.toNat, d.toNat + 1])],
         encodingOk p.1 = true → TokenFree s p.2.2.2 →
         (addr.toNat % n ≠ 0 → Traps s p.1 Cause.misalign addr) ∧
         (addr.toNat % n = 0 → (∀ q, s.resolve (s.th.issuer s.me) addr .atomic ≠ .ok q) →
           Traps s p.1 Cause.storeFault addr) ∧
         (∀ q, addr.toNat % n = 0 → s.resolve (s.th.issuer s.me) addr .atomic = .ok q → inScope s.me q c.toNat = false →
           Traps s p.1 Cause.storeFault addr) ∧
         (∀ k off g, addr.toNat % n = 0 → s.resolve (s.th.issuer s.me) addr .atomic = .ok (.spad k off g) → k ≠ s.me →
           inScope s.me (.spad k off g) c.toNat = true → s.storePending al (spadKey k off) n = false →
           (s.egressBlocked s.me 2 = true → Waits s p.1 (.egress 2)) ∧
           (s.egressBlocked s.me 2 = false →
             ∃ t m, exec p.1 s = .next t ∧ t.mesh = s.mesh ++ [m] ∧ hKind m.header = 4 ∧
               m.payload.head? = some addr ∧ m.payload.drop 2 = p.2.2.1 ∧ m.sender = s.meshOf s.cur ∧
               t.mem = s.mem ∧ t.th = s.th.sleepOn (.reply p.2.1 addr none) ∧ OthersKept s t))) ∧
     (s.th.flake ≠ none → c ≠ 0 → Traps s (.atom d a b o sz c) Cause.illegal 0) ∧
     (s.th.flake ≠ none → encodingOk (.cas d a b sz c) = true → TokenFree s [a.toNat, b.toNat, d.toNat, d.toNat + 1] → addr.toNat % n = 0 →
       0x20000 ≤ addr.toNat → Traps s (.cas d a b sz c) Cause.storeFault addr) ∧
     (s.th.flake ≠ none → Traps s (.atomCap d a b o sz) Cause.illegal 0 ∧
       (encodingOk (.casCap d a b sz) = true → Traps s (.casCap d a b sz) Cause.storeFault (cap.addr 0))) ∧
     (s.th.flake = none →
         ∀ p ∈ [(Instr.atomCap d a b o sz, ReplyFor.atom d.toNat, o.toNat, (0 : Word), [b.toNat, d.toNat]),
             (.casCap d a b sz, .cas d.toNat exp, 16, s.th.S d.toNat, [b.toNat, d.toNat, d.toNat + 1])],
           encodingOk p.1 = true → TokenFree s p.2.2.2.2 →
           (s.capOk cap 0 n [107] = false → Traps s p.1 Cause.capFault (cap.addr 0)) ∧
           (s.capOk cap 0 n [107] = true → s.localPeer cap = false →
             ((cap.addr 0).toNat % n ≠ 0 → Traps s p.1 Cause.misalign (cap.addr 0)) ∧
             ((cap.addr 0).toNat % n = 0 → cap.kind = 1 → Traps s p.1 Cause.storeFault (cap.addr 0)) ∧
             ((cap.addr 0).toNat % n = 0 → cap.kind ≠ 1 →
               exec p.1 s = .next (({ s with outbox := s.outbox ++ [Fabric.atomic cap.peer s.cur p.2.2.1 n (cap.addr 0)
                 (s.th.S b.toNat) p.2.2.2.1] } : State).sleep (.reply p.2.1 (cap.addr 0) (some cap.peer)))))))

/-! ## Barriers, rings and join counters at the executing core's port (R30, R242, R243, R316-R320, R360, R391, R392) -/

/-- BARINIT (R318): every field of the barrier, the wakes of the contexts asleep on the old phase, and the trap for an
expected count of zero; only the barrier's 24 bytes change. BARARR, BARJOIN, BARDROP and BARWAIT: the arrival that does
not complete a phase, the one that does, one too many, a joining and a dropping, and the wait; each answers the old
word 0. An error traps COPY_COUNT (R319, R320). -/
def Obligations.Barriers : Prop :=
  (∀ (s : State) (a b : BitVec 5) (off : Nat), TokenFree s [a.toNat, b.toNat] →
    s.barrierAt (s.th.S a.toNat) = .ok (s.me, off) →
    let c := (s.th.S b.toNat).toNat
    let key := spadKey s.me off
    let phase := Memory.readLE s.mem key 8 / 2 ^ 48 % 65536
    (c % 65536 = 0 → Traps s (.barinit a b) Cause.illegal 0) ∧
    (c % 65536 ≠ 0 → s.storePending (decide ((s.th.S a.toNat).toNat < 0x20000)) key 24 = false →
      (s.core s.me).portBusy = false → s.badGranule? key 8 = none →
      ∃ t u, exec (.barinit a b) s = .next t ∧ OnlyLands (s.usePort s.me) u ∧ ScalarOutcome u t [] (following s) ∧
        Memory.readLE t.mem key 8 = (phase + 1) % 65536 * 2 ^ 48 + c % 65536 * 2 ^ 32 + c / 2 ^ 16 % 2 ∧
        Memory.readLE t.mem (key + 8) 8 = c / 2 ^ 32 ∧ Memory.readLE t.mem (key + 16) 8 = 0 ∧
        SameOutside s t key 24 ∧
        ∀ k ph, k / 4 = s.me → (s.thAt k).wait = .barrier off ph → ph.toNat = phase → (t.thAt k).wait = .barrierHit)) ∧
  (∀ (s : State) (d a b : BitVec 5) (off : Nat), TokenFree s [a.toNat, b.toNat, d.toNat] →
    s.barrierAt (s.th.S a.toNat) = .ok (s.me, off) →
    let key := spadKey s.me off
    let w := Memory.readLE s.mem key 8
    let word (phase expected arrived : Nat) : Nat :=
      phase * 2 ^ 48 + expected * 2 ^ 32 + arrived * 2 ^ 16 + w % 2 ^ 16
    let v := s.usePort s.me
    let leaves (i : Instr) (x : Nat) : Prop :=
      ∃ t u, exec i s = .next t ∧ OnlyLands v u ∧ ScalarOutcome u t [(d.toNat, BitVec.ofNat 64 w)] (following s) ∧
        Memory.readLE t.mem key 8 = x
    s.storePending (decide ((s.th.S a.toNat).toNat < 0x20000)) key 24 = false → s.badGranule? key 24 = none →
    (s.unacked true = false → (s.core s.me).portBusy = true →
      ∀ i ∈ [Instr.bararr d a, .barjoin d a, .bardrop d a], Waits s i (.port s.me)) ∧
    ((s.core s.me).portBusy = false →
    (barError w = 0 →
      (s.unacked true = true → Waits s (.bararr d a) (.stores true)) ∧
      (s.unacked true = false → s.barrierLate s.me off = false → barStage w = 0 →
        (barArrived w + 1 < barExpected w →
          leaves (.bararr d a) (word (barPhase w) (barExpected w) (barArrived w + 1))) ∧
        (barArrived w + 1 = barExpected w →
          leaves (.bararr d a) (word ((barPhase w + 1) % 65536) (barExpected w) 0)) ∧
        (barExpected w < barArrived w + 1 → ∃ t : State, exec (.bararr d a) s = .next (t.trap Cause.copyCount (s.th.S a.toNat)) ∧
          barError (Memory.readLE t.mem key 8) = 3)) ∧
      (barPhase w ≠ (s.th.S b.toNat).toNat % 65536 → ∃ t, exec (.barwait d a b) s = .next t ∧
        ScalarOutcome s.acquire t [(d.toNat, BitVec.ofNat 64 w)] (following s)) ∧
      (barPhase w = (s.th.S b.toNat).toNat % 65536 →
        Waits s (.barwait d a b) (.barrier off (BitVec.ofNat 16 (s.th.S b.toNat).toNat)))) ∧
    (barError w ≠ 0 → Traps s (.barwait d a b) Cause.copyCount (s.th.S a.toNat) ∧
      (s.unacked true = false → exec (.bararr d a) s = .next (v.trap Cause.copyCount (s.th.S a.toNat)))) ∧
    (barExpected w = 65535 → exec (.barjoin d a) s = .next (v.trap Cause.illegal 0)) ∧
    (barExpected w ≠ 65535 → leaves (.barjoin d a) (word (barPhase w) (barExpected w + 1) (barArrived w))) ∧
    (barExpected w = 1 → exec (.bardrop d a) s = .next (v.trap Cause.illegal 0)) ∧
    (barArrived w + 1 < barExpected w →
      leaves (.bardrop d a) (word (barPhase w) (barExpected w - 1) (barArrived w)))))

/-- RINGENQ and RINGDEQ on a ring of the executing core whose entries lie outside its header: a word enters behind the
last, the oldest word leaves; a full, an empty and a malformed ring change no memory and answer 1 or 2 in D + 1, and
the count of failed attempts rises. What a failed RINGENQ writes to D is free. -/
def Obligations.Rings : Prop :=
  ∀ (s : State) (d a b : BitVec 5) (off : Nat) (al : Bool), encodingOk (.ringdeq d a) = true →
    TokenFree s [a.toNat, b.toNat, d.toNat, d.toNat + 1] →
    let addr := s.th.S a.toNat
    let key := spadKey s.me off
    let header := ringHeader (Memory.readLE s.mem key 8) (Memory.readLE s.mem (key + 8) 8)
    addr.toNat < 0x20000 ∨ addr.toNat / 2 ^ 52 = 1 → addr.toNat % 16 = 0 →
    s.resolve (s.th.issuer s.me) addr .atomic = .ok (.spad s.me off al) →
    s.storePending (decide (addr.toNat < 0x20000)) key 16 = false → (s.core s.me).portBusy = false →
    s.ringError s.me off false = none →
    let v := s.usePort s.me
    let failing : State := v.setTh { s.th with ringFails := s.th.ringFails + 1 }
    let success (u : State) : State := u.setTh { u.th with ringFails := 0, ringNote := none }
    (∀ enq deq size base, header = some (enq, deq, size, base) → base + 8 * 2 ^ size ≤ off ∨ off + 16 ≤ base →
      let held := (enq + 2 ^ 32 - deq) % 2 ^ 32
      (held < 2 ^ size →
        ∃ t u, exec (.ringenq d a b) s = .next t ∧ OnlyLands v u ∧
          ScalarOutcome (success u) t [(d.toNat, BitVec.ofNat 64 enq), (d.toNat + 1, 0)] (following s) ∧
          Memory.readLE t.mem (spadKey s.me (base + 8 * (enq % 2 ^ size))) 8 = (s.th.S b.toNat).toNat ∧
          Memory.readLE t.mem key 8 = (enq + 1) % 2 ^ 32 * 2 ^ 32 + deq) ∧
      (held ≠ 0 →
        ∃ t u, exec (.ringdeq d a) s = .next t ∧ OnlyLands v u ∧
          ScalarOutcome (success u) t
            [(d.toNat, BitVec.ofNat 64 (Memory.readLE s.mem (spadKey s.me (base + 8 * (deq % 2 ^ size))) 8)),
              (d.toNat + 1, 0)] (following s) ∧
          Memory.readLE t.mem key 8 = enq * 2 ^ 32 + (deq + 1) % 2 ^ 32 ∧ SameOutside s t key 8) ∧
      (held = 2 ^ size → s.th.ringFails + 1 < 65536 →
        ∃ t x, exec (.ringenq d a b) s = .next t ∧
          ScalarOutcome { failing with free := s.free + 1 } t [(d.toNat, x), (d.toNat + 1, 1)] (following s)) ∧
      (held = 0 → s.th.ringFails + 1 < 65536 →
        ∃ t, exec (.ringdeq d a) s = .next t ∧
          ScalarOutcome failing t [(d.toNat, 0), (d.toNat + 1, 1)] (following s))) ∧
    (header = none → s.th.ringFails + 1 < 65536 →
      ∃ t, exec (.ringdeq d a) s = .next t ∧ ScalarOutcome failing t [(d.toNat, 0), (d.toNat + 1, 2)] (following s))

/-- JCWAIT sleeps while the counter's low 48 bits are not zero, and then gives D the failures, as an acquire; with
TSTAT.jn set a failure raises JOIN_FAIL at the boundary after it (R243). The atomic operation that makes the count zero
answers a sleeping JCWAIT, whatever is counted after it (R360). JOIN_COUNTER_DECREMENT lowers the count of a counter of a
scratchpad, counts a failure, and ends the thread whose FIN sent it, or sends a refused spawn message's completion (R402).
It takes the V cycle's turn of the counter's port (R101). On an uncorrectable error FIN traps MCHK (R245), and another
thread's end leaves the counter as it is (the model's choice, log 102). -/
def Obligations.JoinCounters : Prop :=
  (let answers (s : State) (i : Instr) (d : BitVec 5) (addr : Word) (w : Nat) : Prop :=
      (w / 2 ^ 48 = 0 ∨ s.th.jn = false →
        ∃ t, exec i s = .next t ∧ (t.core s.me).rrc = [] ∧
          ScalarOutcome s.acquire t [(d.toNat, BitVec.ofNat 64 (w / 2 ^ 48))] (following s)) ∧
      (w / 2 ^ 48 ≠ 0 → s.th.jn = true → s.th.nest = false → s.tvec.get 0 s.th.asid.toNat ≠ 0 →
        ∃ t, exec i s = .next t ∧ t.th.cause = 0x15 ∧ t.th.notice = true ∧ t.th.taddr = addr ∧
          t.th.epc = following s ∧ t.th.pc = s.tvec.get 0 s.th.asid.toNat ∧
          (d ≠ 0 → t.th.S d.toNat = BitVec.ofNat 64 (w / 2 ^ 48)));
    (∀ (s : State) (d a : BitVec 5) (p : Place), TokenFree s [a.toNat, d.toNat] → (∀ w, s.th.wait ≠ .joinHit w) →
      let addr := s.th.S a.toNat
      let key := s.keyOf s.th.part p
      let w := Memory.readLE s.mem key 8
      addr.toNat / 2 ^ 52 = 1 →
      (addr.toNat % 8 ≠ 0 → Traps s (.jcwait d a) Cause.misalign addr) ∧
      (addr.toNat % 8 = 0 → s.dataPlace addr 8 .read = some p → s.storePending false key 8 = false →
        s.badGranule? key 8 = none →
        (w % 2 ^ 48 ≠ 0 → Waits s (.jcwait d a) (.join key)) ∧
        (w % 2 ^ 48 = 0 → answers s (.jcwait d a) d addr w))) ∧
    (∀ (s : State) (d a : BitVec 5) (w : Nat), s.th.wait = .joinHit w → w < 2 ^ 64 →
      answers s (.jcwait d a) d (s.th.S a.toNat) w)) ∧
  (∀ (s : State) (k j key n x : Nat), (s.thAt k).wait = .join j → key < j + 8 → j < key + n →
    let w := Memory.readLE (Memory.writeLE s.mem key n x) j 8
    ((s.landAtomic key n x).thAt k).wait = if w % 2 ^ 48 = 0 then .joinHit w else .join j) ∧
  (∀ (s : State) (d : Decrement) (rest : List Decrement), s.decrements = d :: rest → isSpadKey d.addr.toNat = true →
    (∀ p ∈ s.stores, p.beforeEnd d.part d.tid = false) → s.portTaken (coreOfKey d.addr.toNat) = false →
    let j := d.addr.toNat
    let w := Memory.readLE s.mem j 8
    let r : State := { s with decrements := rest }
    let counted (t : State) : Prop := SameOutside s t j 8 ∧
      Memory.readLE t.mem j 8 % 2 ^ 48 = (w + 2 ^ 48 - 1) % 2 ^ 48 ∧
      Memory.readLE t.mem j 8 / 2 ^ 48 = if d.failed then min (w / 2 ^ 48 + 1) 0xFFFF else w / 2 ^ 48
    (s.badGranule? j 8 = none →
      (d.fin = false → d.refused = none → ∃ t, exec .joinCounterDecrement s = .next t ∧
        OnlyLands (r.usePort (coreOfKey j)) t ∧ counted t) ∧
      (∀ m core reason, d.fin = false → d.refused = some (m, core, reason) →
        ∃ u : State, exec .joinCounterDecrement s = .next (u.refusal m core reason) ∧
          OnlyLands (r.usePort (coreOfKey j)) u ∧ counted u) ∧
      (∀ k, d.fin = true → d.refused = none → s.ctxOfTid d.part d.tid = some k →
        ∃ t, exec .joinCounterDecrement s = .next t ∧ counted t ∧ t.ctx k = {})) ∧
    (∀ g, s.badGranule? j 8 = some g →
      (d.fin = false → d.refused = none → exec .joinCounterDecrement s = .next r) ∧
      (∀ k, d.fin = true → s.ctxOfTid d.part d.tid = some k →
        exec .joinCounterDecrement s = .next (r.trapAt k Cause.mchk (scalarMchk d.addr j g)))))

/-! ## Capabilities (R121-R125, R327-R330) -/

/-- CLD, CST, CBND, CPERM, CLDD and CSTD on this chip: what the capability register or the 16 bytes and their tag take,
field by field; a failed check traps CAP_FAULT; CSTD to a peer posts one store across the fabric. -/
def Obligations.Capabilities : Prop :=
  ∀ (s : State) (d a b c : BitVec 5) (i : BitVec 14),
    (d.toNat < 8 → TokenFree s [a.toNat] →
      let addr := s.th.S a.toNat + s.th.imm14 i
      let owned := addr.toNat < 0x20000 ∨ addr.toNat / 2 ^ 52 = 1
      (¬ owned → Traps s (.cld d a i) Cause.loadFault addr ∧ Traps s (.cst a d i) Cause.storeFault addr) ∧
      (owned → addr.toNat % 16 ≠ 0 →
        Traps s (.cld d a i) Cause.misalign addr ∧ Traps s (.cst a d i) Cause.misalign addr) ∧
      (∀ core off al, s.capPlace addr .read Cause.loadFault = .ok (.spad core off al) → clusterOf core = clusterOf s.me →
        s.storePending al (spadKey core off) 16 = false → s.badGranule? (spadKey core off) 16 = none →
        ∃ t x, exec (.cld d a i) s = .next t ∧ t = ((s.dropAt addr).setTh (s.th.setCap d.toNat x)).retire ∧
          x.bits = BitVec.ofNat 128 (Memory.readLE s.mem (spadKey core off) 16) ∧
          x.tag = (s.th.lev || s.tags.contains (spadKey core off))) ∧
      (addr.toNat < 0x20000 → addr.toNat % 16 = 0 → s.storePending true (spadKey s.me addr.toNat) 16 = false →
        s.th.flake = none →
        let key := spadKey s.me addr.toNat
        ∃ t u, exec (.cst a d i) s = .next t ∧ OnlyLands (s.usePort s.me) u ∧ ScalarOutcome u t [] (following s) ∧
          Memory.readLE t.mem key 16 = (s.th.cap d.toNat).bits.toNat ∧ SameOutside s t key 16 ∧
          (key ∈ t.tags ↔ (s.th.cap d.toNat).tag = true) ∧ ∀ g ∈ t.tags, g ∈ s.tags ∨ g = key)) ∧
    (d.toNat < 8 → a.toNat < 8 → b.toNat % 2 = 0 → TokenFree s [b.toNat, b.toNat + 1] →
      let x := s.th.cap a.toNat
      let off := (s.th.S b.toNat).toNat
      let len := (s.th.S (b.toNat + 1)).toNat
      (x.tag = false ∨ x.length < off + len → Traps s (.cbnd d a b) Cause.capFault 0) ∧
      (x.tag = true → off + len ≤ x.length →
        ∃ y, exec (.cbnd d a b) s = .next (s.setTh (s.th.setCap d.toNat y)).retire ∧ y.tag = true ∧
          y.base = (x.base + off) % 2 ^ 52 ∧ y.length = len ∧
          ∀ k, (k < 10 ∨ 102 ≤ k) → y.bits.getLsbD k = x.bits.getLsbD k) ∧
      (x.tag = false → Traps s (.cperm d a b) Cause.capFault 0) ∧
      (x.tag = true →
        ∃ y, exec (.cperm d a b) s = .next (s.setTh (s.th.setCap d.toNat y)).retire ∧ y.tag = true ∧
          ∀ k, y.bits.getLsbD k =
            if 104 ≤ k ∧ k < 110 then x.bits.getLsbD k && (s.th.S b.toNat).getLsbD (k - 104) else x.bits.getLsbD k)) ∧
    (a.toNat < 8 → TokenFree s [d.toNat] →
      let x := s.th.cap a.toNat
      let off := (s.th.imm14 i).toInt
      let addr := x.addr off
      s.localPeer x = true →
      (s.capOk x off 8 [109] = false → Traps s (.cldd d a i) Cause.capFault addr) ∧
      (s.capOk x off 8 [109] = true → addr.toNat % 8 ≠ 0 → Traps s (.cldd d a i) Cause.misalign addr) ∧
      (∀ o, s.capOk x off 8 [109] = true → addr.toNat % 8 = 0 → s.dataPlace addr 8 .read = some (.spad s.me o false) →
        s.pkg.fenced.getLsbD (dieOf s.me) = false → s.storePending false (spadKey s.me o) 8 = false →
        s.badGranule? (spadKey s.me o) 8 = none →
        Completes s (.cldd d a i) [(d.toNat, BitVec.ofNat 64 (Memory.readLE s.mem (spadKey s.me o) 8))] (following s))) ∧
    (a.toNat < 8 → TokenFree s [c.toNat] →
      let x := s.th.cap a.toNat
      let off := (s.th.imm14 i).toInt
      let addr := x.addr off
      let needs := if x.kind = 1 then [108, 104] else [108]
      (s.capOk x off 8 needs = false → Traps s (.cstd a c i) Cause.capFault addr) ∧
      (s.capOk x off 8 needs = true → addr.toNat % 8 ≠ 0 → Traps s (.cstd a c i) Cause.misalign addr) ∧
      (s.capOk x off 8 needs = true → addr.toNat % 8 = 0 →
        (∀ p, s.localPeer x = true → s.dataPlace addr 8 .write = some p → (∀ k o, p ≠ .spad k o true) →
          ∃ t q, exec (.cstd a c i) s = .next t ∧ t.mem = s.mem ∧ t.th = s.th.retire ∧ t.stores = s.stores ++ [q] ∧
            q.addr = addr ∧ q.key = s.keyOf s.th.part p ∧ q.peer = none ∧
            leNat q.bytes = (s.th.S c.toNat).toNat ∧ t.outbox = s.outbox) ∧
        (s.localPeer x = false →
          ∃ t q, exec (.cstd a c i) s = .next t ∧ t.mem = s.mem ∧ t.th = s.th.retire ∧ t.stores = s.stores ++ [q] ∧
            q.peer = some x.peer ∧ leNat q.bytes = (s.th.S c.toNat).toNat ∧
            t.outbox = s.outbox ++ [.store x.peer q.id addr q.bytes])))

/-! ## Messages, spawns and migration (R34-R37, R47-R53, R58, R347, R371, R372, R395-R402) -/

/-- SEND, SENDI, FWD and SPAWN: one message enters the mesh, with the header, payload and sideband that each forms;
SPAWN raises its join counter and draws the child's seed first; FWD ends its flake. Registers and other memory keep. -/
def Obligations.Sending : Prop :=
  ∀ (s : State) (d a b n : BitVec 5) (k : BitVec 4),
    let h := s.th.S a.toNat
    (n.toNat ≤ 28 → (n = 0 → b = 0) → b.toNat + n.toNat ≤ 32 → TokenFree s (a.toNat :: upFrom b.toNat n.toNat) →
      (hKind h ≠ 0 → Traps s (.send a b n) Cause.illegal 0) ∧
      (hKind h = 0 → s.unacked true = true → Waits s (.send a b n) (.stores true)) ∧
      (hKind h = 0 → s.unacked true = false →
        (s.egressBlocked s.me (hPrio h) = true → Waits s (.send a b n) (.egress (hPrio h))) ∧
        (s.egressBlocked s.me (hPrio h) = false →
          ∃ m, exec (.send a b n) s = .next ({ s with mesh := s.mesh ++ [m], nextId := s.nextId + 1 } : State).retire ∧
            hCount m.header = n.toNat ∧ (∀ j, j < 32 ∨ 40 ≤ j → m.header.getLsbD j = h.getLsbD j) ∧
            m.payload = (upFrom b.toNat n.toNat).map s.th.S ∧ m.sender = s.meshOf s.cur ∧ m.part = s.th.part ∧
            m.launch = s.th.launch ∧ m.lev = s.th.lev ∧ m.asid = s.th.asid ∧ m.at_ = s.me ∧ m.entered = false))) ∧
    (TokenFree s [a.toNat, b.toNat] → hKind h = 1 ∨ hKind h = 3 → 1 ≤ hEntry h → hEntry h ≤ 12 → hCount h ≤ 31 →
      1 + (hEntry h + 1) / 2 ≤ hCount h →
      s.th.latch = [] →
      let addr := (s.th.S b.toNat).toNat
      let w (j : Nat) : Nat := Memory.readLE s.mem (spadKey s.me addr + 8 * j) 8
      addr % 8 = 0 → addr + 8 * (hCount h - 1) ≤ 0x20000 → addr < 0x20000 →
      s.storePending true (spadKey s.me addr) (8 * (hCount h - 1)) = false →
      s.badGranule? (spadKey s.me addr) (8 * (hCount h - 1)) = none → s.unacked true = false →
      s.egressBlocked s.me (hPrio h) = false →
      ∃ m, exec (.sendi a b) s = .next ({ s with mesh := s.mesh ++ [m], nextId := s.nextId + 1 } : State).retire ∧
        m.header = h ∧ m.payload.length = hCount h ∧ m.sender = s.meshOf s.cur ∧
        m.payload.head? = some (BitVec.ofNat 64 ((s.meshOf s.cur).toNat * 2 ^ 32)) ∧
        ∀ j, j + 1 < hCount h → m.payload[j + 1]? = some (BitVec.ofNat 64
          (if hEntry h % 2 = 1 ∧ j + 1 = (hEntry h + 1) / 2 then w j % 2 ^ 32 else w j))) ∧
    (∀ f, s.th.flake = some f → k.toNat ≤ 11 → n.toNat ≤ 30 → (n = 0 → b = 0) → b.toNat + n.toNat ≤ 32 →
      hKind h = 1 ∨ hKind h = 3 → k.toNat < f.code.length →
      1 + (f.code.length - k.toNat + 1) / 2 + n.toNat ≤ 31 → s.stopAt s.me = false →
      s.egressBlocked s.me (hPrio h) = false →
      ∃ t m, exec (.fwd a b k n) s = .next t ∧ t.mesh = s.mesh ++ [m] ∧ t.ctx s.cur = {} ∧ t.mem = s.mem ∧
        OthersKept s t ∧ hKind m.header = 3 ∧ hPrio m.header = hPrio h ∧ hEntry m.header = f.code.length - k.toNat ∧
        hCount m.header = m.payload.length ∧
        m.payload.tail = packCode (f.code.drop k.toNat) ++ (upFrom b.toNat n.toNat).map s.th.S ∧
        (t.core s.me).mail = (s.core s.me).mail.filter fun x => x.id != f.msg) ∧
    (n.toNat ≤ 28 → (n = 0 → b = 0) → b.toNat + n.toNat ≤ 32 →
      TokenFree s (a.toNat :: d.toNat :: upFrom b.toNat n.toNat) → hKind h = 0 →
      let j := s.th.S d.toNat
      (d ≠ 0 → j.toNat / 2 ^ 52 ≠ 1 → Traps s (.spawn d a b n) Cause.storeFault j) ∧
      (d = 0 ∨ (j.toNat / 2 ^ 52 = 1 ∧ j.toNat % 8 = 0 ∧ s.dataPlace j 8 .atomic ≠ none) → s.unacked true = false →
        s.egressBlocked s.me s.th.level = false →
        (d ≠ 0 → (s.core (coreOfKey j.toNat)).portBusy = false ∧ s.badGranule? j.toNat 8 = none) →
        ∃ t m u, exec (.spawn d a b n) s = .next t ∧
          (d ≠ 0 → OnlyLands ((s.usePort (coreOfKey j.toNat)).dropAt j) u) ∧ (d = 0 → u = s) ∧
          t = ({ u with mesh := s.mesh ++ [m], nextId := s.nextId + 1 } : State).setTh
            { u.th.srDirty.retire with flurcnt := s.th.flurcnt + 1 } ∧
          (d ≠ 0 → Memory.readLE t.mem j.toNat 8 % 2 ^ 48 = (Memory.readLE s.mem j.toNat 8 % 2 ^ 48 + 1) % 2 ^ 48 ∧
            SameOutside s t j.toNat 8) ∧
          m.payload.head? = some (if d = 0 then 0 else j) ∧
          m.payload[1]? = some (flurry s.th.srseed s.th.flurcnt) ∧
          m.payload.drop 3 = (upFrom b.toNat n.toNat).map s.th.S ∧ hPrio m.header = s.th.level % 4 ∧
          hEntry m.header = hEntry h ∧ m.sender = s.meshOf s.cur ∧ m.part = s.th.part ∧ m.launch = s.th.launch) ∧
      (d ≠ 0 → j.toNat / 2 ^ 52 = 1 → j.toNat % 8 = 0 → s.dataPlace j 8 .atomic ≠ none → s.unacked true = false →
        s.egressBlocked s.me s.th.level = false →
        ((s.core (coreOfKey j.toNat)).portBusy = true → Waits s (.spawn d a b n) (.port (coreOfKey j.toNat))) ∧
        ((s.core (coreOfKey j.toNat)).portBusy = false → ∀ g, s.badGranule? j.toNat 8 = some g →
          Traps s (.spawn d a b n) Cause.mchk (scalarMchk j j.toNat g))))

/-- MIGRATE: at a location of the core (E = 1) or cluster (E = 0) it answers the context's MESHID; for another it leaves
as one kind-2 message that carries the thread, and the context becomes idle; a thread that holds lanes traps. A thread
with stores or jobs in flight waits for them, and for the stores whose bytes it has read in a line of the remote read
cache (R96). -/
def Obligations.Migration : Prop :=
  ∀ (s : State) (d a : BitVec 5) (e : BitVec 1) (core off : Nat), TokenFree s [a.toNat, d.toNat] →
    let addr := s.th.S a.toNat
    let here := if e = 1 then core = s.me else clusterOf core = clusterOf s.me
    s.th.level < 4 → addr.toNat / 2 ^ 52 = 1 → s.dataPlace addr 1 .read = some (.spad core off false) →
    (s.unacked true = true ∨ s.jobsOpen s.cur = true → Waits s (.migrate d a e) .settle) ∧
    (s.unsettled s.cur = true → Waits s (.migrate d a e) .settle) ∧
    (s.unsettled s.cur = false →
      (here → Completes s (.migrate d a e) [(d.toNat, (s.meshOf s.cur).setWidth 64)] (following s)) ∧
      (¬ here → s.th.grant ≠ 0 → Traps s (.migrate d a e) Cause.migrateBlocked addr) ∧
      (¬ here → s.th.grant = 0 → s.egressBlocked s.me s.th.level = false →
        ∃ m u, exec (.migrate d a e) s =
            .next ({ s.setCtx s.cur {} with mesh := s.mesh ++ [m], nextId := s.nextId + 1 } : State) ∧
          hKind m.header = 2 ∧ hExact m.header = (e == 1) ∧ m.thread = some u ∧ u.pc = s.th.pc ∧
          (∀ r, u.S r = s.th.S r) ∧ u.tok = s.th.tok ∧ u.tid = s.th.tid ∧ u.lev = s.th.lev ∧ u.v = [] ∧ u.slabs = 0))

/-- QRD, QWR and QLEN on a queue register of the core: the head leaves, a word enters behind the last, a sleeping
partner is served in the same step, and an empty or full queue makes the context wait. A word that is taken orders its
reader behind the stores that come before its writer's word (`handStores`, `takeEdge`; R93). -/
def Obligations.QueueRegisters : Prop :=
  ∀ (s : State) (d a : BitVec 5),
    let q (r : BitVec 5) : List Word := (s.core s.me).queue r.toNat
    let holds (u : State) (r : BitVec 5) (ws : List Word) : State :=
      u.setCore s.me { s.core s.me with queues := (s.core s.me).queues.insert r.toNat ws, qdead := 0 }
    (a.toNat < 8 → TokenFree s [d.toNat] →
      Completes s (.qlen d a) [(d.toNat, BitVec.ofNat 64 (q a).length)] (following s) ∧
      (q a = [] → Waits s (.qrd d a) (.queueRead a.toNat d.toNat s.vcycle)) ∧
      (∀ w rest, q a = w :: rest →
        (s.queueSleeper s.me a.toNat false = none → ∃ t, exec (.qrd d a) s = .next t ∧
          ScalarOutcome (holds (s.takeEdge s.cur) a rest) t [(d.toNat, w)] (following s)) ∧
        (∀ k x since, s.queueSleeper s.me a.toNat false = some k → k ≠ s.cur →
          (s.thAt k).wait = .queueWrite a.toNat x since → ∃ t, exec (.qrd d a) s = .next t ∧
            ScalarOutcome ((holds ((s.takeEdge s.cur).handStores k) a (rest ++ [x])).retireAt k (s.thAt k)) t
              [(d.toNat, w)] (following s)))) ∧
    (d.toNat < 8 → TokenFree s [a.toNat] →
      let x := s.th.S a.toNat
      let depth := if d.toNat < 4 then 8 else 32
      (s.queueSleeper s.me d.toNat true = none →
        (depth ≤ (q d).length → Waits s (.qwr d a) (.queueWrite d.toNat x s.vcycle)) ∧
        ((q d).length < depth → ∃ t, exec (.qwr d a) s = .next t ∧
          ScalarOutcome (holds (s.handStores s.cur) d (q d ++ [x])) t [] (following s))) ∧
      (∀ k r since, s.queueSleeper s.me d.toNat true = some k → k ≠ s.cur →
        (s.thAt k).wait = .queueRead d.toNat r since → ∃ t, exec (.qwr d a) s = .next t ∧
          ScalarOutcome (((holds (s.handStores s.cur) d (q d)).takeEdge k).retireAt k ((s.thAt k).setS r x)) t []
            (following s)))

/-! ## State registers and what threads read of time, counters and clocks (R142, R163, R175, R204, R207, R210, R232,
R238, R268, R276, R277, R331, R383, R403, R404, R410, R411) -/

/-- SRWR, SRSET and SRCLR of the registers that are read and written whole: the named fields take their value, every
other state register (but FLURCNT, which a write of SRSEED clears), every scalar register and all memory keep. A write
of FIT also posts the mirror store of a population slot. SRRD reads a register, and removes the SFRQ record it reads.
The state registers with fields of their own rules: TSTAT keeps its level, VL stops at the grant, RMODE ignores the
modes 5 to 7, GLREF takes its bank, of which SRSET sets and SRCLR clears bits (DESIGN CHOICE, log 11), and the W1C
fields of SFRQN, VSTAT and DISCARDED clear where a one is written. -/
def Obligations.StateRegisterAccess : Prop :=
  (∀ (s : State) (a d : BitVec 5) (n : BitVec 14), s.th.lev = true →
     let x := s.th.S a.toNat
     let ops (old : Word) : List (Instr × Word) :=
       [(.srwr a n, x), (.srset a n, old ||| x), (.srclr a n, old &&& ~~~x)]
     let all : List Nat := [0x000, 0x001, 0x002, 0x003, 0x010, 0x011, 0x012, 0x013, 0x014, 0x015, 0x016, 0x017, 0x020,
       0x021, 0x030, 0x031, 0x032, 0x033, 0x034, 0x035, 0x036, 0x037, 0x038, 0x039, 0x040, 0x041, 0x042, 0x050, 0x051,
       0x052, 0x060, 0x061, 0x070, 0x071]
     (TokenFree s [a.toNat] →
       ∀ p ∈ [(0x010, 0x3FF#64), (0x011, -1#64), (0x012, -1#64), (0x013, ~~~3#64), (0x020, 0xFFFFFFFF#64),
           (0x021, 0xFF#64), (0x030, 0xF#64), (0x031, 0xF#64), (0x032, 0xF#64), (0x033, 0x1FF#64), (0x034, 0x1FF#64),
           (0x035, 0x1FF#64), (0x037, -1#64), (0x038, 0xFF#64), (0x039, -1#64)],
         n.toNat = p.1 → (n.toNat = 0x020 → s.mirrorOf = none) →
         ∀ o ∈ ops (s.srValue n.toNat), ∃ t, exec o.1 s = .next t ∧ t.srValue n.toNat = o.2 &&& p.2 ∧
           (∀ m ∈ all, m ≠ n.toNat → n.toNat = 0x037 ∧ m = 0x039 ∨ t.srValue m = s.srValue m) ∧
           t.th.pc = following s ∧ (∀ r, t.th.S r = s.th.S r) ∧ t.mem = s.mem ∧ t.stores = s.stores ∧ OthersKept s t) ∧
     (TokenFree s [a.toNat] → n.toNat = 0x020 → ∀ addr asid k pa, s.mirrorOf = some (addr, asid) →
       s.resolve ⟨some s.me, s.th.part, asid, true, false⟩ addr .write = .ok (.bulk k pa) → k ≠ .control →
       ∃ t q, exec (.srwr a n) s = .next t ∧ t.stores = s.stores ++ [q] ∧ q.addr = addr ∧ q.asid = asid ∧
         q.key = s.physKey s.th.part pa ∧ q.bytes = leBytes 4 (x.toNat % 2 ^ 32) ∧
         (t.core s.me).fit = x.setWidth 32 ∧ t.mem = s.mem) ∧
     (TokenFree s [d.toNat] →
       (n.toNat ∈ all → n.toNat ≠ 0x015 → Completes s (.srrd d n) [(d.toNat, s.srValue n.toNat)] (following s)) ∧
       (n.toNat = 0x015 → ∃ t, exec (.srrd d n) s = .next t ∧ t.th.sfrq = s.th.sfrq.tail ∧
         (d ≠ 0 → t.th.S d.toNat = match s.th.sfrq with | [] => 0 | r :: _ => r.1) ∧ t.th.pc = following s ∧
         t.mem = s.mem))) ∧
  (∀ (s : State) (a : BitVec 5), TokenFree s [a.toNat] → s.th.lev = true → s.th.sfrq.length ≤ 8 →
     let x := s.th.S a.toNat
     let leaves (i : Instr) (P : Thread → Prop) : Prop :=
       ∃ t, exec i s = .next t ∧ P t.th ∧ t.th.pc = following s ∧ (∀ r, t.th.S r = s.th.S r) ∧ t.mem = s.mem
     let writes (n : BitVec 14) (P : Thread → Prop) : Prop := leaves (.srwr a n) P
     writes 0x014 (fun t => t.rn = x.getLsbD 7 ∧ t.jn = x.getLsbD 6 ∧ t.nest = x.getLsbD 2 ∧ t.plev = x.getLsbD 1 ∧
       t.lev = s.th.lev) ∧
     writes 0x041 (fun t => t.vl = min (x.toNat % 512) s.th.grant) ∧
     writes 0x036 (fun t => t.ftz = x.getLsbD 3 ∧
       t.rmode = if x.toNat % 8 < 5 then BitVec.ofNat 3 (x.toNat % 8) else s.th.rmode) ∧
     writes 0x070 (fun t => t.glref = BitVec.ofNat 5 x.toNat) ∧
     leaves (.srset a 0x070) (fun t => t.glref = s.th.glref ||| BitVec.ofNat 5 x.toNat) ∧
     leaves (.srclr a 0x070) (fun t => t.glref = s.th.glref &&& ~~~BitVec.ofNat 5 x.toNat) ∧
     writes 0x016 (fun t => t.dropped = s.th.dropped &&& ~~~BitVec.ofNat 8 (x.toNat / 256) ∧ t.sfrq = s.th.sfrq) ∧
     writes 0x042 (fun t => t.regrant = (s.th.regrant && !x.getLsbD 1) ∧ t.clip = (s.th.clip && !x.getLsbD 0)) ∧
     (∃ t, exec (.srwr a 0x071) s = .next t ∧
       (t.core s.me).discarded = (s.core s.me).discarded &&& ~~~BitVec.ofNat 8 x.toNat ∧ t.mem = s.mem) ∧
     (∃ t, exec (.srset a 0x016) s = .next t ∧ t.th.dropped = s.th.dropped) ∧
     (∃ t, exec (.srset a 0x042) s = .next t ∧ t.th.regrant = s.th.regrant ∧ t.th.clip = s.th.clip))

/-- TIMERD, PMRD, CLKREQ and CLKWAIT: device time with its fraction, the status word, a counter with its enabled time,
the launch's clock request with the evaluation it makes due, and the wait for a later clock generation. -/
def Obligations.TimeReads : Prop :=
  ∀ (s : State) (d a : BitVec 5) (n : BitVec 14),
    (d.toNat % 2 = 0 → d ≠ 0 → TokenFree s [d.toNat, d.toNat + 1] →
      Completes s (.timerdTime d) [(d.toNat, BitVec.ofNat 64 s.time.ns),
        (d.toNat + 1, BitVec.ofNat 64 (s.time.frac % 65536))] (following s) ∧
      (n.toNat < 32 →
        let r := ((s.part s.th.part).pm.get {} (n.toNat / 4)).read (n.toNat % 4)
        Completes s (.pmrd d n) [(d.toNat, r.1), (d.toNat + 1, r.2)] (following s)) ∧
      (n.toNat = 32 → Completes s (.pmrd d n)
        [(d.toNat, BitVec.ofNat 64 (s.time.ns - (s.part s.th.part).pmSince)), (d.toNat + 1, 0)] (following s))) ∧
    (d ≠ 0 → TokenFree s [d.toNat] →
      Completes s (.timerdStatus d) [(d.toNat, s.time.status)] (following s)) ∧
    (∀ l, TokenFree s [a.toNat] → s.launches.look? s.th.launch = some l → l.lid = s.th.launch →
      ∃ t l', exec (.clkreq a) s = .next t ∧ t.launches.look? l.lid = some l' ∧
        l'.clock.toNat = l.clock.toNat / 2 ^ 32 * 2 ^ 32 + (s.th.S a.toNat).toNat % 2 ^ 32 ∧
        l' = { l with clock := l'.clock } ∧ (t.part s.th.part).evalDue = true ∧ t.th = s.th.retire ∧ t.mem = s.mem ∧
        OthersKept s t) ∧
    (TokenFree s [a.toNat, d.toNat] →
      let g := (s.part s.th.part).clkgen
      ((s.th.S a.toNat).toNat < g.toNat → Completes s (.clkwait d a) [(d.toNat, g)] (following s)) ∧
      (g.toNat ≤ (s.th.S a.toNat).toNat → Waits s (.clkwait d a) (.clk (s.th.S a.toNat))))

/-! ## Generations and walks (R112-R118, R352, R412) -/

/-- TLBGEN waits for the thread's stores, raises the generation, notifies every cluster and waits; a GENERATION_NOTICE
gives one cluster the generation and empties its instruction caches of the address space; TLBGEN answers once no notice
of it is left. GENDRAIN completes once no access of an older generation is in flight. PAGE_WALK fills a core's TLB. -/
def Obligations.Generations : Prop :=
  (∀ (s : State) (d a : BitVec 5), s.th.lev = true → TokenFree s [a.toNat, d.toNat] →
    (∀ d' asid g, s.th.wait ≠ .tlbgen d' asid g) →
    let asid := (s.th.S a.toNat).toNat % 65536
    let g := s.gens.get 0 asid + 1
    (s.unacked true = true → Waits s (.tlbgen d a) (.stores true)) ∧
    (s.unacked true = false → ∃ t, exec (.tlbgen d a) s = .next t ∧ t.gens.get 0 asid = g ∧
      (∀ k, k ≠ asid → t.gens.get 0 k = s.gens.get 0 k) ∧ (∀ c, c < 96 → (c, asid, g) ∈ t.notices) ∧
      t.th = s.th.sleepOn (.tlbgen d.toNat asid g) ∧ t.mem = s.mem ∧ OthersKept s t)) ∧
  (∀ (s : State) (d a d' : BitVec 5) (asid : Nat) (g : BitVec 32), s.th.lev = true →
    s.th.wait = .tlbgen d'.toNat asid g → s.generationPending asid g = false →
    Completes s (.tlbgen d a) [(d'.toNat, g.setWidth 64)] (following s)) ∧
  (∀ s : State, s.th.lev = true → (∀ pk asid g, s.th.wait ≠ .gendrain pk asid g) →
    let g := s.genOf (clusterOf s.me) s.th.asid
    (s.olderAccess (some (clusterOf s.me)) s.th.asid g = false → Completes s .gendrainCl [] (following s)) ∧
    (s.olderAccess (some (clusterOf s.me)) s.th.asid g = true →
      Waits s .gendrainCl (.gendrain false s.th.asid.toNat g)) ∧
    (s.olderAccess none s.th.asid g = false → Completes s .gendrainPk [] (following s)) ∧
    (s.olderAccess none s.th.asid g = true → Waits s .gendrainPk (.gendrain true s.th.asid.toNat g))) ∧
  (∀ (s : State) (cluster asid : Nat) (g : BitVec 32) (rest : List (Nat × Nat × BitVec 32)),
    s.notices = (cluster, asid, g) :: rest →
    ∃ t, exec (.generationNotice cluster asid) s = .next t ∧ t.notices = rest ∧
      (t.cluster cluster).gens.get 0 asid = g ∧ (∀ c, c ≠ cluster → t.cluster c = s.cluster c) ∧
      (∀ k l, clusterOf k = cluster → l ∈ (t.core k).icache → l.asid.toNat ≠ asid) ∧
      (∀ k, clusterOf k ≠ cluster → t.core k = s.core k) ∧ t.mem = s.mem ∧ t.ctxs = s.ctxs) ∧
  (∀ (s : State) (core part asid : Nat) (fetch : Bool) (va : Word) (l : Leaf),
    let id := BitVec.ofNat 16 asid
    let g := s.genOf (clusterOf core) id
    s.walk part id (va.toNat % 2 ^ 52) = some l →
    ∃ t, exec (.pageWalk core fetch part asid va g.toNat) s = .next t ∧
      (if fetch then (t.core core).itlb else (t.core core).dtlb).head? = some
        { asid := id, part := part, gen := g, va := va.toNat % 2 ^ 52 / l.size * l.size, size := l.size,
          frame := l.frame, perm := l.perm } ∧
      (t.core core).itlb.length ≤ max 64 (s.core core).itlb.length ∧ t.mem = s.mem ∧ t.ctxs = s.ctxs)

/-! ## Launches by instruction (R260, R335, R336) -/

/-- CTXSAVE of another launch that runs stops it for an image set and waits; of the thread's own launch it answers 5,
and a refused request its reason. CTXLOAD submits the block at a bulk address: D takes the slot word of the answer; that
a resumed launch takes the clock word of the new block is the model's reading (DEDUCED, log 59). -/
def Obligations.ContextInstructions : Prop :=
  ∀ (s : State) (d a b : BitVec 5), s.th.lev = true → TokenFree s [a.toNat, b.toNat, d.toNat] →
    let lid := s.th.part * 2 ^ 32 + (s.th.S a.toNat).toNat % 2 ^ 32
    let image := s.imageAddr s.th.part s.th.asid (s.th.S b.toNat)
    (lid = s.th.launch → Completes s (.ctxsave d a b) [(d.toNat, 5)] (following s)) ∧
    (lid ≠ s.th.launch →
      (∀ r, s.stopRefused s.th.part lid image = some r →
        Completes s (.ctxsave d a b) [(d.toNat, BitVec.ofNat 64 r)] (following s)) ∧
      (∀ l pa, s.launches.look? lid = some l → l.lid = lid → l.isFloe = false → l.state = .running → l.resume = none →
        image = some pa → s.requestStopping s.th.part = false →
        ∃ t fl, exec (.ctxsave d a b) s = .next t ∧ t.th = s.th.sleepOn (.ctxsave d.toNat lid) ∧
          t.launches.look? lid = some
            { l with stopping := true, image := pa, imageName := (s.th.S b.toNat).toNat, flakes := fl } ∧
          ((∀ c ∈ s.ctxs, c.2.holds c.1 lid = true → c.2.th.wait ≠ .finStores) →
            fl = (s.sleep (.ctxsave d.toNat lid)).flakesAt lid ∧ t.mem = s.mem ∧ OthersKept s t))) ∧
    ((s.th.S a.toNat).toNat % 64 ≠ 0 → Traps s (.ctxload d a) Cause.misalign (s.th.S a.toNat)) ∧
    (∀ block, (s.th.S a.toNat).toNat % 64 = 0 → s.unacked true = false →
      s.readBlock (s.th.S a.toNat) 64 = .ok block →
      (∀ r, s.rejectReason s.th.part false true block = some r →
        Completes s (.ctxload d a) [(d.toNat, BitVec.ofNat 64 (r * 256 + 3))] (following s)) ∧
      (∀ pa l, s.rejectReason s.th.part false true block = none → Block.action block = 1 →
        s.resumeTarget s.th.part block = some (pa, l) →
        ∃ t l', exec (.ctxload d a) s = .next t ∧ t.launches.look? l.lid = some l' ∧ l'.state = .waiting ∧
          l'.resume = some pa ∧ l'.clock = Block.clock block ∧ t.mem = s.mem ∧ t.th.pc = following s ∧
          (d ≠ 0 → t.th.S d.toNat = BitVec.ofNat 64 (l.lid % 2 ^ 32 * 2 ^ 32 + 2))) ∧
      (Block.action block ≠ 1 → s.rejectReason s.th.part false true block ≠ none))

/-! ## Groups (R38-R40, R351, R355-R357) -/

/-- The group instructions send one operation to the partition's directory and wait; the directory applies them as they
arrive, but that a kill goes before a join to its group of the same N cycle, with what arrived between them (DESIGN
CHOICE, log 105), and the join waits for the cycle's end. A join and a leave change the members and answer 0, the last
arrival of a phase answers every arrival with the next phase number, and a kill marks every other member and tells its
caller how many. GBAR, VXALL and GISSUE: with every other position of the mask at its matching arrival the set
completes: GBAR's members go on; VXALL gives each member its columns of all members' registers; GISSUE accepts one gang
job whose pending token every member holds. A position that has not arrived leaves the context waiting, and GISSUE's
waits keep the word that it read. -/
def Obligations.GroupAndWiredBarriers : Prop :=
  ((∀ (s : State) (d a : BitVec 5), TokenFree s [a.toNat, d.toNat] → (∀ d' n l, s.th.wait ≠ .gkill d' n l) →
     let g := (s.th.S a.toNat).toNat
     let sends (i : Instr) (k : GroupOpKind) (w : Wait) : Prop :=
       ∃ t, exec i s = .next t ∧ (t.part s.th.part).ops = (s.part s.th.part).ops ++
           [⟨k, s.th.tid, s.cur, g, d.toNat, s.nCycle⟩] ∧
         t.th = s.th.sleepOn w ∧ t.mem = s.mem ∧ OthersKept s t
     (4095 < g → ∀ i ∈ [Instr.gjoin d a, .gleave d a, .gbarGroup d a, .gkill d a], Traps s i Cause.illegal 0) ∧
     (g ≤ 4095 → sends (.gjoin d a) .join .directory ∧ sends (.gleave d a) .leave .directory ∧
       sends (.gbarGroup d a) .arrive (.groupBar g d.toNat false false) ∧ sends (.gkill d a) .kill .directory)) ∧
   (∀ (s : State) (d a d' : BitVec 5) (n : Nat), s.th.wait = .gkill d'.toNat n [] →
     Completes s (.gkill d a) [(d'.toNat, BitVec.ofNat 64 n)] (following s)) ∧
   (∀ (now : Nat) (o k : GroupOp) (l r : List GroupOp),
     let rival (x : GroupOp) : Prop := x.kind = .kill ∧ x.g = o.g ∧ x.cycle = o.cycle
     (o.kind ≠ .join → directoryNext now (o :: l) = some (o, l)) ∧
     (o.kind = .join → (∀ x ∈ l, ¬ rival x) →
       directoryNext now (o :: l) = (if o.cycle = now then none else some (o, l)) ∧
       (rival k → directoryNext now (o :: k :: r) = some (k, o :: r))) ∧
     (o.kind = .join → (∃ x ∈ l, rival x) →
       directoryNext now (o :: l) = (directoryNext now l).map fun x => (x.1, o :: x.2))) ∧
   (∀ (s : State) (part : Nat), directoryNext s.nCycle (s.part part).ops = none →
     exec (.groupDirectoryApply part) s = .next s) ∧
   (∀ (s : State) (part : Nat) (o : GroupOp) (rest : List GroupOp) (k : Nat),
     directoryNext s.nCycle (s.part part).ops = some (o, rest) → 1 ≤ o.tid → (s.thAt k).isTid part o.tid = true →
     let x := (s.part part).groups.get {} o.g
     (o.kind = .join → o.tid ∉ x.members → (s.groupsOf part o.tid).length < 8 → (s.thAt k).wait = .directory →
       ∃ t, exec (.groupDirectoryApply part) s = .next t ∧ (t.part part).ops = rest ∧
         ((t.part part).groups.get {} o.g).members = x.members ++ [o.tid] ∧
         t.thAt k = ((s.thAt k).setS o.d 0).retire ∧ t.mem = s.mem) ∧
     (o.kind = .leave → o.tid ∈ x.members → x.opened = false → (s.thAt k).wait = .directory →
       ∃ t, exec (.groupDirectoryApply part) s = .next t ∧ (t.part part).ops = rest ∧
         ((t.part part).groups.get {} o.g).members = x.members.erase o.tid ∧
         t.thAt k = ((s.thAt k).setS o.d 0).retire ∧ t.mem = s.mem) ∧
     (o.kind = .arrive → o.tid ∈ x.members → x.opened = true → x.count = x.arrived.length + 1 → x.held = [] →
       o.tid ∉ x.late →
       ∃ t, exec (.groupDirectoryApply part) s = .next t ∧ (t.part part).ops = rest ∧ t.mem = s.mem ∧
         ((t.part part).groups.get {} o.g).phase = x.phase + 1 ∧
         ((t.part part).groups.get {} o.g).opened = false ∧
         ∀ j u d ap held, u ∈ x.arrived ++ [o.tid] → 1 ≤ u → (s.thAt j).isTid part u = true →
           (s.thAt j).wait = .groupBar o.g d ap held →
           t.thAt j = ((s.thAt j).setS d ((x.phase + 1).setWidth 64)).retire) ∧
     (o.kind = .kill → (s.thAt o.ctx).killed = false → s.parkedThreads part (x.members.erase o.tid) = [] →
       o.tid ∉ x.members.erase o.tid →
       ∃ t, exec (.groupDirectoryApply part) s = .next t ∧ (t.part part).ops = rest ∧ t.mem = s.mem ∧
         (t.thAt k).wait = .gkill o.d (x.members.erase o.tid).length (x.members.erase o.tid) ∧
         (t.thAt k).killed = (s.thAt k).killed ∧
         ∀ j u, u ∈ x.members.erase o.tid → 1 ≤ u → (s.thAt j).isTid part u = true → (t.thAt j).killed = true))) ∧
  (∀ (s : State) (ctxs : List Nat) (v a : BitVec 4) (d b : BitVec 5),
     let m := s.th.cellmask
     let cell := cellOf s.me
     let alone (k : WKind) : State := s.sleep (.wired k m)
     (s.ctx s.cur).isRunning = true → s.cur % 4 ≠ 3 → s.th.imx = none → s.th.flake = none →
     m.getLsbD (posOf s.me) = true → s.arrivalOf s.me = none →
     (∀ k ∈ cellCtxs cell, (s.thAt k).arrival ≠ none → s.arrivalOf (coreOfCtx k) = some k ∧
       m.getLsbD (posOf (coreOfCtx k)) = true) →
     ((alone .gbar).wiredSet cell m = none → (∀ k ∈ cellCtxs cell, ∀ x, (s.thAt k).arrival = some x → x.2 = m) →
       Waits s .gbarWired (.wired .gbar m)) ∧
     ((alone .gbar).wiredSet cell m = some ctxs →
       (∀ k ∈ ctxs, k ≠ s.cur → (s.thAt k).wait = .wired .gbar m) →
       ∃ t, exec .gbarWired s = .next t ∧ t.th = s.th.retire ∧ (∀ k ∈ ctxs, t.thAt k = (s.thAt k).retire) ∧
         (∀ k, k ∉ ctxs → t.ctx k = s.ctx k) ∧ t.mem = s.mem) ∧
     (let kind : WKind := .vxall v.toNat a.toNat s.th.vl
       let ms := (alone kind).vxallMembers ctxs
       let n := s.th.vl / ms.length
       s.th.grant ≠ 0 → (alone kind).wiredSet cell m = some ctxs →
       (∀ k ∈ ctxs, k ≠ s.cur → ∃ vd va, (s.thAt k).wait = .wired (.vxall vd va s.th.vl) m) →
       s.th.vl ≤ 256 → s.th.vl % ms.length = 0 → countOnes (m.setWidth 64) 8 = ms.length →
       ∃ t, exec (.vxall v a) s = .next t ∧ t.mem = s.mem ∧ (∀ k, k ∉ ctxs → t.ctx k = s.ctx k) ∧
         ∀ j k vd va vl, ms[j]? = some (k, vd, va, vl) → (t.thAt k).pc = (s.thAt k).retire.pc ∧
           ∀ e < (s.thAt k).grant, (t.thAt k).lane vd e =
             match ms[e / n]? with
             | some (p, _, vp, _) => if n = 0 then 0 else (s.thAt p).lane vp (j * n + e % n)
             | none => 0) ∧
     (let addr := s.th.S b.toNat
       let w : CmdWord := BitVec.ofNat 256 (Memory.readLE s.mem (spadKey s.me addr.toNat) 32)
       let kind : WKind := .gissue w d.toNat
       TokenFree s [d.toNat, b.toNat] → addr.toNat < 0x20000 → addr.toNat % 32 = 0 →
       s.th.latch = [] → s.pkg.fenced.getLsbD (dieOf s.me) = false →
       s.storePending true (spadKey s.me addr.toNat) 32 = false →
       s.badGranule? (spadKey s.me addr.toNat) 32 = none → w.cls = 0 → w.mode ≠ 0 ∨ d ≠ 0 →
       (s.reservedHeld s.me = true → exec (.gissue d b) s = .next ((s.latched w.words).sleep .reserved)) ∧
       (s.reservedHeld s.me = false → s.unacked true = true →
         exec (.gissue d b) s = .next ((s.latched w.words).sleep (.stores true))) ∧
       (s.reservedHeld s.me = false → s.unacked true = false → (alone kind).wiredSet cell m = some ctxs →
       (∀ k ∈ ctxs, k ≠ s.cur → ∃ d', (s.thAt k).wait = .wired (.gissue w d') m) →
       ∃ t j, exec (.gissue d b) s = .next t ∧ t.jobs.look? s.nextId = some j ∧ j.gang = true ∧ j.word = w ∧
         j.mask = m ∧ j.state = .queued ∧ j.members.map (·.ctx) = ctxs ∧ t.mem = s.mem ∧
         t.th.token d.toNat = (if d = 0 then s.th.token 0 else .pending s.nextId) ∧
         (∀ k ∈ ctxs, (t.thAt k).pc = (s.thAt k).retire.pc ∧ (t.thAt k).flurcnt = (s.thAt k).flurcnt + 1) ∧
         (∀ k, k ∉ ctxs → t.ctx k = s.ctx k))))

/-! ## The wired barrier of a cell and the mirror swap (R43, R154, R165, R167, R350, R354, R414, R437) -/

/-- TSWAP: the regions of the two mirror cores change places when both have arrived with one offset and length; every
other byte keeps. On the diagonal it completes at once, before its mirror it waits, and the checks trap. -/
def Obligations.MirrorSwap : Prop :=
  ∀ (s : State) (a b : BitVec 5), TokenFree s [a.toNat, b.toNat] →
    let off := (s.th.S a.toNat).toNat
    let len := (s.th.S b.toNat).toNat
    let mirror := coreAt (dieOf s.me) (colOf s.me) (rowOf s.me)
    let mine := spadKey s.me off
    let other := spadKey mirror off
    let fits := off % 64 = 0 ∧ len % 64 = 0 ∧ 64 ≤ len ∧ len ≤ 65536 ∧ off + len ≤ 0x20000
    s.cur < 9216 →
    (¬ fits → Traps s (.tswap a b) Cause.illegal 0) ∧
    (fits → s.hasCore s.th.part mirror = false → Traps s (.tswap a b) Cause.storeFault (BitVec.ofNat 64 other)) ∧
    (fits → s.hasCore s.th.part mirror = true → mirror = s.me → Completes s (.tswap a b) [] (following s)) ∧
    (fits → s.hasCore s.th.part mirror = true → mirror ≠ s.me → s.storePending true mine len = false →
      s.tswapOf s.me = none →
      (s.tswapOf mirror = none → Waits s (.tswap a b) (.tswap off len)) ∧
      (∀ k, s.tswapOf mirror = some (k, off, len) → s.badGranule? mine len = none → s.badGranule? other len = none →
        ∃ t, exec (.tswap a b) s = .next t ∧
          Memory.readBytes t.mem mine len = Memory.readBytes s.mem other len ∧
          Memory.readBytes t.mem other len = Memory.readBytes s.mem mine len ∧
          (∀ j, (j < mine ∨ mine + len ≤ j) → (j < other ∨ other + len ≤ j) →
            Memory.read1 t.mem j = Memory.read1 s.mem j) ∧
          t.th = s.th.retire ∧ t.thAt k = (s.thAt k).retire) ∧
      (∀ k off' len', s.tswapOf mirror = some (k, off', len') → off' ≠ off ∨ len' ≠ len →
        exec (.tswap a b) s = .next ((s.trapAt k Cause.illegal 0).trap Cause.illegal 0)))

/-! ## Jobs (R80-R85, R138, R153-R156, R353, R361-R364) -/

/-- JOB and JOBM read a 32-byte command word of the executing core's scratchpad once, and keep it through their waits for
the thread's stores and for room. With room in the class's queue they accept it: one queued job with the thread's
registers and key, D a pending token, the draw counted. A full queue makes them wait, or answers 0xFE with .nb. JOBTEST
reads a token register's state; QUEUE_ENTRY_FREED ends the wait. -/
def Obligations.Kicks : Prop :=
  (∀ (s : State) (d a b : BitVec 5) (nb : BitVec 1), TokenFree s [d.toNat, a.toNat, b.toNat] →
    let addr := s.th.S a.toNat
    let x := (s.th.S b.toNat).toNat
    (s.th.latch = [] → addr.toNat < 0x20000 → addr.toNat % 32 ≠ 0 →
      Traps s (.job d a nb) Cause.misalign addr ∧ Traps s (.jobm d a b nb) Cause.misalign addr) ∧
    (∀ w0 : CmdWord,
      (s.th.latch ≠ [] ∧ w0 = CmdWord.ofWords s.th.latch) ∨
        (s.th.latch = [] ∧ addr.toNat < 0x20000 ∧ addr.toNat % 32 = 0 ∧ s.th.flake = none ∧
          s.pkg.fenced.getLsbD (dieOf s.me) = false ∧ s.storePending true (spadKey s.me addr.toNat) 32 = false ∧
          s.badGranule? (spadKey s.me addr.toNat) 32 = none ∧
          w0 = BitVec.ofNat 256 (Memory.readLE s.mem (spadKey s.me addr.toNat) 32)) →
      ∀ p ∈ [(Instr.job d a nb, w0.toNat),
          (.jobm d a b nb, w0.toNat / 2 ^ 200 * 2 ^ 200 + x * 2 ^ 136 + w0.toNat % 2 ^ 136)],
        let w : CmdWord := BitVec.ofNat 256 p.2
        (3 ≤ w.cls ∨ (w.mode = 0 ∧ d = 0) → Traps s p.1 Cause.illegal 0) ∧
        (w.cls ≤ 2 → w.mode ≠ 0 ∨ d ≠ 0 →
          (s.unacked true = true → exec p.1 s = .next ((s.latched w0.words).sleep (.stores true))) ∧
          (s.unacked true = false → s.jobQueueFull w.cls s.me s.th.part = true →
            (nb = 1 → Completes s p.1 [(d.toNat, 0xFE00000000000000)] (following s)) ∧
            (nb = 0 → exec p.1 s = .next ((s.latched w0.words).sleep (.jobQueue w.cls)))) ∧
          (s.unacked true = false → s.jobQueueFull w.cls s.me s.th.part = false →
            ∃ t j, exec p.1 s = .next t ∧ t.jobs = s.jobs.insert s.nextId j ∧ j.word = w ∧ j.gang = false ∧
              j.state = .queued ∧ j.core = s.me ∧ j.part = s.th.part ∧ j.launch = s.th.launch ∧ j.asid = s.th.asid ∧
              j.key = flurry s.th.srseed s.th.flurcnt ∧ j.fmtA = s.th.fmtA ∧ j.fmtB = s.th.fmtB ∧
              j.fmtC = s.th.fmtC ∧ j.sclB = s.th.sclB ∧ j.sclC = s.th.sclC ∧ j.rmode = s.th.rmode ∧
              j.members = [⟨s.cur, s.th.tid, d.toNat, s.th.sclA, s.th.done + 1⟩] ∧
              t.th.flurcnt = s.th.flurcnt + 1 ∧ (d ≠ 0 → t.th.token d.toNat = .pending s.nextId) ∧
              (∀ r, t.th.S r = s.th.S r) ∧ t.th.pc = following s ∧ t.mem = s.mem ∧ OthersKept s t)))) ∧
  (∀ (s : State) (d a : BitVec 5), d ≠ a → TokenFree s [d.toNat] →
    Completes s (.jobtest d a) [(d.toNat, match s.th.token a.toNat with
      | .pending _ => 0xFF00000000000000
      | _ => s.th.S a.toNat)] (following s)) ∧
  (∀ (s : State) (k cls : Nat), (s.thAt k).wait = .jobQueue cls →
    (s.jobQueueFull cls (coreOfCtx k) (s.thAt k).part = false →
      exec (.queueEntryFreed k) s = .next (s.setThAt k { s.thAt k with wait := .ready })) ∧
    (s.jobQueueFull cls (coreOfCtx k) (s.thAt k).part = true → exec (.queueEntryFreed k) s = .next s))

/-! ## Lanes and accumulator tiles (R151, R152, R160-R163, R309, R310, R422, R423) -/

/-- VCLAIM, VSYNC, VREL and VSETVL: the request rounded up to a slab, the grant that the renegotiation of R162 leaves,
VL, and what becomes zero; ACCRD and ACCWR move the active elements of a row group of a tile. -/
def Obligations.Lanes : Prop :=
  ∀ (s : State) (d a v q : BitVec 4) (n : BitVec 1) (m : BitVec 3),
    let after (request : Nat) : BitVec 8 := renegotiate (posOf s.me) request s.th.slabs (s.otherClaims s.cur)
    let shrunk (t : Thread) : Prop :=
      (∀ r e, t.grant ≤ e → t.lane r e = 0) ∧ (∀ r e, e < t.grant → e < s.th.grant → t.lane r e = s.th.lane r e) ∧
      (∀ k e, 1 ≤ k → t.grant ≤ e → (t.M k).getLsbD e = false) ∧
      (∀ k e, e < t.grant → (t.M k).getLsbD e = (s.th.M k).getLsbD e)
    (TokenFree s [a.toNat, d.toNat] →
      let x := (s.th.S a.toNat).toNat
      let request := if 256 < x then 256 else (x + 31) / 32 * 32
      ∃ t, exec (.vclaim d a) s = .next t ∧ t.th.request = request ∧ t.th.slabs = after request ∧
        t.th.vl = t.th.grant ∧ shrunk t.th ∧ t.th.regrant = (s.th.regrant || t.th.grant != s.th.grant) ∧
        (d ≠ 0 → t.th.S d.toNat = BitVec.ofNat 64 t.th.grant) ∧ (∀ r, r ≠ d.toNat → t.th.S r = s.th.S r) ∧
        t.th.pc = following s ∧ t.mem = s.mem ∧ OthersKept s t) ∧
    (TokenFree s [d.toNat] → s.th.request ≠ 0 →
      ∃ t, exec (.vsync d) s = .next t ∧ t.th.request = s.th.request ∧ t.th.slabs = after s.th.request ∧
        t.th.vl = min s.th.vl t.th.grant ∧ t.th.clip = (s.th.clip || decide (t.th.grant < s.th.vl)) ∧ shrunk t.th ∧
        t.th.regrant = (s.th.regrant || t.th.grant != s.th.grant) ∧
        (d ≠ 0 → t.th.S d.toNat = BitVec.ofNat 64 t.th.grant) ∧ t.th.pc = following s ∧ t.mem = s.mem) ∧
    (TokenFree s [d.toNat] → s.th.request = 0 →
      Completes s (.vsync d) [(d.toNat, BitVec.ofNat 64 s.th.grant)] (following s)) ∧
    (∃ t, exec .vrel s = .next t ∧ t.th.request = 0 ∧ t.th.slabs = 0 ∧ t.th.vl = 0 ∧ shrunk t.th ∧
      (∀ r, t.th.S r = s.th.S r) ∧ t.th.pc = following s ∧ t.mem = s.mem ∧ OthersKept s t) ∧
    (TokenFree s [a.toNat, d.toNat] →
      let k := min (s.th.S a.toNat).toNat s.th.grant
      ∃ t, exec (.vsetvl d a) s = .next t ∧ t.th.vl = k ∧
        (d ≠ 0 → t.th.S d.toNat = BitVec.ofNat 64 k) ∧ (∀ r, r ≠ d.toNat → t.th.S r = s.th.S r) ∧
        (∀ r e, t.th.lane r e = s.th.lane r e) ∧ t.th.pc = following s ∧ t.mem = s.mem) ∧
    (let g := (s.th.S q.toNat).toNat;
      (s.th.grant = 0 → Traps s (.accrd v n q m) Cause.noLanes 0 ∧ Traps s (.accwr n v q m) Cause.noLanes 0) ∧
      (TokenFree s [q.toNat] → s.th.grant ≠ 0 → 15 < g →
        Traps s (.accrd v n q m) Cause.illegal 0 ∧ Traps s (.accwr n v q m) Cause.illegal 0) ∧
      (TokenFree s [q.toNat] → s.th.grant ≠ 0 → g ≤ 15 → (∀ u, s.th.wait ≠ .slice u) → s.th.vl ≤ s.th.grant →
        (s.sliceBusy s.me s.nextId = true → Waits s (.accrd v n q m) (.slice s.nextId)) ∧
        (s.sliceBusy s.me s.nextId = false →
          (∃ t, exec (.accrd v n q m) s = .next t ∧ t.mem = s.mem ∧ t.th.pc = following s ∧
            (∀ r e, r < 16 → e < 256 → t.th.lane r e =
              if r = v.toNat ∧ s.th.active m e = true then (s.core s.me).accAt n.toNat (4 * g + e / 64) (e % 64)
              else s.th.lane r e) ∧ t.cores = s.cores) ∧
          (∃ t, exec (.accwr n v q m) s = .next t ∧ t.mem = s.mem ∧ t.th = s.th.retire ∧
            ∀ k row col, row < 64 → col < 64 → (t.core s.me).accAt k row col =
              if k = n.toNat ∧ row / 4 = g ∧ s.th.active m (row % 4 * 64 + col) = true
              then s.th.lane v.toNat (row % 4 * 64 + col) else (s.core s.me).accAt k row col))))

/-! ## Launches and images (R188-R197, R247-R254, R260) -/

/-- The launch controllers: the window's block words and arms, the check's status word and the waiting launch that an
accepted block becomes, the counters that are met, the end of the wait, one spawn message at a time, and the end. A
stop and its image set: PRELAUNCH's refusals and its request, the image set that PREEMPTION_COMPLETE takes (its header
words, the threads that leave their contexts with the registers saved of each, the swapped launch), the restore that
first has the weight buffer refilled and then takes everything out of the set and lets the launch run, and the discard
of a frozen or broken launch's images, which ends it once nothing of it lives. That the header's 64 bytes are all that
is written of a set is the model's choice (DESIGN CHOICE, log 16), and that a discard ends the launch and releases its
bindings is its reading (DEDUCED, log 18). -/
def Obligations.LaunchesAndImages : Prop :=
  ((∀ (s : State) (win offset : Nat) (v : Word), offset < 0x8000 → offset % 8 = 0 →
     let x := s.slot win (offset / 512)
     let y := s.slot win (v.toNat % 64)
     (x.state ≠ 1 → exec (.launchWindowWrite win offset v) s =
       .next (s.setSlot win (offset / 512) { x with block := x.block.insert (offset % 512 / 8) v })) ∧
     (x.state = 1 → exec (.launchWindowWrite win offset v) s =
       .next (s.setSlot win (offset / 512) { x with overrun := true })) ∧
     (∀ i ∈ [Instr.launchArm win v, .launchWindowWrite win 0x8200 v],
       (y.state ≠ 1 → exec i s =
         .next (s.setSlot win (v.toNat % 64) { y with state := 1, badArm := decide (v.toNat / 64 ≠ 0) })) ∧
       (y.state = 1 → exec i s = .next (s.setSlot win (v.toNat % 64) { y with overrun := true })))) ∧
   (∀ (s : State) (win slot : Nat),
     let x := s.slot win slot
     let p := win / 3
     x.state = 1 →
     (∀ r, s.rejectReason p x.badArm false x.block = some r →
       ∃ t, exec (.launchCheckDone win slot) s = .next t ∧
         t.slot win slot = { x with state := 3, reason := BitVec.ofNat 8 r, launch := 0 } ∧ t.launches = s.launches ∧
         t.mem = s.mem) ∧
     (s.rejectReason p x.badArm false x.block = none → Block.action x.block ≠ 1 →
       let id := (s.part p).nextLaunch
       ∃ t l, exec (.launchCheckDone win slot) s = .next t ∧
         t.slot win slot = { x with state := 2, reason := 0, launch := BitVec.ofNat 32 id } ∧
         t.launches.look? (p * 2 ^ 32 + id) = some l ∧ l.lid = p * 2 ^ 32 + id ∧ l.part = p ∧ l.state = .waiting ∧
         l.block = x.block ∧ l.sent = 0 ∧ (t.part p).nextLaunch = id + 1)) ∧
   (∀ (s : State) (k : Nat) (l : Launch), s.launches.look? k = some l → l.lid = k → LaunchesTabled s →
     (l.state = .waiting → ∃ t l', exec (.launchCounterPoll k) s = .next t ∧ t.launches.look? k = some l' ∧
       l' = { l with met := l'.met } ∧ t = { s with launches := t.launches } ∧
       ∀ j, j < 4 → l'.met.getLsbD j = (l.met.getLsbD j || s.counterMet l j)) ∧
     (s.waitOverFor l = true → l.isFloe = false →
       ∃ t l', exec (.launchLeaveWaiting k) s = .next t ∧ t.launches.look? k = some l' ∧
         (l.resume = none → l' = { l with state := .distributing }) ∧
         (l.resume ≠ none → l' = { l with state := .running, stopping := true }) ∧
         (t.part l.part).evalDue = true ∧ t.mem = s.mem ∧ t.ctxs = s.ctxs) ∧
     (∀ port, s.nextSpawner port = some l →
       ∃ t m, exec (.spawnDistribute port) s = .next t ∧ t.mesh = s.mesh ++ [m] ∧ t.mem = s.mem ∧ t.ctxs = s.ctxs ∧
         (∃ st, t.launches.look? k = some { l with sent := l.sent + 1, state := st } ∧
           st = if Block.count l.block ≤ l.sent + 1 then .running else .distributing) ∧
         m.launch = k ∧ m.sender = noSender ∧ m.payload.length = 12 ∧
         m.payload[1]? = some (flurry (Block.w l.block 13) (BitVec.ofNat 64 l.sent)) ∧
         m.payload[3]? = some (BitVec.ofNat 64 l.sent)) ∧
     (l.state = .running ∧ l.resume = none ∨ l.state = .swapped ∧ l.discarded = true → s.launchLives k = false →
       ∃ t l', exec (.launchEnd k) s = .next t ∧ t.launches.look? k = some l' ∧ l'.state = .ended ∧
         l'.stopping = false ∧ (∀ b ∈ t.bindings, b.launch ≠ some k)))) ∧
  ((∀ (s : State) (part : Nat) (v : Word),
     let lid := part * 2 ^ 32 + v.toNat / 2 ^ 32
     let image := s.physImage part (s.part part).preimage
     (∀ r, s.stopRefused part lid image = some r → exec (.prelaunch part v) s =
       .next (s.setPart part { s.part part with prestat := BitVec.ofNat 16 (r * 256 + 3) })) ∧
     (∀ l pa, s.launches.look? lid = some l → l.lid = lid → l.isFloe = false → l.state = .running → l.resume = none →
       image = some pa → s.requestStopping part = false →
       ∃ t fl, exec (.prelaunch part v) s = .next t ∧ (t.part part).prestat = 1 ∧
         (t.part part).preLaunch = some lid ∧ t.launches.look? lid = some
           { l with stopping := true, image := pa, imageName := (s.part part).preimage.toNat, flakes := fl } ∧
         ((∀ c ∈ s.ctxs, c.2.holds c.1 lid = true → c.2.th.wait ≠ .finStores) →
           fl = s.flakesAt lid ∧ t.mem = s.mem ∧ t.ctxs = s.ctxs))) ∧
   (∀ (s : State) (k : Nat) (l : Launch), s.launches.look? k = some l → l.lid = k →
     (s.requestSettled l = true →
       ∃ t l' i, exec (.preemptionComplete k) s = .next t ∧ t.launches.look? k = some l' ∧ l'.state = .swapped ∧
         l'.stopping = false ∧ l'.lastImage = some l.image ∧ t.images.look? l.image = some i ∧ i.launch = k ∧
         i.name = l.imageName ∧ i.threads.map (·.1) = (s.savedThreads k).map (·.1) ∧
         (∀ (n c : Nat) (u : Thread), (s.savedThreads k)[n]? = some (c, u) → i.saved[n]? = some (u.delta (l.nextDepth == 0))) ∧
         (∀ c, (s.ctx c).holds c k = true → t.ctx c = {}) ∧
         Memory.readLE t.mem l.image 8 = k % 2 ^ 32 * 2 ^ 32 ∧
         (l.depth ≤ 15 → Memory.readLE t.mem (l.image + 8) 8 = l.nextDepth * 2 ^ 28 + 1) ∧ SameOutside s t l.image 64) ∧
     (∀ key i, l.state = .running → l.stopping = true → l.resume = some key → s.images.look? key = some i →
       (l.refilling = false → ∃ t, exec (.resumeRestore k) s = .next t ∧
         t.launches.look? k = some { l with refilling := true } ∧ t.images = s.images ∧ t.ctxs = s.ctxs) ∧
       (l.refilling = true → s.jobs.any (fun j => j.2.refills k) = true → exec (.resumeRestore k) s = .next s) ∧
       (l.refilling = true → s.jobs.any (fun j => j.2.refills k) = false →
         ∃ t l', exec (.resumeRestore k) s = .next t ∧ t.launches.look? k = some l' ∧ l'.stopping = false ∧
           l'.resume = none ∧ l'.refilling = false ∧ l'.state = .running ∧
           t.images.look? key = some { i with threads := [], queued := [], captured := [], jobs := [] } ∧
           (t.part l.part).evalDue = true)) ∧
     (∀ f, s.floeOf k = some f → f.state = .frozen ∨ f.state = .broken → l.state = .swapped ∨ l.state = .waiting →
       LaunchesTabled s →
       ∃ t l', exec (.imageDiscard k) s = .next t ∧ t.launches.look? k = some l' ∧ (∀ p ∈ t.images, p.2.launch ≠ k) ∧
         ((l'.state = .ended ∧ ∀ b ∈ t.bindings, b.launch ≠ some k) ∨
           (l'.state = .swapped ∧ l'.discarded = true ∧ t.launchLives k = true)))))

/-! ## Clocks and power (R22, R199-R206) -/

/-- The grant of R203: no feasible tuple lies nearer to the request than the one granted. The arbiter's evaluation
gives the governing launch its grant, a transition's end applies it, and the power registers bound the shares. Slewing
takes at most 200 ppm of the time that passes; the exchange with the source: what a Sync, a Follow_Up and a Delay_Resp
leave in the servo, what a master port answers and sends, and what losing the source does. A step of time happens only
while the servo is not locked, beyond 1 ms, and with no floe that can break. What the servo estimates is free. -/
def Obligations.ClocksAndTime : Prop :=
  ((∀ (p : Part) (w : Word), (∃ t ∈ allTuples, p.feasible t = true) →
     p.grantFor w ∈ allTuples ∧ p.feasible (p.grantFor w) = true ∧
     ∀ t ∈ allTuples, p.feasible t = true → requestDistance w (p.grantFor w) ≤ requestDistance w t) ∧
   (∀ (s : State) (part : Nat), s.mayEvaluate part = true →
     ∃ t, exec (.arbiterEvaluation part) s = .next t ∧ (t.part part).evalDue = false ∧
       (t.part part).lastEval = some s.time.ns ∧ (t.part part).steps = (s.part part).steps ∧ t.mem = s.mem ∧
       (∀ l, s.governing part = some l → l.uniform = false →
         (s.part part).grantFor l.clock ≠ (s.part part).target → (s.part part).moving = none →
         s.cutting part = false → s.grantHolds part = false →
         (t.part part).moving = some { steps := (s.part part).grantFor l.clock } ∧ (t.part part).waiting = none) ∧
       (s.governing part = none ∨ s.grantHolds part = true ∨ (∃ l, s.governing part = some l ∧ l.uniform = true) →
         (t.part part).moving = (s.part part).moving ∧ (t.part part).waiting = (s.part part).waiting)) ∧
   (∀ (s : State) (part : Nat) (m : Move), (s.part part).moving = some m →
     ∃ t, exec (.transitionEnd part) s = .next t ∧ (t.part part).steps = m.steps ∧ (t.part part).uniform = m.uniform ∧
       (t.part part).power = BitVec.ofNat 16 ((s.part part).cost m.steps / 1024 + (s.part part).cS) ∧
       (t.part part).clkgen = (if m.event then (s.part part).clkgen + 1 else (s.part part).clkgen) ∧
       ((s.part part).waiting = none → (t.part part).moving = none) ∧ t.mem = s.mem ∧ t.ctxs = s.ctxs) ∧
   (∀ (s : State) (part : Nat) (v : Word),
     (∃ t, exec (.pwrshareWrite part v) s = .next t ∧ t.mem = s.mem ∧
       (t.part part).pwrshare = BitVec.ofNat 16 (max (v.toNat % 65536) (s.part part).leastShare) ∧
       ∀ k, k ≠ part → t.part k = s.part k) ∧
     (let cap := min 3000 (max 1000 (v.toNat % 65536));
       (cap = s.pkg.pwrcap.toNat → exec (.pwrcap v) s = .next s) ∧
       (cap ≠ s.pkg.pwrcap.toNat → ∃ t, exec (.pwrcap v) s = .next t ∧ t.pkg.pwrcap.toNat = cap ∧ t.mem = s.mem ∧
         ∀ k p, s.parts.look? k = some p → (t.part k).evalDue = true ∧ (t.part k).pwrshare =
           BitVec.ofNat 16 (max (p.pwrshare.toNat * cap / s.pkg.pwrcap.toNat) p.leastShare))) ∧
     (∀ cM cV cN cB cS, ∃ t, exec (.coefficientUpdate part cM cV cN cB cS) s = .next t ∧
       t = s.setPart part { s.part part with
         cM := cM % 65536, cV := cV % 65536, cN := cN % 65536, cB := cB % 65536, cS := cS % 65536, evalDue := true }))) ∧
  ((∀ (u : TimeUnit) (d : Nat), ((u.advance d).now : Int) - u.now ≤ d + d / 5000 ∧
     (d : Int) - d / 5000 ≤ ((u.advance d).now : Int) - u.now) ∧
   (∀ (s : State) (port q : Nat) (c : Int) (origin : Nat),
     let rx := s.time.now
     let exchanged (i : Instr) (o : Int) (r : Nat) : Prop :=
       let offset : Int := (r : Int) - o - s.time.delay
       let step := s.time.servo ≠ .locked ∧ (1000000 * 65536 < offset ∨ offset < -(1000000 * 65536)) ∧
         s.stepForbidden = false
       ∃ t, exec i s = .next t ∧ t = { s with time := t.time, free := s.free + 1, domains := t.domains } ∧
         (¬ step → t.domains = s.domains) ∧
         (step → ∀ k d, s.domains.look? k = some d →
           t.domains.look? k = some { d with lastTimer := t.time.ns / Desc.period d.desc }) ∧
         t.time.sync = none ∧ (t.time.servo = .acquiring ∨ t.time.servo = .locked) ∧
         (s.time.servo = .locked → t.time.servo = .locked) ∧ (t.time.servo = .locked → 8 ≤ t.time.u.toNat) ∧
         (¬ step → t.time.now = s.time.now ∧ t.time.slew = offset ∧ t.time.last = some (o, r)) ∧
         (step → t.time.now = ((s.time.now : Int) - offset).toNat ∧ t.time.slew = 0 ∧
           t.time.last = some (o, ((r : Int) - offset).toNat))
     s.time.frac < 65536 → s.time.source = some port →
     exchanged (.ptpSync port q false c origin) (origin + c) rx ∧
     (exec (.ptpSync port q true c origin) s =
       .next { s with time := { s.time with
         syncAt := s.time.ns, sync := some (q, rx, c)
         servo := if s.time.servo = .locked then .locked else .acquiring } }) ∧
     (∀ r c0, s.time.sync = some (q, r, c0) → exchanged (.ptpFollowUp port q c origin) (origin + c0 + c) r) ∧
     (∀ t1 t2 t3 requester, s.time.request = some (q, t3) → s.time.last = some (t1, t2) →
       port < 2 ∨ requester = s.portId port → exec (.ptpDelayResp port q c origin requester) s =
         .next { s with time := { s.time with
           request := none, delay := (((t2 : Int) - t1) + ((origin : Int) - c - t3)) / 2 } })) ∧
   (∀ (s : State) (port q : Nat) (c : Int) (requester : Nat) (quality gm : Word),
     (s.isMaster port = true → ∃ t w, exec (.ptpDelayReq port q c requester) s = .next t ∧
       t = { s with outbox := s.outbox ++ [.ptp port w] } ∧ w[3]? = some (s.time.now / 65536) ∧
       w[4]? = some (s.time.now % 65536) ∧ w[5]? = some requester ∧ w[1]? = some (BitVec.ofInt 64 c).toNat) ∧
     (s.pkg.mayFollow port = true → ∃ t, exec (.ptpAnnounce port quality gm) s = .next t ∧
       t = { s with time := t.time } ∧ t.time.announces.look? port = some (quality, gm, s.time.ns) ∧
       t.time.ns = s.time.ns ∧ t.time.source = t.bestSource ∧
       (s.time.permitted = false →
         t.time.source = (bestPort (t.time.announces.filter fun x => s.pkg.mayFollow x.1)).map (·.1))) ∧
     (∀ kind, s.intervalDue port kind = true → ∃ t w, exec (.ptpIntervalTimer port kind) s = .next t ∧
       Fabric.ptp port w ∈ t.outbox ∧ t.time.sent.look? (port * 16 + kind) = some s.time.ns ∧ t.time.ns = s.time.ns ∧
       t.mem = s.mem ∧ t.ctxs = s.ctxs)) ∧
   (∀ s : State,
     (s.syncLost = true → ∃ t, exec .syncTimeout s = .next t ∧ t = { s with time := t.time } ∧
       t.time.servo = .holdover ∧ t.time.ns = s.time.ns ∧ t.time.frac = s.time.frac ∧ t.time.slew = 0 ∧
       t.time.lost = s.time.ns ∧ t.time.uLost = s.time.u) ∧
     (s.time.servo = .holdover → ∃ t, exec .holdoverTick s = .next t ∧ t = { s with time := t.time } ∧
       t.time = { s.time with u := t.time.u } ∧
       t.time.u.toNat = min (s.time.uLost.toNat + (s.time.ns - s.time.lost) / 500000) 0xFFFFFFFF) ∧
     (s.time.unit = false → ∃ t, exec .timeUnitFailover s = .next t ∧ t = { s with time := t.time } ∧
       t.time.unit = true ∧ t.time.ns = s.time.ns ∧ t.time.frac = s.time.frac ∧
       t.time.u.toNat = min (s.time.u.toNat + 4) 0xFFFFFFFF ∧ ∀ p ∈ t.time.announces, 2 ≤ p.1)))

/-! ## Floes (R208, R209, R216-R229) -/

/-- The kind-6 messages of a floe whose member launch is here, in an epoch that they may name: what each leaves in the
member, what it sends on, and when a message is held or breaks the floe. Which epochs a message may name is the model's
reading (log 17), and so are that a floe in FALLBACK may break and a FROZEN one may not (DEDUCED, log 70), and that a
later grant goes out only where a report changes the minimum (DEDUCED, log 71). What a floe member does at its
instants: the first minimum and the grants it applies, its timed action and its cut, the cut's completion, the
straggler deadline, and the vote for barrier mode. -/
def Obligations.Floes : Prop :=
  (∀ (s : State) (f : Floe) (l : Launch) (floe epoch : Nat),
     s.floes.look? floe = some f → f.id = floe → f.state ≠ .done → s.launches.look? f.launch = some l →
     l.lid = f.launch →
     let here := f.coordinator = s.pkg.chip
     let leaves (i : Instr) (g : Floe) : Prop := exec i s = .next (s.setFloe g)
     (f.lawful epoch = true → ¬ (l.state = .ended ∧ f.state = .frozen ∧ f.epoch < epoch) →
       (∀ cls chip, (chip, cls, epoch) ∉ f.markers →
         (¬ (f.unscheduled = true ∧ f.state = .running ∧ epoch = f.epochOf .cut) →
           leaves (.cutMarker floe epoch cls chip) { f with markers := f.markers ++ [(chip, cls, epoch)] }) ∧
         (f.unscheduled = true → f.state = .running → epoch = f.epochOf .cut →
           ∃ t g, exec (.cutMarker floe epoch cls chip) s = .next t ∧ t.floes.look? floe = some g ∧ g.state = .cutting ∧
             g.epoch = epoch)) ∧
       (∀ (a : FloeAction) (chip : Nat),
         (f.actedFor a epoch = true → ∃ t, exec (.prepare ⟨floe, chip⟩ ⟨epoch, a.code⟩) s = .next t ∧ t.floes = s.floes ∧
           t.mem = s.mem ∧ Told t f.coordinator { s.floeMsg f 3 epoch a with acted := true }) ∧
         (f.actedFor a epoch = false → ∃ t g, exec (.prepare ⟨floe, chip⟩ ⟨epoch, a.code⟩) s = .next t ∧
           t.floes.look? floe = some g ∧ g.prepared = true ∧ g.votedFor = a ∧
           (f.state = .armed ∨ f.state = .running → g.state = .fallback ∧ g.back = f.state) ∧
           (a = .cut → Told t f.coordinator (s.floeMsg f 3 epoch a)) ∧ t.mem = s.mem) ∧
         (∀ acted, here → f.preparing = some (a, epoch) →
           ((∀ c ∈ f.members, c = chip ∨ c ∈ f.readies) →
             ∃ t g, exec (.ready floe ⟨epoch, a.code⟩ chip acted) s = .next t ∧ t.floes.look? floe = some g ∧
               g.preparing = none ∧ (a = .cut → g.deadline = some (s.time.ns + Block.straggle l.block)) ∧
               ∀ c ∈ f.members, Told t c { s.floeMsg f 4 epoch a with arg := s.time.ns }) ∧
           ((∃ c ∈ f.members, c ≠ chip ∧ c ∉ f.readies) → chip ∉ f.readies →
             leaves (.ready floe ⟨epoch, a.code⟩ chip acted) { f with readies := f.readies ++ [chip] })) ∧
         (∀ time, f.state = .fallback → f.votedFor = a → epoch = f.epochOf a →
           (a ≠ .cut → f.action = a → ∃ t g l', exec (.commit ⟨floe, chip⟩ ⟨epoch, a.code⟩ time) s = .next t ∧
             t.floes.look? floe = some g ∧ g.state = .running ∧ g.barrier = true ∧ g.epoch = epoch ∧
             t.launches.look? f.launch = some l' ∧ l'.state = (if l.resume.isSome then .running else .distributing)) ∧
           (a = .cut → ∃ t g l', exec (.commit ⟨floe, chip⟩ ⟨epoch, a.code⟩ time) s = .next t ∧
             t.floes.look? floe = some g ∧ g.state = .cutting ∧ g.barrier = true ∧ g.epoch = epoch ∧
             t.launches.look? f.launch = some l' ∧ (l.state ≠ .ended → l'.stopping = true) ∧
             ∀ c ∈ f.members, c ≠ s.pkg.chip → ∀ k ∈ [0, 1, 3],
               Told t c { s.floeMsg f 0 epoch .cut with bits := k })) ∧
         (here → f.preparing ≠ some (a, epoch) →
           ∃ t g, exec (.fallbackVoteArrival floe ⟨epoch, a.code⟩ chip) s = .next t ∧ t.floes.look? floe = some g ∧
             g.preparing = some (a, epoch) ∧ g.readies = [] ∧ t.mem = s.mem ∧
             ∀ c ∈ f.members, Told t c (s.floeMsg f 2 epoch a))) ∧
       (∀ chip time, here → f.state ≠ .broken → (∀ d, f.deadline = some d → s.time.ns ≤ d) →
         ((∀ c ∈ f.members, c = chip ∨ (c, epoch) ∈ f.reports) →
           ∃ t, exec (.cutCompleteReport floe epoch chip time) s = .next t ∧ t.mem = s.mem ∧
             ∀ c ∈ f.members, Told t c (s.floeMsg f 6 epoch .cut)) ∧
         ((∃ c ∈ f.members, c ≠ chip ∧ (c, epoch) ∉ f.reports) → (chip, epoch) ∉ f.reports →
           leaves (.cutCompleteReport floe epoch chip time) { f with reports := f.reports ++ [(chip, epoch)] })) ∧
       (∀ chip, f.state = .cutting → f.imaged = true → epoch = f.epoch → l.state ≠ .ended →
         ∃ t g l', exec (.frozen ⟨floe, chip⟩ epoch) s = .next t ∧ t.floes.look? floe = some g ∧ g.state = .frozen ∧
           g.recorded = true ∧ t.launches.look? f.launch = some l' ∧ l'.state = .swapped ∧ l'.stopping = false) ∧
       (∀ chip codes, here →
         let h := { f with feas := f.feas.insert chip (Steps.ofCodes codes) }
         (f.minimum = none ∨ f.minimum = some h.minimumNow → leaves (.uniformReport floe epoch chip codes) h) ∧
         (f.minimum ≠ none → f.minimum ≠ some h.minimumNow →
           ∃ t, exec (.uniformReport floe epoch chip codes) s = .next t ∧ ∀ c ∈ f.members,
             Told t c { s.floeMsg f 9 f.runEpoch f.nextAction with
               bits := h.minimumNow.codes, arg := s.time.ns + 200000 })) ∧
       (∀ chip codes instant, leaves (.uniformGrant ⟨floe, chip⟩ epoch codes instant)
         { f with grants := f.grants ++ [(Steps.ofCodes codes, instant)] }) ∧
       (∀ chip member, f.state.breakable = true → ∃ t g, exec (.broken ⟨floe, chip⟩ epoch member) s = .next t ∧
         t.floes.look? floe = some g ∧ g.state = .broken ∧ g.deadline = none ∧ g.preparing = none) ∧
       (∀ chip time, here →
         ((∀ c ∈ f.members, c = chip ∨ c ∈ f.endeds) → ∃ t, exec (.ended ⟨floe, chip⟩ epoch time) s = .next t ∧
           t.mem = s.mem ∧ ∀ c ∈ f.members, Told t c (s.floeMsg f 11 f.epoch f.nextAction)) ∧
         ((∃ c ∈ f.members, c ≠ chip ∧ c ∉ f.endeds) → chip ∉ f.endeds →
           leaves (.ended ⟨floe, chip⟩ epoch time) { f with endeds := f.endeds ++ [chip] })) ∧
       (∀ chip, leaves (.done (⟨floe, chip⟩, epoch)) { f with state := .done })) ∧
     (f.lawful epoch = false → f.state.breakable = true → ∀ cls chip,
       ∃ t, exec (.cutMarker floe epoch cls chip) s = .next t ∧ t.floes = s.floes ∧
         ∀ c ∈ f.members, Told t c { s.floeMsg f 7 f.epoch f.nextAction with arg := f.members.idxOf chip }) ∧
     (l.state = .ended → f.state = .frozen → f.epoch < epoch → f.lawful epoch = true → ∀ chip,
       leaves (.frozen ⟨floe, chip⟩ epoch) f.pastResume) ∧
     (∀ other chip, s.floes.look? other = none → s.heldFloe.length < 64 →
       ∀ p ∈ [(Instr.done (⟨other, chip⟩, epoch), (⟨11, .cut, other, epoch, chip, 0, false, 0⟩ : FloeMsg)),
           (.frozen ⟨other, chip⟩ epoch, ⟨6, .cut, other, epoch, chip, 0, false, 0⟩),
           (.prepare ⟨other, chip⟩ ⟨epoch, 2⟩, ⟨2, .resume, other, epoch, chip, 0, false, 0⟩),
           (.broken ⟨other, chip⟩ epoch 0, ⟨7, .cut, other, epoch, chip, 0, false, 0⟩)],
         exec p.1 s = .next { s with heldFloe := s.heldFloe ++ [p.2] })) ∧
  (∀ (s : State) (f : Floe) (l : Launch) (floe : Nat),
     s.floes.look? floe = some f → f.id = floe → s.launches.look? f.launch = some l → l.lid = f.launch →
     (s.minimumDue f l = true → ∃ t g, exec (.uniformMinimum floe) s = .next t ∧ t.floes.look? floe = some g ∧
       g.minimum = some f.minimumNow ∧ t.mem = s.mem ∧ ∀ c ∈ f.members,
         Told t c { s.floeMsg f 9 f.runEpoch f.nextAction with
           bits := f.minimumNow.codes, arg := Block.start l.block - 100000 }) ∧
     (∀ grant, s.grantDue f = some grant → (s.part f.part).moving = none → s.cutting f.part = false →
       ∃ t g, exec (.uniformApply floe) s = .next t ∧ t.floes.look? floe = some g ∧ g.grants = f.grants.erase grant ∧
         t.mem = s.mem ∧ ∃ m, (t.part f.part).moving = some m ∧ m.steps = grant.1 ∧ m.uniform = true ∧
           m.event = decide (l.sent ≠ 0) ∧ m.notice = (decide (l.sent ≠ 0) && !f.beforeAction)) ∧
     (f.state = .armed → s.waitOverFor l = true → s.voteDue f l = false →
       ∃ t g l', exec (.floeAction floe) s = .next t ∧ t.floes.look? floe = some g ∧ g.state = .running ∧
         g.barrier = false ∧ g.epoch = f.nextEpoch ∧ t.launches.look? f.launch = some l' ∧
         l'.state = (if l.resume.isSome then .running else .distributing)) ∧
     (f.state = .fallback → f.prepared = true → f.readySent = false → f.votedFor ≠ .cut → s.waitOverFor l = true →
       ∃ t g, exec (.floeAction floe) s = .next t ∧ t.floes.look? floe = some g ∧ g.readySent = true ∧
         Told t f.coordinator (s.floeMsg f 3 f.nextEpoch f.votedFor) ∧ t.mem = s.mem) ∧
     (s.cutDue f l = true → ∃ t g l', exec (.floeCut floe) s = .next t ∧ t.floes.look? floe = some g ∧
       g.state = .cutting ∧ g.epoch = f.epochOf .cut ∧ g.cutAt = s.time.ns ∧ g.barrier = false ∧
       t.launches.look? f.launch = some l' ∧ (l.state ≠ .ended → l'.stopping = true) ∧
       ∀ c ∈ f.members, c ≠ s.pkg.chip → ∀ k ∈ [0, 1, 3],
         Told t c { s.floeMsg f 0 (f.epochOf .cut) .cut with bits := k }) ∧
     (∀ key, f.state = .cutting → s.cutSettled f = true →
       s.imageAddr l.part (Block.asid l.block) (Block.cutImage l.block) = some key →
       ∃ t g l' i, exec (.cutComplete floe) s = .next t ∧ t.floes.look? floe = some g ∧ g.imaged = true ∧
         g.complete = s.time.ns ∧ t.launches.look? f.launch = some l' ∧ l'.lastImage = some key ∧
         t.images.look? key = some i ∧ (l.resume = none → i.launch = f.launch) ∧
         Told t f.coordinator { s.floeMsg f 5 f.epoch .cut with arg := s.time.ns }) ∧
     (∀ d, f.deadline = some d → f.state = .cutting → f.coordinator = s.pkg.chip → d < s.time.ns →
       ∃ t g, exec (.straggler floe) s = .next t ∧ t.floes.look? floe = some g ∧ g.deadline = none ∧
         ∀ c ∈ f.members, Told t c { s.floeMsg f 7 f.epoch .cut with arg := 0x3FFFF }) ∧
     (s.voteDue f l = true → ∃ t g, exec (.fallbackVote floe) s = .next t ∧ t.floes.look? floe = some g ∧
       g.state = .fallback ∧ g.back = f.state ∧ g.votedFor = f.nextAction ∧ t.mem = s.mem ∧
       Told t f.coordinator (s.floeMsg f 1 f.nextEpoch f.nextAction)))

/-! ## Device time (R210-R215, R263) -/

/-! ## Vectors (R148, R160, R281, R377, R378, R415-R436) -/

/-- What every masked vector instruction does first (R416): with no lane it traps NOLANES; with a vector length of 0 it
only goes on. The integer forms: INT32 elements wrap at 32 bits, INT8 elements at 8 bits and extend their sign into the
lane; shifts take their amount modulo the element's width. -/
def Obligations.VectorIntegerForms : Prop :=
  (∀ (s : State) (v a b : BitVec 5) (p q : BitVec 4) (m t x y : BitVec 3) (c : BitVec 1),
     let floats : List Instr := [.vfma v a b m t, .vldexp v a b m t]
     let reductions : List Instr := [.vredsum v a m t, .vredmax v a m t]
     let functions : List Instr := [.vexp2 v a m t, .vlog2 v a m t, .vrcp v a m t, .vrsq v a m t, .vtanh v a m t]
     let integers : List Instr :=
       [.vand v a b m t, .vor v a b m t, .vxor v a b m t, .vshl v a b m t, .vshr v a b m t c, .viota v m t]
     let all : List Instr := [.vadd v a b m t, .vsub v a b m t, .vmul v a b m t, .vmax v a b m t, .vmin v a b m t,
       .vabs v a m t, .vneg v a m t, .vselm v a b m, .vbcast p a q m, .vperm p p q m, .vld v a m t x, .vlds v a b m t x,
       .vldt c a b m t x, .vgath v a p m t x, .vst v a m t x, .vsts v a b m t x, .vscat v a p m t x]
     ∀ i, (v.toNat < 16 ∧
         (i ∈ all ∨ (t.toNat ≤ 5 ∧ i ∈ floats) ∨ (t.toNat ≤ 2 ∧ i ∈ functions) ∨ (6 ≤ t.toNat ∧ i ∈ integers))) ∨
         (t.toNat ≤ 5 ∧ i ∈ reductions) ∨ (x ≠ 0 ∧ y.toNat ≤ 5 ∧ i = .vcmp x a b m t y) ∨
         (v.toNat < 16 ∧ b.toNat % 16 ≤ 7 ∧ i = .vcvt v a b m t x) →
       (s.th.grant = 0 → Traps s i Cause.noLanes 0) ∧
       (s.th.grant ≠ 0 → s.th.vl = 0 → Completes s i [] (following s))) ∧
  (∀ (s : State) (v a b : BitVec 5) (m t : BitVec 3), v.toNat < 16 → 6 ≤ t.toNat →
     let u := s.th
     let act := u.active m
     let gives (i : Instr) (g : (w : Nat) → BitVec w → BitVec w → BitVec w) : Prop :=
       LanesGive s i v.toNat act fun e lane => lane = elemWise t g (u.vlane a e) (u.vlane b e)
     (LanesReady s [a, b] →
       gives (.vadd v a b m t) (fun _ x y => x + y) ∧ gives (.vsub v a b m t) (fun _ x y => x - y) ∧
       gives (.vmul v a b m t) (fun _ x y => x * y) ∧
       gives (.vmax v a b m t) (fun _ x y => if x.toInt < y.toInt then y else x) ∧
       gives (.vmin v a b m t) (fun _ x y => if y.toInt < x.toInt then y else x) ∧
       gives (.vand v a b m t) (fun _ x y => x &&& y) ∧ gives (.vor v a b m t) (fun _ x y => x ||| y) ∧
       gives (.vxor v a b m t) (fun _ x y => x ^^^ y) ∧ gives (.vshl v a b m t) (fun w x y => x <<< (y.toNat % w)) ∧
       gives (.vshr v a b m t 0) (fun w x y => x >>> (y.toNat % w)) ∧
       gives (.vshr v a b m t 1) (fun w x y => x.sshiftRight (y.toNat % w))) ∧
     (LanesReady s [a] →
       gives (.vabs v a m t) (fun _ x _ => if x.toInt < 0 then -x else x) ∧ gives (.vneg v a m t) (fun _ x _ => -x)) ∧
     (LanesReady s [] → LanesGive s (.viota v m t) v.toNat act fun e lane =>
       lane = elemWise t (fun _ x _ => x)
         (BitVec.ofNat 32 ((List.range e).filter fun j => act j).length) 0))

/-- The float forms of VADD, VSUB, VMUL, VFMA, VLDEXP, VMAX, VMIN, VABS, VNEG and the special functions: each active
element is the rounded exact result of its operands with subnormals flushed under FTZ; VMAX, VMIN, VABS and VNEG keep
an operand's encoding; a special function rounds its exact value, or one of the FP32 values that its bound permits:
which those are at the ends of the bound, the manual giving the bound alone, is the model's reading (DEDUCED, log 47).
VCVT (R301, R425): from format T to format B, or from B to T where B has its top bit set; X names the rounding mode, or
a scale that divides (6, SCLC) or multiplies (7, SCLA) where its enable bit is set. Between equal formats an encoding
stays as it is, but for a NaN and a subnormal that FTZ flushes. -/
def Obligations.VectorFloatForms : Prop :=
  (∀ (s : State) (v a b : BitVec 5) (m t : BitVec 3), v.toNat < 16 → t.toNat ≤ 5 →
     let f := Fmt.ofType t.toNat
     let u := s.th
     let act := u.active m
     let x (e : Nat) : Machine.Num := u.operand f (u.vlane a e)
     let y (e : Nat) : Machine.Num := u.operand f (u.vlane b e)
     let z (e : Nat) : Machine.Num := u.operand f (u.lane v.toNat e)
     let down : Bool := u.rmode = 2
     let rounds (i : Instr) (g : Nat → Machine.Num) : Prop :=
       LanesGive s i v.toNat act fun e lane => RoundsTo u f u.mode (g e) lane
     let picks (i : Instr) (g : Nat → BitVec 32) : Prop :=
       LanesGive s i v.toNat act fun e lane =>
         lane = laneOf f (if (x e).isNan || (y e).isNan then f.nanBits else u.flushed f (g e))
     let signs (i : Instr) (g : Nat → Nat) : Prop :=
       LanesGive s i v.toNat act fun e lane =>
         lane = laneOf f (if (x e).isNan then f.nanBits else g (u.flushed f (u.vlane a e)))
     let function (i : Instr) (fn : Config.Sfu) : Prop :=
       LanesGive s i v.toNat act fun e lane => ∃ bits,
         ((∃ flags, sfuOf u.ftz fn (x e) = .exact bits flags) ∨
           ∃ neg l k, sfuOf u.ftz fn (x e) = .oneOf neg l ∧ (k < l.length ∨ l = []) ∧
             bits = Fmt.fp32.signBit neg + l.getD k 0) ∧
         RoundsTo u f u.mode (Fmt.fp32.decode bits) lane
     (LanesReady s [a, b] →
       rounds (.vadd v a b m t) (fun e => (Machine.Num.add down (x e) (y e)).1) ∧
       rounds (.vsub v a b m t) (fun e => (Machine.Num.add down (x e) (y e).neg).1) ∧
       rounds (.vmul v a b m t) (fun e => ((x e).mul (y e)).1) ∧
       rounds (.vfma v a b m t) (fun e => (Machine.Num.add down ((x e).mul (y e)).1 (z e)).1) ∧
       rounds (.vldexp v a b m t) (fun e => (x e).scale (max (-1000) (min 1000 (u.vlane b e).toInt))) ∧
       picks (.vmax v a b m t) (fun e => if (x e).ltSigned (y e) then u.vlane b e else u.vlane a e) ∧
       picks (.vmin v a b m t) (fun e => if (y e).ltSigned (x e) then u.vlane b e else u.vlane a e)) ∧
     (LanesReady s [a] →
       signs (.vabs v a m t) (fun n => n % 2 ^ (f.width - 1)) ∧
       signs (.vneg v a m t) (fun n => if f = .zf8 ∧ n = 0 then 0 else (n + 2 ^ (f.width - 1)) % 2 ^ f.width) ∧
       (t.toNat ≤ 2 → function (.vexp2 v a m t) .exp2 ∧ function (.vlog2 v a m t) .log2 ∧
         function (.vrcp v a m t) .rcp ∧ function (.vrsq v a m t) .rsq ∧ function (.vtanh v a m t) .tanh))) ∧
  (∀ (s : State) (v a b : BitVec 5) (m t x : BitVec 3), v.toNat < 16 → b.toNat % 16 ≤ 7 → LanesReady s [a] →
     let u := s.th
     let named : Fmt := (Fmt.ofCode (b.toNat % 16)).getD .fp32
     let src := if 16 ≤ b.toNat then named else Fmt.ofType t.toNat
     let dst := if 16 ≤ b.toNat then Fmt.ofType t.toNat else named
     let mode : RMode := if x = 1 then .rne else if x = 2 then .rtz else if x = 3 then .rdn else if x = 4 then .rup
       else if x = 5 then .sr else u.mode
     let scale (r : BitVec 9) (k : Int) (n : Machine.Num) : Machine.Num :=
       if r.toNat < 256 then n else if r.toNat % 256 = 255 then .nan else n.scale (k * ((r.toNat % 256 : Nat) - 127))
     LanesGive s (.vcvt v a b m t x) v.toNat (u.active m) fun e lane =>
       let raw := u.vlane a e
       let n := u.operand src raw
       let y := if x = 6 then scale u.sclC (-1) n else if x = 7 then scale u.sclA 1 n else n
       if src ≠ dst ∨ y = .nan then RoundsTo u dst mode y lane
       else if n ≠ src.decode (elemBits src raw) then RoundsTo u dst mode n lane
       else lane = laneOf dst (elemBits src raw))

/-- Masks: VCMP writes the comparisons of the active elements and keeps the other bits below the vector length (R424);
MOPS and MPOP (R377, R378), which run at a vector length of 0 too. Moves and reductions: VSELM takes VA where its mask
is set and VB elsewhere (R436); VBCAST, VEXT, VINS and VPERM (R421), an index at or above the grant trapping ILLEGAL;
VREDSUM by its tree and VREDMAX (R434, R435), into element 0 of vD or, where VD names one, into a scalar register. -/
def Obligations.MasksMovesReductions : Prop :=
  (∀ (s : State) (d k j : BitVec 3) (a b : BitVec 5) (r : BitVec 4) (m t x : BitVec 3), d ≠ 0 →
     let u := s.th
     let mask (i : Instr) (bit : Nat → Bool) : Prop :=
       ∃ t, exec i s = .next t ∧ KeepsButLanes s t ∧ (∀ r e, t.th.lane r e = s.th.lane r e) ∧
         (∀ n, n ≠ d.toNat → t.th.M n = s.th.M n) ∧ ∀ e, e < 256 → (t.th.M d.toNat).getLsbD e = bit e
     let holds (p q : Machine.Num) : Bool := match x.toNat with
       | 0 => p.eq q
       | 1 => !p.eq q
       | 2 => p.lt q
       | 3 => p.lt q || p.eq q
       | 4 => q.lt p
       | _ => q.lt p || p.eq q
     let logic (p q : Bool) : Bool := match x.toNat with
       | 0 => p && q
       | 1 => p || q
       | 2 => xor p q
       | 3 => p && !q
       | 4 => !p
       | 5 => true
       | _ => false
     (LanesReady s [a, b] → x.toNat ≤ 5 → mask (.vcmp d a b m t x) fun e =>
       let f := Fmt.ofType t.toNat
       if u.active m e then holds (u.operand f (u.vlane a e)) (u.operand f (u.vlane b e))
       else decide (e < u.vl) && (u.M d.toNat).getLsbD e) ∧
     (u.grant ≠ 0 → x.toNat ≤ 3 → mask (.mops d k j x) fun e =>
       decide (e < u.vl) && logic ((u.M k.toNat).getLsbD e) ((u.M j.toNat).getLsbD e)) ∧
     (u.grant ≠ 0 → x = 4 → mask (.mops d k 0 x) fun e => decide (e < u.vl) && !(u.M k.toNat).getLsbD e) ∧
     (u.grant ≠ 0 → x = 5 ∨ x = 6 → mask (.mops d 0 0 x) fun e => decide (e < u.vl) && logic false false) ∧
     (u.grant ≠ 0 → u.vl ≤ 256 → TokenFree s [r.toNat] →
       let here (e : Nat) : Bool := u.active m e && (u.M k.toNat).getLsbD e
       Completes s (.mpop r k m 0) [(r.toNat, BitVec.ofNat 64 ((List.range 256).filter here).length)] (following s) ∧
       (∀ e, here e = true → (∀ n, n < e → here n = false) →
         Completes s (.mpop r k m 1) [(r.toNat, BitVec.ofNat 64 e)] (following s)) ∧
       ((∀ e, here e = false) → Completes s (.mpop r k m 1) [(r.toNat, BitVec.ofNat 64 u.vl)] (following s))) ∧
     (u.grant = 0 → (x.toNat ≤ 3 → Traps s (.mops d k j x) Cause.noLanes 0) ∧
       Traps s (.mpop r k m 0) Cause.noLanes 0 ∧ Traps s (.mpop r k m 1) Cause.noLanes 0)) ∧
  (∀ (s : State) (v a b : BitVec 5) (p q d : BitVec 4) (m t : BitVec 3),
     let u := s.th
     let i := (u.S q.toNat).toNat
     (v.toNat < 16 → LanesReady s [a, b] →
       LanesGive s (.vselm v a b m) v.toNat (fun e => decide (e < u.vl)) fun e lane =>
         lane = if (u.M m.toNat).getLsbD e then u.vlane a e else u.vlane b e) ∧
     (LanesReady s [a] → TokenFree s [q.toNat] →
       (u.grant ≤ i → Traps s (.vbcast p a q m) Cause.illegal 0) ∧
       (i < u.grant → LanesGive s (.vbcast p a q m) p.toNat (u.active m) fun _ lane => lane = u.vlane a i)) ∧
     (LanesReady s [] → LanesGive s (.vperm p d q m) p.toNat (u.active m) fun e lane =>
       lane = u.lane d.toNat ((u.lane q.toNat e).toNat % 256)) ∧
     (u.grant ≠ 0 → TokenFree s [q.toNat, d.toNat] →
       (u.grant ≤ i → Traps s (.vext d p q) Cause.illegal 0 ∧ Traps s (.vins p d q) Cause.illegal 0) ∧
       (i < u.grant →
         Completes s (.vext d p q) [(d.toNat, (u.lane p.toNat i).setWidth 64)] (following s) ∧
         ∃ t, exec (.vins p d q) s = .next t ∧ KeepsButLanes s t ∧ (∀ k, t.th.M k = u.M k) ∧
           ∀ r e, r < 16 → e < 256 → t.th.lane r e =
             if r = p.toNat ∧ e = i then (u.S d.toNat).setWidth 32 else u.lane r e)) ∧
     (LanesReady s [a] → t.toNat ≤ 5 → (16 ≤ v.toNat → TokenFree s [v.toNat - 16]) →
       let f := Fmt.ofType t.toNat
       let x (e : Nat) : Machine.Num := u.operand f (u.vlane a e)
       let gives (j : Instr) (P : BitVec 32 → Prop) : Prop :=
         ∃ t lane, exec j s = .next t ∧ t.th.pc = following s ∧ t.mem = s.mem ∧ OthersKept s t ∧ P lane ∧
           (v.toNat < 16 → t.th.lane v.toNat 0 = lane ∧ (∀ r, t.th.S r = u.S r) ∧
             ∀ r e, r < 16 → e < 256 → r ≠ v.toNat ∨ e ≠ 0 → t.th.lane r e = u.lane r e) ∧
           (16 ≤ v.toNat → (v.toNat ≠ 16 → t.th.S (v.toNat - 16) = lane.setWidth 64) ∧
             (∀ r, r ≠ v.toNat - 16 → t.th.S r = u.S r) ∧ ∀ r e, t.th.lane r e = u.lane r e)
       gives (.vredsum v a m t) (RoundsTo u f u.mode
         ((redTree 8 ((List.range 256).map fun e => if u.active m e then some (x e) else none)).1.getD .zero)) ∧
       gives (.vredmax v a m t) fun lane =>
         ((∃ e, u.active m e = true ∧ (x e).isNan = true) → lane = laneOf f f.nanBits) ∧
         ((∀ e, u.active m e = true → (x e).isNan = false) →
           ((∀ e, u.active m e = false) → lane = laneOf f (redmaxNone f)) ∧
           ((∃ e, u.active m e = true) → ∃ e, u.active m e = true ∧ lane = laneOf f (u.flushed f (u.vlane a e)) ∧
             ∀ j, u.active m j = true → (x e).ltSigned (x j) = false))))

/-- The vector memory instructions: the address of each active element; the first that may not be accessed, in order,
traps with its cause and nothing takes effect (R429); otherwise a load fills the active lanes, VLDT the eight registers
of a tile (R433), and a store writes the own scratchpad at once and posts one store for each element elsewhere. The
addresses here lie in the own scratchpad by its alias, in the glacier or in bulk memory. -/
def Obligations.VectorMemory : Prop :=
  ∀ (s : State) (v a b : BitVec 5) (q : BitVec 4) (c : BitVec 1) (m t x : BitVec 3), v.toNat < 16 →
    let u := s.th
    let f := Fmt.ofType t.toNat
    let n := f.width / 8
    let base := u.S a.toNat + BitVec.ofNat 64 (64 * x.toNat)
    let unit (e : Nat) : Word := base + BitVec.ofNat 64 (e * n)
    let strided (e : Nat) : Word := base + BitVec.ofNat 64 e * u.S b.toNat
    let indexed (e : Nat) : Word := base + (u.lane q.toNat e).signExtend 64
    let tiled (r k : Nat) : Word := strided r + BitVec.ofNat 64 (k * n)
    let act := u.active m
    let near (p : Place) : Prop := match p with
      | .spad _ _ al => al = true
      | .glacier d off => s.pkg.fenced.getLsbD d = false ∧ s.refreshing (off / 2 ^ 24) = false
      | .bulk k pa => k ≠ .control ∧ s.unreachable (.bulk k pa) = false
    let readable (addr : Word) (p : Place) : Prop :=
      addr.toNat % n = 0 ∧ s.resolve (u.issuer s.me) addr .read = .ok p ∧ near p ∧
        s.pkg.fenced.getLsbD (dieOf s.me) = false ∧
        s.storePending (decide (addr.toNat < 0x20000)) (s.keyOf u.part p) n = false ∧
        s.badGranule? (s.keyOf u.part p) n = none
    let value (p : Place) : BitVec 32 := laneOf f (Memory.readLE s.mem (s.keyOf u.part p) n)
    let loads (i : Instr) (addr : Nat → Word) : Prop :=
      (∀ place : Nat → Place, (∀ e, act e = true → readable (addr e) (place e)) →
        LanesGive s i v.toNat act fun e lane => lane = value (place e)) ∧
      ∀ e cause, act e = true → (∀ j, j < e → act j = true → ∃ p, s.elemPlace .read n (addr j) = .ok p) →
        s.elemPlace .read n (addr e) = .error cause → Traps s i cause (addr e)
    let stores (i : Instr) (addr : Nat → Word) : Prop :=
      (∀ (k : Nat → PhysKind) (pa : Nat → Nat), (∀ e, act e = true → (addr e).toNat % n = 0 ∧ k e ≠ .control ∧
          s.resolve (u.issuer s.me) (addr e) .write = .ok (.bulk (k e) (pa e))) →
        ∃ t qs, exec i s = .next t ∧ t.mem = s.mem ∧ t.th = u.retire ∧ t.stores = s.stores ++ qs ∧ OthersKept s t ∧
          (∀ p ∈ qs, p.ctx = s.cur ∧ p.tid = u.tid ∧ p.landed = false) ∧
          qs.map (fun p => (p.addr, p.key, p.bytes)) = ((List.range u.vl).filter act).map fun e =>
            (addr e, s.physKey u.part (pa e), leBytes n (u.lane v.toNat e).toNat)) ∧
      ((∀ e, act e = true → (addr e).toNat % n = 0 ∧ (addr e).toNat < 0x20000 ∧
          s.storePending true (spadKey s.me (addr e).toNat) n = false) →
        ∃ t, exec i s = .next t ∧ t.th = u.retire ∧ t.stores = s.stores ∧
          (∀ e, act e = true → (∀ j, act j = true → e < j → (addr j).toNat ≠ (addr e).toNat) →
            Memory.readLE t.mem (spadKey s.me (addr e).toNat) n = (u.lane v.toNat e).toNat % 256 ^ n) ∧
          ∀ j, (∀ e, act e = true → j < spadKey s.me (addr e).toNat ∨ spadKey s.me (addr e).toNat + n ≤ j) →
            Memory.read1 t.mem j = Memory.read1 s.mem j) ∧
      ∀ e cause, act e = true → (∀ j, j < e → act j = true → ∃ p, s.elemPlace .write n (addr j) = .ok p) →
        s.elemPlace .write n (addr e) = .error cause → Traps s i cause (addr e)
    (∀ acc addr, (addr.toNat % n ≠ 0 → s.elemPlace acc n addr = .error Cause.misalign) ∧
      (addr.toNat % n = 0 → (∀ p, s.resolve (u.issuer s.me) addr acc ≠ .ok p) →
        s.elemPlace acc n addr = .error (if acc = .write then Cause.storeFault else Cause.loadFault)) ∧
      (∀ core off, addr.toNat % n = 0 → s.resolve (u.issuer s.me) addr .read = .ok (.spad core off false) →
        clusterOf core ≠ clusterOf s.me → s.elemPlace .read n addr = .error Cause.migrateBlocked)) ∧
    (LanesReady s [] → TokenFree s [a.toNat, b.toNat] →
      loads (.vld v a m t x) unit ∧ loads (.vlds v a b m t x) strided ∧ loads (.vgath v a q m t x) indexed ∧
      stores (.vst v a m t x) unit ∧ stores (.vsts v a b m t x) strided ∧ stores (.vscat v a q m t x) indexed ∧
      (∀ place : Nat → Nat → Place,
        (∀ e k, act e = true → k < 8 → readable (tiled e k) (place e k)) →
        ∃ w, exec (.vldt c a b m t x) s = .next w ∧ KeepsButLanes s w ∧ (∀ r, w.th.M r = u.M r) ∧
          ∀ r e, r < 16 → e < 256 → w.th.lane r e =
            if r / 8 = c.toNat ∧ act e = true then value (place e (r % 8)) else u.lane r e))

/-! ## Engines (R80-R86, R104, R144, R152-R159, R169, R303-R311, R333-R349, R372-R376, R388, R389, R437-R440) -/

/-- The frame of every engine instruction: a job that is not running it is left alone; one whose header, reserved
fields or parameters are out of order fails with status 0x04 and does nothing else; an unassigned opcode of a running
job fails so too and delivers only its token (R303). A matrix job begins when no earlier job of its cell holds it back,
none runs there, and its launch is not being stopped; a copy job when it is at the head of the port whose turn it is
and its cluster's engine runs fewer than eight (R80, R152, R157, R159). -/
def Obligations.EngineFrames : Prop :=
  (∀ (s : State) (n : Nat),
     (∀ p ∈ [(Instr.mma n, 0, 1), (.mmat n, 0, 2), (.accz n, 0, 3), (.acccvt n, 0, 4), (.accld n, 0, 5), (.wbfill n, 0, 6),
         (.copy n, 1, 1), (.copy2d n, 1, 2), (.deal n, 1, 3), (.gathb n, 1, 4), (.redw n, 1, 5), (.fill n, 1, 6)],
       (∀ j, s.jobs.look? n = some j → j.state ≠ .running ∨ CmdWord.cls j.word ≠ p.2.1 ∨ CmdWord.opcode j.word ≠ p.2.2 →
         exec p.1 s = .next s)) ∧
     (∀ j, s.jobs.look? n = some j → j.state = .running →
       let w : CmdWord := j.word
       let cls3 (lo : Nat) : Prop := w.bits lo 64 / 2 ^ 52 % 16 = 3
       let blk := w.bits 103 16 + 1
       ∀ p : Instr × Nat × Nat × Layout × Prop, p ∈ [
         ((Instr.mma n, 0, 1, ⟨1, 71⟩, (mmaFields j).bad j = true) : Instr × Nat × Nat × Layout × Prop),
         (.mmat n, 0, 2, ⟨1, 71⟩, (mmaFields j).bad j = true),
         (.accz n, 0, 3, ⟨0, 0⟩, w.bits 0 2 = 0 ∨ w.bits 2 198 ≠ 0),
         (.acccvt n, 0, 4, ⟨1, 95⟩, 8 ≤ j.fmtC.toNat ∨ 64 < w.bits 114 6 + w.bits 108 6 + 1 ∨
           64 < w.bits 102 6 + w.bits 96 6 + 1),
         (.accld n, 0, 5, ⟨0, 95⟩, w.bits 136 64 % 4 ≠ 0 ∨ 64 < w.bits 114 6 + w.bits 108 6 + 1 ∨
           64 < w.bits 102 6 + w.bits 96 6 + 1 ∨ w.bits 120 16 < 4 * (w.bits 96 6 + 1) ∨ w.bits 120 16 % 4 ≠ 0),
         (.wbfill n, 0, 6, ⟨1, 95⟩, cls3 136 ∨ w.bits 136 64 % 8 ≠ 0 ∨ w.bits 116 20 % 8 ≠ 0 ∨ w.bits 95 21 % 8 ≠ 0 ∨
           w.bits 95 21 = 0 ∨ 1048576 < w.bits 116 20 + w.bits 95 21 ∨ (w.flags = 0 ∧ j.gang = true) ∨
           (w.flags = 1 ∧ j.gang = false)),
         (.copy n, 1, 1, ⟨0, 24⟩, w.bits 24 48 = 0 ∨ cls3 136 ∨ cls3 72),
         (.copy2d n, 1, 2, ⟨0, 0⟩, cls3 136 ∨ cls3 72),
         (.deal n, 1, 3, ⟨0, 61⟩, blk % 64 ≠ 0 ∨ w.bits 119 17 % 64 ≠ 0 ∨ 575 < w.bits 93 10 ∨ w.bits 83 10 = 0 ∨
           575 < w.bits 83 10 ∨ 576 < w.bits 73 10 + 1 ∨ cls3 136),
         (.gathb n, 1, 4, ⟨0, 36⟩, w.bits 136 64 % 8 ≠ 0 ∨ cls3 72),
         (.redw n, 1, 5, ⟨0, 44⟩, 1 < w.bits 44 4 ∨ w.bits 136 64 % (if w.bits 44 4 = 1 then 2 else 4) ≠ 0 ∨
           w.bits 72 64 % (if w.bits 44 4 = 1 then 2 else 4) ≠ 0 ∨ cls3 136 ∨ w.bits 72 64 / 2 ^ 52 % 16 = 2 ∨ cls3 72),
         (.fill n, 1, 6, ⟨0, 24⟩, w.bits 24 48 = 0 ∨ cls3 136)] →
       w.cls = p.2.1 → w.opcode = p.2.2.1 → p.2.2.2.1.bad w = true ∨ p.2.2.2.2 →
         ∃ k, exec p.1 s = .next (s.setJob n k) ∧ k.state = .bodyDone ∧ k.status = 0x04 ∧ k.faultAddr = 0 ∧
           k.delivered = j.delivered ∧ k.members = j.members ∧ k.word = j.word) ∧
     (∀ j, s.jobs.look? n = some j → j.state = .running →
       (CmdWord.assigned j.word = false → exec (.unassignedEngineOpcode n) s =
         .next (s.setJob n { j with state := .bodyDone, status := 0x04, tokenOnly := true })) ∧
       (CmdWord.assigned j.word = true → exec (.unassignedEngineOpcode n) s = .next s))) ∧
  (∀ (s : State) (n : Nat) (j : Job), s.jobs.look? n = some j → j.state = .queued →
     let running (s : State) := s.setJob n { j with state := .running }
     (j.cls = 0 →
       ((∀ e ∈ s.jobs, e.1 ≠ n → e.1 < n ∨ e.2.state ≠ .queued → e.2.cls ≠ 0 ∨ cellOf e.2.core ≠ cellOf j.core) →
         s.stopping j.launch = false → (∀ k u, (s.thAt k).wait ≠ .slice u) →
         exec (.matrixJobBegin n) s = .next (running s)) ∧
       (∀ e ∈ s.jobs, e.1 < n ∨ (e.1 ≠ n ∧ e.2.state ≠ .queued) → e.2.cls = 0 → cellOf e.2.core = cellOf j.core →
         (∃ c ∈ j.cores, e.2.mask.getLsbD (posOf c) = true ∧ cellOf c = cellOf j.core) ∨
           (∃ p, p < 8 ∧ j.writes p = true ∧ (e.2.reads p || e.2.writes p) = true) ∨
           (∃ p, p < 8 ∧ j.reads p = true ∧ e.2.writes p = true) →
         exec (.matrixJobBegin n) s = .next s)) ∧
     (j.cls = 1 →
       let cluster := clusterOf j.core
       let port := cellOf j.core % 3
       let runningHere := s.jobs.filter fun e =>
         e.2.cls == 1 && e.2.state != .queued && clusterOf e.2.core == cluster
       let headed := ∀ e ∈ s.jobs, e.1 < n → e.2.cls = 1 → e.2.state = .queued → cellOf e.2.core ≠ cellOf j.core
       let turn := s.copyPort cluster = some port
       (headed → turn → runningHere.length < 8 → exec (.copyJobBegin n) s =
         .next (running (s.setCluster cluster { s.cluster cluster with copyTurn := (port + 1) % 3 }))) ∧
       (¬headed ∨ ¬turn ∨ 8 ≤ runningHere.length → exec (.copyJobBegin n) s = .next s)))

/-- COPY, COPY2D, DEAL, GATHB, REDW and FILL between ranges of scratchpads that do not share a byte: what each byte of
the destination is, the delivered count, and that every other byte and everything but the job is as before. -/
def Obligations.CopyBodies : Prop :=
  ∀ (s : State) (n : Nat) (j : Job), s.pkg.fenced.getLsbD (dieOf j.core) = false →
    let w : CmdWord := j.word
    let key (a : Nat) : Nat := spadKey j.core a
    let byte (u : State) (k : Nat) : Nat := Memory.readLE u.mem k 1
    let good (a len : Nat) : Prop := ∀ i, i < len → s.badGranule? (key (a + i)) 1 = none
    let apart (a len b m : Nat) : Prop := a + len ≤ b ∨ b + m ≤ a
    let ends (i : Instr) (bytes : Nat) (P : State → Prop) : Prop :=
      ∃ t, exec i s = .next t ∧ BodyDone s t n j bytes ∧ BodyLands s t ∧ P t
    let a := w.bits 136 64
    let d := w.bits 72 64
    (BodyReady s n j 1 1 ⟨0, 24⟩ →
      let len := w.bits 24 48
      0 < len → a + len ≤ 0x20000 → d + len ≤ 0x20000 → apart a len d len → good a len →
        ends (.copy n) len fun t => SameOutside s t (key d) len ∧ ∀ i, i < len → byte t (key (d + i)) = byte s (key (a + i))) ∧
    (BodyReady s n j 1 2 ⟨0, 0⟩ →
      let width := w.bits 56 16 + 1
      let rows := w.bits 44 12 + 1
      let from_ (k : Nat) : Nat := (BitVec.ofNat 64 a + BitVec.ofNat 64 k * (BitVec.ofNat 22 (w.bits 22 22)).signExtend 64).toNat
      let dest (k : Nat) : Nat := (BitVec.ofNat 64 d + BitVec.ofNat 64 k * (BitVec.ofNat 22 (w.bits 0 22)).signExtend 64).toNat
      a < 0x20000 → d < 0x20000 →
      (∀ k, k < rows → from_ k + width ≤ 0x20000 ∧ dest k + width ≤ 0x20000 ∧ good (from_ k) width ∧
        (∀ m, m < rows → apart (from_ m) width (dest k) width ∧ (m ≠ k → apart (dest m) width (dest k) width))) →
        ends (.copy2d n) (rows * width) fun t =>
          (∀ k i, k < rows → i < width → byte t (key (dest k + i)) = byte s (key (from_ k + i))) ∧
          ∀ x, (∀ k i, k < rows → i < width → x ≠ key (dest k + i)) → Memory.read1 t.mem x = Memory.read1 s.mem x) ∧
    (BodyReady s n j 1 3 ⟨0, 61⟩ →
      let base := w.bits 119 17
      let blk := w.bits 103 16 + 1
      let first := w.bits 93 10
      let stride := w.bits 83 10
      let p := w.bits 73 10 + 1
      let total := p * (w.bits 61 12 + 1)
      let core (k : Nat) : Nat := dieOf j.core * 576 + first + k % p * stride
      let off (k : Nat) : Nat := base + k / p * blk
      blk % 64 = 0 → base % 64 = 0 → first ≤ 575 → stride ≠ 0 → stride ≤ 575 → p ≤ 576 → a + total * blk ≤ 0x20000 →
      good a (total * blk) →
      (∀ k, k < total → first + k % p * stride < 576 ∧ off k + blk ≤ 0x20000 ∧ s.hasCore j.part (core k) = true ∧
        (core k = j.core → apart (off k) blk a (total * blk))) → dieOf j.core < 4 →
        ends (.deal n) (total * blk) fun t =>
          (∀ k i, k < total → i < blk → byte t (spadKey (core k) (off k + i)) = byte s (key (a + k * blk + i))) ∧
          ∀ x, (∀ k i, k < total → i < blk → x ≠ spadKey (core k) (off k + i)) →
            Memory.read1 t.mem x = Memory.read1 s.mem x) ∧
    (BodyReady s n j 1 4 ⟨0, 36⟩ →
      let blk := w.bits 56 16 + 1
      let nblk := w.bits 36 20 + 1
      let src (k : Nat) : Nat := Memory.readLE s.mem (key (a + 8 * k)) 8
      a % 8 = 0 → a + 8 * nblk ≤ 0x20000 → d + nblk * blk ≤ 0x20000 → apart a (8 * nblk) d (nblk * blk) → good a (8 * nblk) →
      (∀ k, k < nblk → src k + blk ≤ 0x20000 ∧ apart (src k) blk d (nblk * blk) ∧ good (src k) blk) →
        ends (.gathb n) (nblk * blk) fun t => SameOutside s t (key d) (nblk * blk) ∧
          ∀ k i, k < nblk → i < blk → byte t (key (d + k * blk + i)) = byte s (key (src k + i))) ∧
    (BodyReady s n j 1 5 ⟨0, 44⟩ →
      let es := if w.bits 44 4 = 1 then 2 else 4
      let f : Fmt := if w.bits 44 4 = 1 then .bf16 else .fp32
      let count := w.bits 48 24 + 1
      let at_ (x : Nat) : Machine.Num := f.decode (Memory.readLE s.mem (key x) es)
      w.bits 44 4 ≤ 1 → a % es = 0 → d % es = 0 → a + es * count ≤ 0x20000 → d + es * count ≤ 0x20000 →
      apart a (es * count) d (es * count) → good a (es * count) → good d (es * count) →
        ends (.redw n) (es * count) fun t => SameOutside s t (key d) (es * count) ∧
          ∀ e, e < count → Memory.readLE t.mem (key (d + es * e)) es =
            (roundTo (Machine.Num.add false (at_ (d + es * e)) (at_ (a + es * e))).1 f .rne false 0).bits % 256 ^ es) ∧
    (BodyReady s n j 1 6 ⟨0, 24⟩ →
      let len := w.bits 24 48
      0 < len → a + len ≤ 0x20000 →
        ends (.fill n) len fun t => SameOutside s t (key a) len ∧
          ∀ i, i < len → byte t (key (a + i)) = d / 2 ^ (8 * ((a + i) % 8)) % 256)

/-- ACCZ, ACCLD, ACCCVT, WBFILL, MMA and MMAT of a job whose operands lie in the private alias: every accumulator
element, every byte written and the delivered count, for a single job and for every member of a gang job. A WBFILL that
a restore repeats fills the partitions of its footprint only. -/
def Obligations.MatrixBodies : Prop :=
  ∀ (s : State) (n : Nat) (j : Job), (∀ c ∈ j.cores, s.pkg.fenced.getLsbD (dieOf c) = false) →
    s.pkg.fenced.getLsbD (dieOf j.core) = false →
    let w : CmdWord := j.word
    let members := j.cores.length
    let addr := w.bits 136 64
    let pitch := w.bits 120 16
    let row0 := w.bits 114 6
    let rows := w.bits 108 6 + 1
    let col0 := w.bits 102 6
    let cols := w.bits 96 6 + 1
    let acc := w.bits 95 1
    let inTile (r c : Nat) : Prop := row0 ≤ r ∧ r < row0 + rows ∧ col0 ≤ c ∧ c < col0 + cols
    let good (c a len : Nat) : Prop := ∀ i, i < len → s.badGranule? (spadKey c (a + i)) 1 = none
    let ends (i : Instr) (bytes : Nat) (P : State → Prop) : Prop :=
      ∃ t, exec i s = .next t ∧ BodyDone s t n j bytes ∧ (∀ k, ∃ w, t.thAt k = { s.thAt k with wait := w }) ∧ P t
    let accs (t : State) (P : Nat → Nat → Nat → Nat → BitVec 32 → Prop) : Prop :=
      ∀ c k r q, k < 2 → r < 64 → q < 64 → P c k r q ((t.core c).accAt k r q)
    (BodyReady s n j 0 3 ⟨0, 0⟩ → w.bits 0 2 ≠ 0 → w.bits 2 198 = 0 →
      ends (.accz n) (16384 * (w.bits 0 1 + w.bits 1 1) * members) fun t => t.mem = s.mem ∧
        accs t fun c k r q x => x = if c ∈ j.cores ∧ w.bits k 1 = 1 then 0 else (s.core c).accAt k r q) ∧
    (BodyReady s n j 0 5 ⟨0, 95⟩ → row0 + rows ≤ 64 → col0 + cols ≤ 64 → addr % 4 = 0 → 4 * cols ≤ pitch →
      pitch % 4 = 0 → addr + (rows - 1) * pitch + 4 * cols ≤ 0x20000 → (∀ c ∈ j.cores, good c 0 0x20000) →
      ends (.accld n) (4 * rows * cols * members) fun t => t.mem = s.mem ∧
        accs t fun c k r q x => (c ∈ j.cores → k = acc → inTile r q →
            x.toNat = Memory.readLE s.mem (spadKey c (addr + (r - row0) * pitch + 4 * (q - col0))) 4) ∧
          (c ∉ j.cores ∨ k ≠ acc ∨ ¬inTile r q → x = (s.core c).accAt k r q)) ∧
    (BodyReady s n j 0 4 ⟨1, 95⟩ → row0 + rows ≤ 64 → col0 + cols ≤ 64 → ∀ f, Fmt.ofCode j.fmtC.toNat = some f →
      let half := f.width / 4
      let row (i : Nat) : Nat := addr + i * pitch
      let rounded (c r q bits : Nat) : Prop := ∃ x, x < 2 ^ 32 ∧
        bits = (roundTo (scaled j.sclC false (Fmt.fp32.decode ((s.core c).accAt acc r q).toNat)) f
          (RMode.ofCode j.rmode.toNat) false x).bits
      addr % (max 1 (f.width / 8)) = 0 → cols * half ≤ 2 * pitch → 2 * pitch % half = 0 →
      (f = .e2m1 → col0 % 2 = 0 ∧ cols % 2 = 0) → row (rows - 1) + cols * half / 2 ≤ 0x20000 →
      ends (.acccvt n) (rows * (cols * half / 2) * members) fun t =>
        (f ≠ .e2m1 → ∀ c ∈ j.cores, ∀ i k, i < rows → k < cols → ∃ bits, rounded c (row0 + i) (col0 + k) bits ∧
          Memory.readLE t.mem (spadKey c (row i + k * (f.width / 8))) (f.width / 8) = bits % 2 ^ f.width) ∧
        (f = .e2m1 → ∀ c ∈ j.cores, ∀ i k, i < rows → k < cols / 2 → ∃ lo hi,
          rounded c (row0 + i) (col0 + 2 * k) lo ∧ rounded c (row0 + i) (col0 + 2 * k + 1) hi ∧
            Memory.readLE t.mem (spadKey c (row i + k)) 1 = (lo + 16 * hi) % 256) ∧
        (∀ x, (∀ c ∈ j.cores, ∀ i, i < rows → x < spadKey c (row i) ∨ spadKey c (row i) + cols * half / 2 ≤ x) →
          Memory.read1 t.mem x = Memory.read1 s.mem x) ∧
        accs t fun c k r q x => x =
          if c ∈ j.cores ∧ k = acc ∧ (row0 ≤ r ∧ r < row0 + rows ∧ col0 ≤ q ∧ q < col0 + cols) ∧ w.flags = 1 then 0
          else (s.core c).accAt k r q) ∧
    (BodyReady s n j 0 6 ⟨1, 95⟩ →
      let dst := w.bits 116 20
      let len := w.bits 95 21
      addr % 8 = 0 → dst % 8 = 0 → len % 8 = 0 → len ≠ 0 → dst + len ≤ 1048576 → addr + len ≤ 0x20000 →
      (w.flags = 1 ∧ j.gang = true) ∨
        (w.flags = 0 ∧ j.gang = false ∧ dst / 131072 = posOf j.core ∧ (dst + len - 1) / 131072 = posOf j.core) →
      good j.core addr len →
      let filled (o : Nat) : Bool := j.fills (cellOf j.core * 8 + o / 131072)
      let buf (o : Nat) : Nat := wbufKey (cellOf j.core) o
      ends (.wbfill n) (8 * ((List.range (len / 8)).filter fun u => filled (dst + 8 * u)).length) fun t =>
        BodyLands s t ∧ SameOutside s t (buf dst) len ∧
        (∀ i, i < len → Memory.readLE t.mem (buf (dst + i)) 1 =
          if filled (dst + i) then Memory.readLE s.mem (spadKey j.core (addr + i)) 1
          else Memory.readLE s.mem (buf (dst + i)) 1) ∧
        ∀ c, if cellOf c = cellOf j.core ∧ posOf c * 131072 < dst + len ∧ dst < (posOf c + 1) * 131072 ∧
            j.fills c = true ∧ j.checkArrival.status = 0
          then ∃ k, t.fills.look? c = some (n, k) ∧ k.word = j.word ∧ k.core = j.core
          else t.fills.look? c = s.fills.look? c) ∧
    (let m := mmaFields j
      let hart : Hart := { s := s, j := j }
      let a (c r k : Nat) : Machine.Num :=
        j.aValue m c r k (Memory.readLE s.mem (spadKey c (m.aAddr r k).1.toNat) m.fa.readBytes)
      m.bad j = false →
      (∀ r k, r < m.rows → k < m.steps → (m.aAddr r k).1.toNat + max 1 (m.fa.width / 8) ≤ 0x20000) →
      (∀ c ∈ j.cores, good c 0 0x20000) → (hart.readB m).stopped = false →
      ∀ p ∈ [(Instr.mma n, 1), (.mmat n, 2)], BodyReady s n j 0 p.2 ⟨1, 71⟩ →
        ends p.1 (4 * m.rows * m.cols * members) fun t => t.mem = s.mem ∧
          accs t fun c k r q x =>
            if c ∈ j.cores ∧ k = m.acc ∧ r < m.rows ∧ q < m.cols then
              x = BitVec.ofNat 32 (accumulate (a c r) (hart.bElem m q) m.steps (groupLength m.fa m.fb)
                (ceilDiv m.steps (groupLength m.fa m.fb)) 0
                (if m.clear then 0 else ((s.core c).accAt m.acc r q).toNat)).1
            else x = (s.core c).accAt k r q)

/-- JOB_COMPLETION of a single job whose body has ended, its kicking thread on a context: the job leaves, its token
takes the completion word and the first faulting address, its flags are ORed into FPSTAT; a failed job without a token
leaves a record in the SFRQ; mode 1 sends its notice to the kicking core, mode 2 arrives at its barrier with the
delivered bytes once the port is free, and has status 0x04 for an offset outside the scratchpad (R81-R85, R143, R169,
R319). While the port is busy it waits. -/
def Obligations.JobCompletions : Prop :=
  ∀ (s : State) (n k d : Nat) (j : Job) (m : Member), s.jobs.look? n = some j → j.state = .bodyDone →
    j.tokenOnly = false → j.members = [m] → m.ctx = k → m.d = d → (s.ctx k).isRunning = true → k % 4 ≠ 3 → k < 9216 →
    (s.thAt k).isTid j.part m.tid = true →
    let w : CmdWord := j.word
    let word (status : Nat) := BitVec.ofNat 64 (status * 2 ^ 56 + (s.countFlush j).delivered % 2 ^ 48)
    let busy := (s.core (coreOfCtx k)).portBusy
    (w.mode = 2 → busy = true → exec (.jobCompletion n) s = .next s) ∧
    (w.mode = 0 ∨ w.mode = 3 →
      ∃ t, exec (.jobCompletion n) s = .next t ∧ t.mem = s.mem ∧ t.mesh.length = s.mesh.length ∧ t.jobs = s.jobs.erase n ∧
        (t.thAt k).fpstat = (s.thAt k).fpstat ||| j.flags ∧ (t.thAt k).pc = (s.thAt k).pc ∧
        (1 ≤ d → (s.thAt k).token d = .pending n → (t.thAt k).S d = word j.status.toNat ∧
          (t.thAt k).token d = .done j.faultAddr ∧
          ∀ r, r ≠ d → (t.thAt k).S r = (s.thAt k).S r ∧ (t.thAt k).token r = (s.thAt k).token r) ∧
        (1 ≤ d → (s.thAt k).token d ≠ .pending n → ∀ r, (t.thAt k).S r = (s.thAt k).S r) ∧
        (d = 0 → 1 ≤ j.status.toNat → j.status.toNat ≤ 6 → (s.thAt k).sfrq.length < 8 →
          (t.thAt k).sfrq = (s.thAt k).sfrq ++ [(sfrqRecord 3 7 j.faultAddr, m.posted)])) ∧
    (w.mode = 1 →
      ∃ t x, exec (.jobCompletion n) s = .next t ∧ t.mesh.getLast? = some x ∧ t.mesh.length = s.mesh.length + 1 ∧
        hKind x.header = 5 ∧ hCore x.header = coreOfCtx k ∧ hExact x.header = true ∧ hEntry x.header = w.notify ∧
        x.payload = [word j.status.toNat, BitVec.ofNat 64 ((s.meshOf k).toNat + w.cls * 2 ^ 32)] ∧ x.part = j.part ∧
        x.launch = j.launch ∧ t.mem = s.mem) ∧
    (w.mode = 2 → busy = false → w.notify ≤ 0x1FFE8 →
      ∃ (t u : State), exec (.jobCompletion n) s = .next t ∧
        t = ((u.usePort (coreOfCtx k)).arriveBarrier (coreOfCtx k) w.notify (s.countFlush j).delivered).1 ∧
        u.mem = s.mem ∧ u.jobs = s.jobs.erase n ∧
        (1 ≤ d → (s.thAt k).token d = .pending n → (u.thAt k).S d = word j.status.toNat)) ∧
    (w.mode = 2 → busy = false → 0x1FFE8 < w.notify → (s.thAt k).token d = .pending n → 1 ≤ d →
      ∃ t, exec (.jobCompletion n) s = .next t ∧ t.mem = s.mem ∧
        (t.thAt k).S d = word (if j.status = 0 then 0x04 else j.status.toNat))

/-! ## Population domains (R170-R185, R325, R342, R380, R394) -/

/-- Ranks and pairs (R178, R179): the ranking is a permutation in which no slot stands before a better one, NaN below
every number and the lower slot first among equals; the losers of TRUNC are the last q ranks and its parents lie among
the first q; under TOURN no rank is in two pairs. The jobs of a domain on their turn: a bad word, an unnamed domain, an
impossible pair or ring fails with status 0x04; SELROUND begins a round; CALVE copies the parent's genome over a
quiescent loser's (without perturbation, byte for byte, where the two genomes share no byte and no bank refreshes) and
owes one record, or has status 0x07 and changes no genome; DRIFT asks the other chip; MORAINE sets or flushes the ring.
A producer field that a program has written holds no stated value (log 5). -/
def Obligations.RankingAndSelection : Prop :=
  ((∀ xs : List (Nat × BitVec 32), (rankSlots xs).Perm xs ∧
     (rankSlots xs).Pairwise (fun a b => ranksBetter b a = false)) ∧
   (∀ (i j : Nat) (x y : BitVec 32),
     let a := Fmt.fp32.decode x.toNat
     let b := Fmt.fp32.decode y.toNat
     (a.isNan = false → b.isNan = true → ranksBetter (i, x) (j, y) = true) ∧
     (b.lt a = true → ranksBetter (i, x) (j, y) = true) ∧
     (a.eq b = true ∨ (a.isNan = true ∧ b.isNan = true) → ranksBetter (i, x) (j, y) = decide (i < j))) ∧
   (∀ (d : Desc) (rk : Word), d.policy = 0 →
     (roundPairs d rk).map (·.1) = (List.range d.q).map (fun i => d.slotCount - d.q + i) ∧
     ∀ p ∈ roundPairs d rk, p.2 < d.q) ∧
   (∀ (d : Desc) (rk : Word), d.policy = 2 → roundPairs d rk = []) ∧
   ∀ (rk : Word) (k q fuel : Nat) (a : List Nat), 1 ≤ k → a.Nodup →
     ((tournPairs rk k q fuel 0 a []).flatMap fun p => [p.1, p.2]).Nodup ∧ (tournPairs rk k q fuel 0 a []).length ≤ q ∧
     ∀ p ∈ tournPairs rk k q fuel 0 a [], p.1 ∈ a ∧ p.2 ∈ a) ∧
  (∀ (s : State) (n k : Nat) (j : Job) (d : Domain), s.jobs.look? n = some j →
     let w : CmdWord := j.word
     let ended (status : BitVec 8) (bytes : Nat) (addr : Word) : Job :=
       { j with state := .bodyDone, status := status, delivered := bytes, faultAddr := addr, tokenOnly := CmdWord.tokenOnly j.word }
     let is : List (Instr × Nat × Layout) :=
       [(.selround n, 1, ⟨0, 136⟩), (.calve n, 2, ⟨0, 104⟩), (.drift n, 3, ⟨0, 104⟩)]
     let loser := w.bits 120 16
     let parent := w.bits 104 16
     let adr := BitVec.ofNat 64 (w.bits 136 64)
     (s.selTurn n j = false → ∀ i ∈ [Instr.selround n, .calve n, .drift n, .moraineSet n, .moraineFlush n],
       exec i s = .next s) ∧
     (s.selTurn n j = true → ∀ p ∈ is, w.opcode = p.2.1 →
       p.2.2.bad w = true ∨ w.bits 136 6 ≠ 0 ∨ s.selDomain j = none →
       exec p.1 s = .next (s.setJob n (ended 0x04 0 0))) ∧
     (s.selTurn n j = true → s.selDomain j = some k → s.domains.look? k = some d → w.bits 136 6 = 0 →
       (w.opcode = 1 → Layout.bad ⟨0, 136⟩ w = false → s.descFaults n .read = false →
         exec (.selround n) s = .next ((s.setJob n { j with state := .running }).setDomain k
           { d with job := some n, phase := .begin_, timers := s.timersOf k d })) ∧
       (w.opcode = 2 → Layout.bad ⟨0, 104⟩ w = false → ∀ l e, d.slots[loser]? = some l → d.slots[parent]? = some e →
         (loser = parent ∨ l.chip ≠ s.pkg.chip ∨ e.chip ≠ s.pkg.chip →
           ∃ q, exec (.calve n) s = .next (s.setJob n q) ∧ q.state = .bodyDone ∧ q.status = 0x04 ∧ q.delivered = 0) ∧
         (loser ≠ parent → l.chip = s.pkg.chip → e.chip = s.pkg.chip → s.descFaults n .read = false →
           let total := (d.genome.map (·.len)).sum
           let free (c : SlotEntry) : Prop := ∀ r ∈ d.genome, ∀ i, i < r.len →
             s.portHolds (glacierKey (dieOf c.core) (c.base * 65536 + r.off + i)) none = false
           (s.busy d.launches (slotCores (Desc.slotKind d.desc) l) = true →
             ∃ (u : State) (x : Domain), exec (.calve n) s = .next (u.settled k) ∧ u.mem = s.mem ∧ u.domains.look? k = some x ∧
               x.fin = some (0, 0, 0) ∧ x.owed.length = d.owed.length + 1) ∧
           (s.busy d.launches (slotCores (Desc.slotKind d.desc) l) = false → Desc.gauss d.desc = false →
             d.ranges.all GenRange.ok = true → dieOf l.core < 4 →
             (∀ g, s.badGranule? (glacierKey (dieOf e.core) g) 1 = none) →
             (∀ g, s.boundBy (dieOf l.core) g (some k) = false) → free l → free e →
             (∀ r ∈ d.genome, ∀ q ∈ d.genome, ∀ i i', i < r.len → i' < q.len →
               glacierKey (dieOf l.core) (l.base * 65536 + r.off + i) ≠
                 glacierKey (dieOf e.core) (e.base * 65536 + q.off + i')) →
             ∃ (u : State) (x : Domain), exec (.calve n) s = .next (u.settled k) ∧ u.domains.look? k = some x ∧ x.fin = some (0, total, 0) ∧
               x.suspended = none ∧ x.owed.length = d.owed.length + 1 ∧
               ∀ r ∈ d.genome, ∀ i, i < r.len →
                 Memory.readLE u.mem (glacierKey (dieOf l.core) (l.base * 65536 + r.off + i)) 1 =
                   Memory.readLE s.mem (glacierKey (dieOf e.core) (e.base * 65536 + r.off + i)) 1))) ∧
       (w.opcode = 3 → Layout.bad ⟨0, 104⟩ w = false → ∀ l e, d.slots[loser]? = some l → d.slots[parent]? = some e →
         (loser = parent ∨ ((l.chip = s.pkg.chip) ↔ (e.chip = s.pkg.chip)) →
           ∃ q, exec (.drift n) s = .next (s.setJob n q) ∧ q.state = .bodyDone ∧ q.status = 0x04 ∧ q.delivered = 0) ∧
         (loser ≠ parent → ¬((l.chip = s.pkg.chip) ↔ (e.chip = s.pkg.chip)) → s.descFaults n .read = false → d.readies = [] →
           let peer := if l.chip = s.pkg.chip then e.chip else l.chip
           s.pkg.isDown peer = false →
           ∃ t x dr, exec (.drift n) s = .next t ∧ t.domains.look? k = some x ∧ x.drift = some dr ∧
             dr.pair = ⟨loser, parent⟩ ∧ dr.peer = peer ∧ dr.loserHere = decide (l.chip = s.pkg.chip) ∧
             dr.asked = dr.loserHere ∧ dr.job = some n ∧ dr.streamed = false ∧ dr.round = s.roundField k ∧ t.mem = s.mem ∧
             t.outbox = s.outbox ++ [Fabric.driftRequest peer d.domainId.toNat (s.roundField k) loser parent])) ∧
       (w.opcode = 4 → Layout.bad ⟨0, 64⟩ w = false →
         let base := w.bits 70 64
         let size := w.bits 64 6
         (w.bits 134 2 = 1 → s.descFaults n .write = false →
           (base % 64 ≠ 0 ∨ base < 0x20000 ∨ size < 4 ∨ 20 < size ∨ s.producer k ≠ s.consumer k →
             ∃ q, exec (.moraineSet n) s = .next (s.setJob n q) ∧ q.state = .bodyDone ∧ q.status = 0x04) ∧
           (base % 64 = 0 → 0x20000 ≤ base → 4 ≤ size → size ≤ 20 → s.producer k = s.consumer k →
             let u := (s.domainWrite d (d.addr + 0x30) 8 (base + size)).domainWrite d (d.addr + 0x40) 8 0
             ∃ t q x v, exec (.moraineSet n) s = .next t ∧ t.jobs.look? n = some q ∧ q.state = .bodyDone ∧ q.status = 0 ∧
               t.mem = (u.domainWrite d (d.addr + 0x38) 8 v).mem ∧
               (d.spoiltProducer = false → u.spoils d d.producerAddr d.produced = false → v = 0) ∧
               t.domains.look? k = some x ∧ x.produced = 0 ∧ x.desc = d.desc.set 6 (BitVec.ofNat 64 (base + size)))) ∧
         (w.bits 134 2 = 0 → base = 0 → size = 0 → s.descFaults n .read = false →
           ∃ t q, exec (.moraineFlush n) s = .next t ∧ t.mem = s.mem ∧ t.jobs.look? n = some q ∧ q.state = .bodyDone ∧
             q.status = 0 ∧ q.delivered = 64 * (s.producer k - s.consumer k).toNat) ∧
         (w.bits 134 2 = 0 → base ≠ 0 ∨ size ≠ 0 →
           ∃ q, exec (.moraineFlush n) s = .next (s.setJob n q) ∧ q.state = .bodyDone ∧ q.status = 0x04)) ∧
       (s.descFaults n .read = true → w.opcode = 1 → Layout.bad ⟨0, 136⟩ w = false →
         ∃ q, exec (.selround n) s = .next (s.setJob n q) ∧ q.state = .bodyDone ∧ q.status = 0x01 ∧ q.faultAddr = adr)))

/-- Rounds (R176, R177, R185): the timer names the instants that fall outside a round; a round takes its number and
key, snapshots the local fitness and tells every other chip; with every chip heard it ranks the slots and owes its
summary; an owed record is written where the ring has space. An exchange message is kept unless its round has failed
meanwhile, and refused by a chip without the domain. A field that a program has written holds no stated value (log 5).
Drifts between chips (R183, R342): a request that names no domain here is refused; the loser's chip answers a request
with a busy loser by a refusal, and with a quiescent one by its readiness, and so does the chip of a DRIFT job whose
loser lies here, once its request is accepted (log 55); the parent's chip then streams its genome; the loser's chip
writes the stream and acknowledges; the acknowledgement owes the parent's record, or refuses the job. -/
def Obligations.RoundsAndDrifts : Prop :=
  (∀ (s : State) (k : Nat) (d : Domain), s.domains.look? k = some d →
     let waits : Prop := (s.producer k - s.consumer k).toNat = 2 ^ Desc.ringSize d.desc
     (Desc.period d.desc ≠ 0 → d.lastTimer < s.time.ns / Desc.period d.desc →
       exec (.selectionTimer k) s = .next (s.setDomain k { d with
         lastTimer := s.time.ns / Desc.period d.desc,
         timers := if d.phase = .idle then d.timers ++ [(s.nextId, s.bCycle)] else d.timers })) ∧
     (Desc.period d.desc = 0 ∨ s.time.ns / Desc.period d.desc ≤ d.lastTimer → exec (.selectionTimer k) s = .next s) ∧
     (d.requests = [] → d.owed = [] → d.fin = none → d.drift = none → d.calve = none →
       (d.phase = .idle → s.timerTurn k d = true →
         exec (.selectionRound k) s = .next (s.setDomain k { d with phase := .begin_, timers := (s.timersOf k d).drop 1 })) ∧
       (d.phase = .begin_ → ∃ t x v, exec (.selectionRound k) s = .next t ∧ t.domains.look? k = some x ∧
         x.phase = .exchange ∧ x.round = s.roundField k + 1 ∧ x.rk = flurry (Desc.seed d.desc) (s.roundField k + 1) ∧
         t.mem = (s.domainWrite d (d.addr + 0x48) 8 v).mem ∧ x.begun = d.begun + 1 ∧
         (d.spoiltRound = false → s.spoils d d.roundAddr d.begun = false → v = (d.begun + 1).toNat) ∧
         t.outbox = s.outbox ++ (d.others s.pkg.chip).map (fun c =>
           Fabric.fitness c d.domainId.toNat (s.roundField k + 1) x.fitness true) ∧
         x.fitness.map (·.1) = (List.range d.slots.length).filter fun i => d.chipOf i == s.pkg.chip) ∧
       (d.phase = .exchange → s.exchangeFailed d = false → s.exchangeDone d = false →
         exec (.selectionRound k) s = .next s) ∧
       (d.phase = .exchange → s.exchangeFailed d = false → s.exchangeDone d = true → waits →
         ∃ t x r ps, exec (.selectionRound k) s = .next t ∧ t.domains.look? k = some x ∧ x.phase = .pairs ps ∧
           x.owed = [r] ∧ r.length = 8 ∧ r.getD 0 0 = d.round.toNat ∧ t.mem = s.mem ∧
           ∀ p ∈ ps, d.chipOf p.loser = s.pkg.chip ∨ d.chipOf p.parent = s.pkg.chip) ∧
       (d.phase = .exchange → s.exchangeFailed d = true → waits →
         ∃ t x r, exec (.selectionRound k) s = .next t ∧ t.domains.look? k = some x ∧ x.phase = .pairs [] ∧ x.owed = [r] ∧
           r.getD 2 0 / 2 ^ 16 % 256 = 0x09 ∧ r.getD 2 0 / 2 ^ 24 % 256 = 3)) ∧
     (∀ r a p, d.owed = [r] → r.length = 8 → s.producer k = p → d.drift = none → d.fin = none → d.phase = .idle → ¬waits →
       s.unitKey d.part d.asid
         (BitVec.ofNat 64 (Desc.ringBase d.desc + 64 * (p.toNat % 2 ^ Desc.ringSize d.desc))) .write = some a →
       let u := s.land a ((r.set 1 s.time.ns).flatMap (leBytes 8))
       ∃ t x v, exec (.moraineRingSpace k) s = .next t ∧ t.domains.look? k = some x ∧ x.owed = [] ∧
         x.produced = d.produced + 1 ∧ t.mem = (u.domainWrite d (d.addr + 0x38) 8 v).mem ∧
         (d.spoiltProducer = false → u.spoils d d.producerAddr d.produced = false → v = (d.produced + 1).toNat)) ∧
     (∀ r, d.owed = [r] → d.drift = none → waits → exec (.moraineRingSpace k) s = .next s) ∧
     (∀ (id chip : Nat) (round : Word) (fit : List (Nat × BitVec 32)) (reg : Bool),
       (s.domainById id = some (k, d) → exec (.fitnessExchange id chip round fit reg) s =
         .next (s.setDomain k (if d.unheard.contains (chip, round) then { d with unheard := d.unheard.erase (chip, round) }
           else { d with inbox := d.inbox ++ [(chip, round, fit, reg)] }))) ∧
       (s.domainById id = none → exec (.fitnessExchange id chip round fit reg) s =
         .next { s with outbox := s.outbox ++ [Fabric.fitness chip id round [] false] }))) ∧
  ((∀ (s : State) (id chip loser parent : Nat) (round : Word), s.domainById id = none →
     exec (.driftRequest id chip round loser parent) s =
       .next { s with outbox := s.outbox ++ [Fabric.driftAck chip id round loser 0x04 0] }) ∧
   ∀ (s : State) (k : Nat) (d : Domain), s.domainById d.domainId.toNat = some (k, d) → s.domains.look? k = some d →
     let id := d.domainId.toNat
     let free (c : SlotEntry) : Prop := ∀ r ∈ d.genome, ∀ i, i < r.len →
       s.portHolds (glacierKey (dieOf c.core) (c.base * 65536 + r.off + i)) none = false
     d.owed = [] → d.fin = none → d.calve = none →
     (∀ (chip loser parent : Nat) (round : Word) (l : SlotEntry), d.drift = none → d.requests = [] →
       d.slots[loser]? = some l → l.chip = s.pkg.chip → d.chipOf parent = chip → chip ≠ s.pkg.chip → s.pkg.isDown chip = false →
       (s.busy d.launches (slotCores (Desc.slotKind d.desc) l) = true →
         ∃ (u : State) (x : Domain), exec (.driftRequest id chip round loser parent) s = .next (u.settled k) ∧
           u.domains.look? k = some x ∧ u.outbox = s.outbox ++ [Fabric.driftReady chip id round loser false] ∧
           x.drift = none ∧ x.owed.length = 1 ∧ x.records = d.records ∧ u.mem = s.mem) ∧
       (s.busy d.launches (slotCores (Desc.slotKind d.desc) l) = false →
         ∃ t x dr, exec (.driftRequest id chip round loser parent) s = .next t ∧ t.domains.look? k = some x ∧
           t.outbox = s.outbox ++ [Fabric.driftReady chip id round loser true] ∧ x.drift = some dr ∧
           x.suspended = some loser ∧ dr.pair = ⟨loser, parent⟩ ∧ dr.peer = chip ∧ dr.round = round ∧
           dr.loserHere = true ∧ dr.asked = false ∧ t.mem = s.mem)) ∧
     (∀ (dr : Drift) (l : SlotEntry), d.drift = some dr → dr.asked = true → dr.loserHere = true → dr.byRequest = true →
       d.slots[dr.pair.loser]? = some l →
       (s.busy d.launches (slotCores (Desc.slotKind d.desc) l) = true → dr.job.isSome = true →
         ∃ (u : State) (x : Domain), exec (.driftReady id dr.round dr.pair.loser true) s = .next (u.settled k) ∧
           u.domains.look? k = some x ∧ u.outbox = s.outbox ++ [Fabric.driftReady dr.peer id dr.round dr.pair.loser false] ∧
           x.drift = none ∧ x.fin = some (0, 0, 0) ∧ x.owed.length = 1 ∧ u.mem = s.mem) ∧
       (s.busy d.launches (slotCores (Desc.slotKind d.desc) l) = false →
         ∃ t x, exec (.driftReady id dr.round dr.pair.loser true) s = .next t ∧ t.domains.look? k = some x ∧
           t.outbox = s.outbox ++ [Fabric.driftReady dr.peer id dr.round dr.pair.loser true] ∧
           x.drift = some { dr with asked := false } ∧ x.suspended = some dr.pair.loser ∧ t.mem = s.mem)) ∧
     (∀ (dr : Drift) (e : SlotEntry), d.drift = some dr → dr.asked = false → dr.loserHere = false → dr.streamed = false →
       d.readies = [] → d.slots[dr.pair.parent]? = some e → Desc.gauss d.desc = false → d.ranges.all GenRange.ok = true →
       (∀ g, s.badGranule? (glacierKey (dieOf e.core) g) 1 = none) → free e →
       (∃ t x bytes, exec (.driftReady id dr.round dr.pair.loser true) s = .next t ∧ t.domains.look? k = some x ∧
         x.drift = some { dr with streamed := true, flags := 0 } ∧ t.mem = s.mem ∧
         t.outbox = s.outbox ++ [Fabric.driftStream dr.peer id dr.round dr.pair.loser bytes dr.parentFit 0] ∧
         bytes = d.genome.flatMap fun r =>
           (List.range r.len).map fun i => BitVec.ofNat 8
             (Memory.readLE s.mem (glacierKey (dieOf e.core) (e.base * 65536 + r.off + i)) 1))) ∧
     (∀ (dr : Drift) (l : SlotEntry) (r : GenRange) (bytes : List Byte) (fit : BitVec 32), d.drift = some dr →
       dr.loserHere = true → dr.asked = false → d.slots[dr.pair.loser]? = some l → d.genome = [r] → GenRange.ok r = true →
       bytes.length = r.len → (∀ g, s.boundBy (dieOf l.core) g (some k) = false) → (∀ q ∈ d.ranges, q.kind = 0) → free l →
       ∃ (u : State) (x : Domain), exec (.driftStream id dr.round dr.pair.loser bytes fit 0) s = .next (u.settled k) ∧
         u.domains.look? k = some x ∧
         u.mem = Memory.writeBytes s.mem (glacierKey (dieOf l.core) (l.base * 65536 + r.off)) bytes ∧
         x.drift = none ∧ x.suspended = none ∧ x.owed.length = 1 ∧
         u.outbox = s.outbox ++ [Fabric.driftAck dr.peer id dr.round dr.pair.loser 0 r.len]) ∧
     (∀ (dr : Drift) (status : BitVec 8) (bytes : Nat), d.drift = some dr →
       (dr.streamed = true → dr.job = none ∨ status ≠ 0x04 →
         ∃ (u : State) (x : Domain), exec (.driftAcknowledgement id dr.round dr.pair.loser status bytes) s =
             .next (u.settled k) ∧
           u.domains.look? k = some x ∧ x.drift = none ∧ x.owed.length = 1 ∧ u.mem = s.mem) ∧
       (dr.job.isSome = true → exec (.driftAcknowledgement id dr.round dr.pair.loser 0x04 bytes) s =
         .next ((s.setDomain k { d with drift := none, suspended := none, fin := some (0x04, 0, 0) }).settled k))))

/-! ## The life of a message (R31-R33, R45, R51-R63, R198) -/

/-- The walk and the arrival of a message that is not held: each hop on its die brings it one step nearer to its hint,
and one that a stop left in a stalled egress port stays there (R25); it is taken at the hint, or by an earlier core
that may take it; a message in error ends and counts where its launch has no notify handler; at its taking core it
enters a mailbox queue with room, waits at a full one, and is refused with reason 3 where the core's die is under
reset. The mailbox and the run queue of a core without saved work: one head in a V cycle goes where its kind says; the
lowest idle context takes the entry of the highest level; an entry that has waited 65,536 V cycles rises a level. -/
def Obligations.MessagesToWork : Prop :=
  ((∀ (at_ : Nat) (h : Word), at_ < 2304 → dieOf at_ = hDie h → at_ ≠ hCore h →
     hintDistance (nextRouter at_ h) h + 1 = hintDistance at_ h ∧ dieOf (nextRouter at_ h) = hDie h) ∧
   ∀ (s : State) (id : Nat) (m : Msg), s.mesh.find? (fun x => x.id == id) = some m → s.held m.launch = false →
     (m.taker = none → m.inPort = false → (∀ x ∈ s.earlierMsgs m, sameSource x m = true → x.taker ≠ none) →
       (s.msgFault m = none →
         (dieOf m.at_ = hDie m.header → m.at_ = hCore m.header ∨ s.takes m m.at_ = true →
           exec (.meshHop id) s = .next (s.updateMesh { m with taker := some m.at_ })) ∧
         (dieOf m.at_ ≠ hDie m.header ∨ (m.at_ ≠ hCore m.header ∧ s.takes m m.at_ = false) →
           exec (.meshHop id) s =
             .next (s.updateMesh { m with at_ := nextRouter m.at_ m.header, entered := true }))) ∧
       (s.msgFault m ≠ none → hKind m.header = 0 → m.origin ≠ .spawn → s.notifyOf m.launch = none →
         exec (.meshHop id) s = .next (({ s with mesh := s.mesh.filter fun x => x.id != m.id } : State).setPart m.part
           { s.part m.part with failflake := (s.part m.part).failflake + 1 }))) ∧
     (m.taker = none → m.inPort = true → s.egressBlocked m.at_ (hPrio m.header) = true → exec (.meshHop id) s = .next s) ∧
     (∀ core, m.taker = some core → m.thread = none → s.pkg.fenced.getLsbD (dieOf core) = true →
       (∀ x ∈ s.earlierMsgs m, sameSource x m = true → x.taker ≠ some core) →
       exec (.messageArrival id) s =
         .next (({ s with mesh := s.mesh.filter fun x => x.id != m.id } : State).refuse m core 3)) ∧
     (∀ core, m.taker = some core → m.thread = none → s.hasCore m.part core = true →
       s.pkg.fenced.getLsbD (dieOf core) = false →
       (∀ x ∈ s.earlierMsgs m, sameSource x m = true → x.taker ≠ some core) →
       let queue := (s.core core).mail.filter fun x => hPrio x.header == hPrio m.header
       let room := if hPrio m.header ≤ 1 then 16 else 8
       (room ≤ queue.length → exec (.messageArrival id) s = .next (s.updateMesh { m with blocked := true })) ∧
       (queue.length < room → ∃ t, exec (.messageArrival id) s = .next t ∧ t.mem = s.mem ∧ t.ctxs = s.ctxs ∧
         t.mesh = s.mesh.filter (fun x => x.id != m.id) ∧
         (t.core core).mail = (s.core core).mail ++ [{ m with blocked := false }] ∧
         ∀ c, c ≠ core → t.core c = s.core c))) ∧
  (∀ (s : State) (core : Nat), (s.core core).backlog = [] →
     (s.nextMail core = none ∨ (s.core core).mailBusy = true → exec (.mailboxAdvance core) s = .next s) ∧
     (∀ m, s.nextMail core = some m →
       (hKind m.header = 6 → exec (.mailboxAdvance core) s = .next ((s.usedMail core).leaveMail core m.id)) ∧
       (hKind m.header = 4 → ∃ t, exec (.mailboxAdvance core) s = .next t ∧ t.mem = s.mem ∧
         (∀ c, t.core c = if c = core then { s.core c with mailBusy := true } else s.core c) ∧ (t.ctx (svcCtx core)).mode = .starting m) ∧
       (hKind m.header = 1 ∨ hKind m.header = 3 → m.payload.length ≤ 31 →
         let n := (hEntry m.header + 1) / 2
         ∃ t f, exec (.mailboxAdvance core) s = .next t ∧ t.mem = s.mem ∧ (t.core core).mail = (s.core core).mail ∧
           (t.core core).rrc = [] ∧ (t.ctx (svcCtx core)).mode = .running ∧ (t.thAt (svcCtx core)).flake = some f ∧
           f.msg = m.id ∧ f.chain = m.payload.getD 0 0 ∧
           f.code = unpackCode (m.payload.drop 1) (hEntry m.header) ∧ (t.thAt (svcCtx core)).pc = 0 ∧
           (t.thAt (svcCtx core)).S 3 = senderWord m.sender ∧
           ∀ i, 1 + n + i < m.payload.length → 4 + i < 32 →
             (t.thAt (svcCtx core)).S (4 + i) = m.payload.getD (1 + n + i) 0) ∧
       (hKind m.header = 0 ∨ hKind m.header = 7 ∨ (hKind m.header = 5 ∧ hEntry m.header ≠ 0xFFFFFFFF) →
         m.thread = none →
         ∃ t, exec (.mailboxAdvance core) s = .next t ∧ t.mem = s.mem ∧ t.ctxs = s.ctxs ∧
           (t.core core).mail = (s.core core).mail.filter (fun x => x.id != m.id) ∧
           (t.core core).runq = (s.core core).runq ++ [⟨.msg m, hPrio m.header, 0⟩])) ∧
     (∀ k e, s.idleCtx? core = some k → s.nextEntry core = some e →
       (∀ l ∈ (s.core core).runq, (∀ q, l.entry = .msg q → s.held q.launch = false) →
         (∀ q, l.entry = .thread q → s.held q.launch = false) → l.level ≤ 3 → l.level ≤ e.level) ∧
       (∀ j, j < k → j / 4 = core → (s.ctx j).isIdle = false) ∧
       (∀ m, e.entry = .msg m → ∃ t, exec (.runQueueTake core) s = .next t ∧ t.mem = s.mem ∧
         (t.ctx k).mode = .starting m ∧ (t.core core).runq = (s.core core).runq.erase e ∧
         ∀ j, j ≠ k → t.ctx j = s.ctx j) ∧
       (∀ th, e.entry = .thread th → th.request = 0 → ∃ t, exec (.runQueueTake core) s = .next t ∧ t.mem = s.mem ∧
         t.ctx k = { mode := .running, th := th } ∧ (t.core core).runq = (s.core core).runq.erase e ∧
         ∀ j, j ≠ k → t.ctx j = s.ctx j)) ∧
     (s.idleCtx? core = none ∨ s.nextEntry core = none → exec (.runQueueTake core) s = .next s) ∧
     ((∀ e ∈ (s.core core).runq, e.waited < 65536 ∨ 3 ≤ e.level) → exec (.runQueueAging core) s = .next s) ∧
     (∀ before e after, (s.core core).runq = before ++ e :: after → (∀ x ∈ before, x.waited < 65536 ∨ 3 ≤ x.level) →
       65536 ≤ e.waited → e.level < 3 →
       ∃ t, exec (.runQueueAging core) s = .next t ∧ t.mem = s.mem ∧ t.ctxs = s.ctxs ∧
         (t.core core).runq = ((s.core core).runq.erase e) ++ [{ e with level := e.level + 1, waited := 0 }]))

/-- The start of a message's work on a context (R26, R34, R55, R57, R209): the registers and the thread number that a
handler, a spawned thread and a notice begin with, as an acquire; a migrated thread takes its context from the payload
(R36), one of another chip all of it. The flakes of the service context: the atomic port performs the operation of a
kind-4 message at its owner and replies with the old value, or with a cause and no effect, one in a V cycle (R101); the
reply completes the waiting instruction or makes it trap; an overrun or a trap ends the flake and frees its mailbox
entry (R60-R63). -/
def Obligations.WorkAndFlakes : Prop :=
  (∀ (s : State) (k : Nat) (m : Msg), (s.ctx k).mode = .starting m → s.held m.launch = false →
     (hKind m.header ≠ 2 → m.payload.length ≤ if m.origin = .spawn then 31 else 28) →
     let starts (i : Instr) (P : Thread → Prop) : Prop :=
       ∃ t, exec i s = .next t ∧ t.mem = s.mem ∧ (t.ctx k).mode = .running ∧ (t.core (coreOfCtx k)).rrc = [] ∧
         (∀ j, j ≠ k → t.ctx j = s.ctx j) ∧ (t.thAt k).wait = .ready ∧ P (t.thAt k)
     let fresh (th : Thread) : Prop :=
       th.pc = s.codeBase m.launch + BitVec.ofNat 64 (4 * hEntry m.header) ∧ th.tid = (s.part m.part).nextTid ∧
         th.launch = m.launch ∧ th.part = m.part ∧ th.asid = m.asid ∧ th.S 2 = 0x20000 ∧ th.S 0 = 0 ∧ th.S 1 = 0 ∧
         th.flurcnt = 0 ∧ th.nest = false ∧ th.sfrq = [] ∧ th.request = 0 ∧ th.vl = 0 ∧ th.imx = none ∧ th.done = 0
     let payload (th : Thread) : Prop :=
       (∀ i, i < m.payload.length → th.S (4 + i) = m.payload.getD i 0) ∧ th.level = hPrio m.header ∧ th.lev = m.lev
     let named (th : Thread) : Prop := th.S 3 = senderWord m.sender ∧
       th.srseed = flurry (s.seedOf m.launch) (BitVec.ofNat 64 (m.sender.toNat * 2 ^ 32 + hEntry m.header))
     (hKind m.header = 0 → m.origin ≠ .spawn →
       starts (.handlerFlakeStart k) fun th => fresh th ∧ payload th ∧ named th) ∧
     (hKind m.header = 5 → starts (.completionFlake k) fun th => fresh th ∧ payload th ∧ named th) ∧
     (hKind m.header = 7 → starts (.ratioNotice k) fun th => fresh th ∧ payload th) ∧
     (hKind m.header = 0 → m.origin = .spawn → starts (.handlerFlakeStart k) fun th => fresh th ∧
       (∀ i, 3 + i < m.payload.length → th.S (3 + i) = m.payload.getD (3 + i) 0) ∧ th.join = m.payload.getD 0 0 ∧
       th.srseed = m.payload.getD 1 0 ∧ th.level = (m.payload.getD 2 0).toNat / 2 ^ 24 % 4) ∧
     (∀ th, hKind m.header = 2 → m.thread = some th → th.wait = .ready →
       starts (.threadMessageArrival k) fun u => u.pc = m.payload.getD 0 0 ∧
         (∀ r, 1 ≤ r → r < 32 → u.S r = m.payload.getD r 0) ∧ u.asid = (m.payload.getD 32 0).setWidth 16 ∧
         u.join = m.payload.getD 33 0 ∧ u.srseed = m.payload.getD 34 0 ∧ u.flurcnt = m.payload.getD 35 0 ∧
         u.tid = (m.payload.getD 36 0).toNat / 2 ^ 32 ∧ u.level = (m.payload.getD 36 0).toNat / 2 ^ 24 % 4 ∧
         u.launch = th.launch ∧ u.part = th.part ∧ u.m = th.m ∧ u.v = th.v) ∧
     (hKind m.header = 2 → m.thread = none →
       starts (.threadMessageArrival k) fun u => u.pc = m.payload.getD 0 0 ∧
         (∀ r, 1 ≤ r → r < 32 → u.S r = m.payload.getD r 0) ∧ u.asid = (m.payload.getD 32 0).setWidth 16 ∧
         u.join = m.payload.getD 33 0 ∧ u.srseed = m.payload.getD 34 0 ∧ u.flurcnt = m.payload.getD 35 0 ∧
         u.tid = (m.payload.getD 36 0).toNat / 2 ^ 32 ∧ u.launch = m.launch ∧ u.part = m.part)) ∧
  ((∀ (s : State) (core : Nat), s.portTaken core = true → exec (.atomicFlake core) s = .next s) ∧
   (∀ (s : State) (core off : Nat) (m : Msg), (s.ctx (svcCtx core)).mode = .starting m → hKind m.header = 4 →
     s.portTaken core = false →
     let w := m.payload.getD 1 0
     let op := w.toNat / 2 ^ 16 % 256
     let n := 2 ^ (w.toNat / 2 ^ 3 % 4)
     let x := (m.payload.getD 2 0).toNat % 256 ^ n
     let exp := (m.payload.getD 3 0).toNat % 256 ^ n
     let key := spadKey core off
     let old := Memory.readLE s.mem key n
     let replies (t : State) (value : Word) (status : Nat) : Prop := (t.core core).portBusy = true ∧
       ∃ r, t.mesh = s.mesh ++ [r] ∧ hKind r.header = 5 ∧ hEntry r.header = 0xFFFFFFFF ∧ r.payload.head? = some value ∧
         (r.payload.getD 1 0).toNat % 256 = status ∧ (r.payload.getD 1 0).toNat / 256 % 4 = w.toNat / 2 ^ 24 % 4 ∧
         (t.ctx (svcCtx core)).mode = .idle ∧ (t.core core).mail = (s.core core).mail.filter fun y => y.id != m.id
     core < 2304 → m.payload.getD 0 0 = BitVec.ofNat 64 key → off < 0x20000 →
     (s.badGranule? key n = none → op = 0x4F → ∃ t, exec (.atomicFlake core) s = .next t ∧
       replies t (BitVec.ofNat 64 old) 0 ∧ SameOutside s t key n ∧
       Memory.readLE t.mem key n = atomValue (w.toNat / 2 ^ 5 % 16) n old x % 256 ^ n) ∧
     (s.badGranule? key n = none → op = 0x50 → ∃ t, exec (.atomicFlake core) s = .next t ∧
       replies t (BitVec.ofNat 64 old) 0 ∧ SameOutside s t key n ∧
       Memory.readLE t.mem key n = if old = exp then x else old) ∧
     (s.badGranule? key n ≠ none → op = 0x4F ∨ op = 0x50 → ∃ t, exec (.atomicFlake core) s = .next t ∧
       replies t 0 0x14 ∧ t.mem = s.mem)) ∧
   (∀ (s : State) (core id d : Nat) (addr : Word) (m : Msg) (k : Nat) (p : Option Nat),
     s.mailReady core = true →
     (s.core core).mail.find? (fun x => x.id == id) = some m → hKind m.header = 5 → hEntry m.header = 0xFFFFFFFF →
     ((s.core core).mail.filter fun x => hPrio x.header == hPrio m.header).head? = some m →
     let w := (m.payload.getD 1 0).toNat
     k = core * 4 + w / 256 % 4 →
     let left (t : State) : Prop := (t.core core).mail = (s.core core).mail.filter (fun x => x.id != m.id) ∧ t.cur = s.cur
     (w % 256 = 0 → (s.thAt k).wait = .reply (.atom d) addr p → ∃ t, exec (.atomicReply core id) s = .next t ∧ left t ∧
       t.mem = s.mem ∧ (t.thAt k).wait = .ready ∧ (t.thAt k).pc = (s.thAt k).at_ + 4 ∧
       (∀ r, (t.thAt k).S r = if r = 0 then 0 else if r = d then m.payload.getD 0 0 else (s.thAt k).S r) ∧
       ∀ j, j ≠ k → t.ctx j = s.ctx j) ∧
     (∀ exp, w % 256 = 0 → d ≠ 0 → (s.thAt k).wait = .reply (.cas d exp) addr p →
       ∃ t, exec (.atomicReply core id) s = .next t ∧ left t ∧ (t.thAt k).wait = .ready ∧
         (t.thAt k).S d = m.payload.getD 0 0 ∧ (t.thAt k).S (d + 1) = if m.payload.getD 0 0 = exp then 0 else 1) ∧
     (w % 256 ≠ 0 → w % 256 ≠ 1 → (s.thAt k).wait = .reply (.atom d) addr p → s.stopping (s.thAt k).launch = false →
       exec (.atomicReply core id) s =
         .next { ((s.usedMail core).leaveMail core m.id).trapAt k (BitVec.ofNat 8 (w % 256)) addr with cur := s.cur })) ∧
   (∀ (s : State) (core : Nat) (f : Flake) (cause : BitVec 8) (addr : Word), (s.thAt (svcCtx core)).flake = some f →
     let finishes (i : Instr) : Prop := ∃ t, exec i s = .next t ∧ t.ctx (svcCtx core) = {} ∧ t.mem = s.mem ∧
       (t.core core).mail = ((s.core core).mail.filter fun x => x.id != f.msg) ∧ ∀ j, j ≠ svcCtx core → t.ctx j = s.ctx j
     (64 ≤ f.spent → finishes (.flakeOverrun core)) ∧ (f.spent < 64 → exec (.flakeOverrun core) s = .next s) ∧
     finishes (.serviceFlakeTrap core cause addr)))

/-! ## Traps, memory and counters on their own (R29, R73, R78, R79, R233-R242, R266-R268, R320) -/

/-- The traps that the hardware raises at a boundary, in an address space with a vector and with no handler running: the
head record of the SFRQ, whose SKID wraps at 16 bits (DEDUCED, log 81), a precise cause, a dead queue and a
ring stall; the end of a killed thread; a barrier past its deadline. Where its condition does not hold, an event changes
nothing, but that a ring stall at run level 0 begins its count of failures again (DEDUCED, log 86). -/
def Obligations.BoundaryTraps : Prop :=
  ∀ (s : State) (k : Nat), (s.thAt k).flake = none → k % 4 ≠ 3 →
    let th := s.thAt k
    let silent : List (BitVec 8) := [Cause.illegal, Cause.priv, Cause.noLanes, Cause.qdead, Cause.svc, Cause.bkpt]
    let named : List (BitVec 8) := [Cause.misalign, Cause.ifetchFault, Cause.loadFault, Cause.storeFault, Cause.capFault,
      Cause.atomUncarried, Cause.migrateBlocked, Cause.jobFault, Cause.copyCount, Cause.mchk]
    let enters (t : State) (cause : BitVec 8) (addr : Word) (imprecise notice : Bool) : Prop :=
      (t.thAt k).cause = cause ∧ (t.thAt k).taddr = addr ∧ (t.thAt k).imprecise = imprecise ∧
        (t.thAt k).notice = notice ∧ (t.thAt k).epc = th.pc ∧ (t.thAt k).plev = th.lev ∧ (t.thAt k).lev = true ∧
        (t.thAt k).nest = true ∧ (t.thAt k).pc = s.tvec.get 0 th.asid.toNat ∧ (t.thAt k).wait = .ready ∧
        (∀ r, (t.thAt k).S r = th.S r) ∧ (t.thAt k).sfrq = th.sfrq ∧ t.mem = s.mem ∧ ∀ j, j ≠ k → t.ctx j = s.ctx j
    (s.atBoundary k = true → th.nest = false → s.tvec.get 0 th.asid.toNat ≠ 0 →
      (∀ r posted rest, th.sfrq = (r, posted) :: rest → s.stopped k = false → ∃ t, exec (.impreciseTrap k) s = .next t ∧
        enters t (if r.toNat / 2 ^ 59 = 3 then 0x0C else 0x07) (BitVec.ofNat 64 (r.toNat % 2 ^ 56)) true false ∧
        (t.thAt k).skid = BitVec.ofNat 16 (th.done - posted)) ∧
      (∀ addr, ∀ cause ∈ silent, ∃ t, exec (.preciseTrap k cause addr) s = .next t ∧ enters t cause 0 false false) ∧
      (∀ addr, ∀ cause ∈ named, ∃ t, exec (.preciseTrap k cause addr) s = .next t ∧ enters t cause addr false false) ∧
      (∀ addr, 65536 ≤ th.ringFails → th.rn = true → ∃ t, exec (.ringStall k addr) s = .next t ∧
        enters t 0x0F addr false true ∧ (t.thAt k).ringFails = 0)) ∧
    (s.atBoundary k = false ∨ th.nest = true ∨ th.sfrq = [] ∨ s.stopped k = true → exec (.impreciseTrap k) s = .next s) ∧
    (∀ cause addr, s.atBoundary k = false ∨ cause ∉ silent ++ named → exec (.preciseTrap k cause addr) s = .next s) ∧
    (∀ addr, (th.ringFails < 65536 → exec (.ringStall k addr) s = .next s) ∧
      (65536 ≤ th.ringFails → th.rn = false →
        exec (.ringStall k addr) s = .next (s.setThAt k { th with ringFails := 0 })) ∧
      (65536 ≤ th.ringFails → th.rn = true → th.nest = true → exec (.ringStall k addr) s =
        .next (s.setThAt k { th with ringFails := 0, ringNote := some (th.ringNote.getD addr) }))) ∧
    (s.killDue k = true → ∃ t, exec (.kill k) s = .next t ∧ t.ctx k = {} ∧ t.mem = s.mem ∧
      (th.join ≠ 0 → ⟨th.join, true, th.part, th.tid, false, none⟩ ∈ t.decrements)) ∧
    (s.killDue k = false → exec (.kill k) s = .next s) ∧
    (∀ core, (s.core core).qdead < 2 ^ 20 ∨ s.queuesDead core = false → exec (.qdead core) s = .next s) ∧
    (∀ core, 2 ^ 20 ≤ (s.core core).qdead → s.queuesDead core = true →
      (∀ j ∈ userCtxs core, (s.ctx j).isRunning = true →
        (s.thAt j).flake = none ∧ (s.thAt j).nest = false ∧ s.tvec.get 0 (s.thAt j).asid.toNat ≠ 0) →
      ∃ t, exec (.qdead core) s = .next t ∧ (t.core core).qdead = 0 ∧ t.mem = s.mem ∧
        ∀ j ∈ userCtxs core, (s.ctx j).isRunning = true → (t.thAt j).cause = 0x0E ∧ (t.thAt j).epc = (s.thAt j).pc ∧
          (t.thAt j).nest = true ∧ (t.thAt j).pc = s.tvec.get 0 (s.thAt j).asid.toNat) ∧
    (∀ core off, let key := spadKey core off
      let w := Memory.readLE s.mem key 8
      let late := Memory.readLE s.mem (key + 16) 8
      (w / 256 % 4 = 0 → late ≠ 0 → late ≤ s.time.ns →
        ∃ t, exec (.barrierDeadline core off) s = .next t ∧ Memory.readLE t.mem key 8 = w + 2 * 256 ∧
          SameOutside s t key 8 ∧
          ∀ j p, j / 4 = core → (s.thAt j).wait = .barrier off p → (t.thAt j).wait = .barrierHit) ∧
      (w / 256 % 4 ≠ 0 ∨ late = 0 ∨ s.time.ns < late → exec (.barrierDeadline core off) s = .next s))

/-- The refresh windows change nothing but let a waiting write of their bank land at the end, a peer's too (R73). The
migration engine takes an entry of its ring, once no list of it lies in a refreshing bank: one it cannot read counts as
dropped; of an eligible page the bytes go to the new frame, the status is 0 and the sixteen entries name the new frame,
of another the status is 1; the generation is raised, and once the older accesses have retired the event counter rises
by one (R78, R79). -/
def Obligations.RefreshAndMigration : Prop :=
  (∀ (s : State) (b : Nat), exec (.refreshWindowStart b) s = .next s ∧
    (s.refreshing b = true → exec (.refreshWindowEnd b) s = .next s) ∧
    ∀ q : Posted, s.refreshing b = false → s.stores = [q] → s.portQueue = [] → s.unitWaits = [] → q.arrival.isSome = true → q.landed = false → q.rejected = none →
      q.lost = false → q.peer = none → q.tag = none → q.key % 2 ^ 29 / 2 ^ 24 = b → isGlacierKey q.key = true →
      s.storeRefused q = false →
      ∃ t, exec (.refreshWindowEnd b) s = .next t ∧ t.stores = [{ q with landed := true }] ∧
        Memory.readBytes t.mem q.key q.bytes.length = q.bytes ∧ SameOutside s t q.key q.bytes.length) ∧
  (∀ (s : State) (x : PortWrite), s.stores = [] → s.portQueue = [x] → s.unitWaits = [] → s.refreshing (keyBank x.key) = false →
    s.pkg.fenced.getLsbD (natBits x.key 42 2) = false →
    ∃ t, exec (.refreshWindowEnd (keyBank x.key)) s = .next t ∧ t.portQueue = [] ∧ t.mem = (s.land x.key x.bytes).mem ∧
      t.outbox = s.outbox ++ [Fabric.peerReply x.chip x.part 0 0]) ∧
  ∀ (s : State) (part n : Nat),
    let r := (s.part part).migrate
    let entry := s.engineWord part (BitVec.ofNat 64 (r.addr + r.consumer.toNat % 2 ^ n * 8))
    ((s.part part).migDone = none →
      (r.size? = none ∨ r.producer = r.consumer ∨ s.nextBatch part = none → exec (.migrationBatch part) s = .next s) ∧
      (r.size? = some n → r.producer ≠ r.consumer → s.nextBatch part ≠ none →
        (entry.bind (s.batchAt part) = none → ∃ t, exec (.migrationBatch part) s = .next t ∧ t.mem = s.mem ∧
          (t.part part).migrate.consumer = r.consumer + 1 ∧ (t.part part).migDone = none ∧
          (t.part part).migrate.dropped = if r.dropped = -1 then -1 else r.dropped + 1) ∧
        (∀ asid page frame st done, entry.bind (s.batchAt part) = some ⟨asid, [(page, frame)], [st], done⟩ →
          let g := s.gens.get 0 asid.toNat + 1
          let taken (t : State) : Prop := exec (.migrationBatch part) s = .next t ∧
            (t.part part).migrate.consumer = r.consumer + 1 ∧ (t.part part).migDone = some (done, asid.toNat, g) ∧
            t.gens.get 0 asid.toNat = g ∧ t.notices.length = s.notices.length + 96
          (s.eligible part asid page frame = none →
            ∃ t, taken t ∧ Memory.readLE t.mem st 1 = 1 ∧ SameOutside s t st 1) ∧
          (∀ e old tier, s.eligible part asid page frame = some (e, old, tier) → s.copyFails part old frame.toNat = false →
            let dest := s.physKey part frame.toNat
            let entry (i : Nat) : Nat := s.physKey part (e + 8 * i)
            (st < dest ∨ dest + 65536 ≤ st) →
            (∀ i, i < 16 → (st < entry i ∨ entry i + 8 ≤ st) ∧ (entry i + 8 ≤ dest ∨ dest + 65536 ≤ entry i) ∧
              ∀ j, j < 16 → i ≠ j → entry i + 8 ≤ entry j ∨ entry j + 8 ≤ entry i) →
            ∃ t, taken t ∧ Memory.readLE t.mem st 1 = 0 ∧
              Memory.readBytes t.mem dest 65536 = Memory.readBytes s.mem (s.physKey part old) 65536 ∧
              (∀ i, i < 16 → natBits (Memory.readLE t.mem (entry i) 8) 12 32 * 4096 = frame.toNat ∧
                natBits (Memory.readLE t.mem (entry i) 8) 57 1 = tier ∧
                natBits (Memory.readLE t.mem (entry i) 8) 0 12 = natBits (Memory.readLE s.mem (entry i) 8) 0 12))))) ∧
    (∀ done asid g, (s.part part).migDone = some (done, asid, g) →
      (s.batchDrained asid g = false → exec (.migrationBatch part) s = .next s) ∧
      (∀ k, s.batchDrained asid g = true → s.engineKey part done 8 .atomic = some k →
        ∃ t, exec (.migrationBatch part) s = .next t ∧ (t.part part).migDone = none ∧
          Memory.readLE t.mem k 8 = (Memory.readLE s.mem k 8 + 1) % 2 ^ 64 ∧ SameOutside s t k 8))

/-- Profiling (R266-R268): a select starts a slot from nothing; a rotation is a millisecond of device time; a sample of
a running thread is one record of its PC, the time, its identity and its stall, 0 where it has issued. Registers
written by the host (R258, R259, R261, R264, R265, R270, R273): what each field takes, what a write ignores, and that a
partition without the rights of a physical function changes no register of the package or of its own grant. That ASDIR,
BULKBASE and BULKLIMIT lose their low 16 bits (log 22) and DIERST its bits [31:4] (log 96) is the model's reading
(DEDUCED). -/
def Obligations.RegistersAndCounters : Prop :=
  (∀ (s : State) (part : Nat),
     (∀ (slot : Nat) (v : Word), ∃ t, exec (.ctrsel part slot v) s = .next t ∧ t.mem = s.mem ∧ t.ctxs = s.ctxs ∧
       (t.part part).pm.get {} slot = { sel := v.setWidth 32 } ∧
       ∀ j, j ≠ slot → (t.part part).pm.get {} j = (s.part part).pm.get {} j) ∧
     exec (.counterRotation part) s =
       .next (s.setPart part { s.part part with rotation := s.time.ns / 1000000 }) ∧
     (∀ k : Nat, let th := s.thAt k
       (s.sampled k = false → exec (.pcSample k) s = .next s) ∧
       (∀ stall n kind pa, s.sampled k = true →
         (if s.issuedNow k then stall = 0 else s.stallCode k = some stall) → th.flake = none →
         s.groupsOf th.part th.tid = [] → ((s.part th.part).sample).size? = some n →
         let r := (s.part th.part).sample
         (r.producer - r.consumer).toNat ≠ 2 ^ n →
         s.resolve (unitIssuer th.part 0) (BitVec.ofNat 64 (r.addr + r.producer.toNat % 2 ^ n * 32)) .write =
           .ok (.bulk kind pa) → kind ≠ .control → s.unreachable (.bulk kind pa) = false →
         ∃ t, exec (.pcSample k) s = .next t ∧ (t.part th.part).sample.producer = r.producer + 1 ∧ t.ctxs.length = s.ctxs.length ∧
           Memory.readBytes t.mem (s.physKey th.part pa) 32 =
             [th.pc.toNat, s.time.ns, th.tid % 2 ^ 32 * 2 ^ 32 + 0xFFFF * 2 ^ 16 + k, stall].flatMap (leBytes 8) ∧
           SameOutside s t (s.physKey th.part pa) 32))) ∧
  (∀ (s : State) (part : Nat) (pf : Bool) (v : Word),
     let p := s.part part
     let writes (off : Nat) (q : Part) : Prop := exec (.registerWrite part pf off v) s = .next (s.setPart part q)
     (writes 0x0028 { p with asdir := BitVec.ofNat 64 (v.toNat / 65536 * 65536) } ∧ writes 0x0050 { p with hwbase := v } ∧
       writes 0x0208 { p with preimage := v } ∧ writes 0x0100 { p with fault := { p.fault with base := v } } ∧
       writes 0x0110 { p with fault := { p.fault with consumer := v } } ∧ writes 0x0108 { p with fault := p.fault } ∧
       writes 0x0168 { p with migrate := { p.migrate with producer := v } } ∧
       writes 0x0130 { p with floe := { p.floe with consumer := v } } ∧
       writes 0x0150 { p with sample := { p.sample with consumer := v } }) ∧
     (pf = false → ∀ off ∈ [0x0000, 0x0008, 0x0010, 0x0018, 0x0020, 0x0030, 0x0400, 0x0408, 0x0410, 0x0418, 0x0420, 0x0438,
         0x0800, 0x0840], exec (.registerWrite part pf off v) s = .next s) ∧
     (pf = true →
       writes 0x0010 { p with glshare := BitVec.ofNat 4 (v.toNat % 16) } ∧
       writes 0x0018 { p with bulkBase := BitVec.ofNat 64 (v.toNat / 65536 * 65536) } ∧
       writes 0x0020 { p with bulkLimit := BitVec.ofNat 64 (v.toNat / 65536 * 65536) } ∧
       exec (.registerWrite part pf 0x0000 v) s = exec (.partcfg part false v) s ∧
       exec (.registerWrite part pf 0x0008 v) s = exec (.partcfg part true v) s ∧
       exec (.registerWrite part pf 0x0030 v) s = exec (.pwrshareWrite part v) s ∧
       exec (.registerWrite part pf 0x0420 v) s = exec (.dierst v) s ∧
       exec (.registerWrite part pf 0x0438 v) s = exec (.peerclr v) s ∧
       exec (.registerWrite part pf 0x0840 v) s = exec (.attreq v) s ∧
       exec (.registerWrite part pf 0x0418 v) s = .next (if 50 ≤ v.toNat % 2 ^ 32 ∧ v.toNat % 2 ^ 32 ≤ 10000 then
         { s with pkg := { s.pkg with downint := v.setWidth 32 } } else s)) ∧
     (∀ i, i < 32 → ∃ t, exec (.registerWrite part pf (0x10000 + 8 * i) v) s = .next t ∧ t.mem = s.mem ∧
       (p.mailbox.length = 256 → ((t.part part).mailbox.drop (8 * i)).take 8 = leBytes 8 v.toNat)) ∧
     ((s.launchesOf part).any (fun l => l.state != .ended) = true → ∀ hi, exec (.partcfg part hi v) s = .next s) ∧
     ((s.launchesOf part).any (fun l => l.state != .ended) = false → ∀ hi, ∃ t, exec (.partcfg part hi v) s = .next t ∧
       t.mem = s.mem ∧ ∀ i, i < 96 → (t.part part).clusters.getLsbD i =
         ((if hi then (if i < 64 then p.clusters.getLsbD i else v.getLsbD (i - 64))
           else (if i < 64 then v.getLsbD i else p.clusters.getLsbD i)) && !(s.othersClusters part).getLsbD i)) ∧
     (let us := v.toNat / 2 ^ 32;
       (s.pkg.dierst ≠ 0 ∨ us < 10 ∨ 100000 < us → exec (.dierst v) s = .next s) ∧
       (s.pkg.dierst = 0 → 10 ≤ us → us ≤ 100000 → exec (.dierst v) s = .next { s with pkg := { s.pkg with
         dierstReg := BitVec.ofNat 64 (us * 2 ^ 32 + v.toNat % 16), dierst := BitVec.ofNat 4 (v.toNat % 16), quiesceBy := s.time.ns + 1000 * us } })) ∧
     (∃ t, exec (.peerclr v) s = .next t ∧ t.pkg.isDown (v.toNat % 2 ^ 18) = false ∧ t.mem = s.mem ∧ t.ctxs = s.ctxs ∧
       ∀ c, c ≠ v.toNat % 2 ^ 18 → t.pkg.isDown c = s.pkg.isDown c) ∧
     exec (.attreq v) s = .next { s with pkg := { s.pkg with attState := if s.pkg.keyErased then 3 else 1 } })

/-! ## The host, the fabric and the package (R125, R255-R265, R269-R273) -/

/-- What the host and the fabric do (R125, R256, R261, R264, R265, R272): the aperture reads and writes memory of the
partition's share and counts what it refuses; a message of the host's mailbox enters the mesh or leaves its reason; a
peer's request is performed and answered, or rejected, and its store waits for a refreshing bank (R73); links; a peer
is declared down once no route to it has been live for DOWNINT. That a peer's request runs under the partition and ASID
that it carries is the model's reading (DEDUCED, log 76). Boot, attestation, alarms and the reset of a die (R269-R273):
boot resets the package and accepts a signed version that is not too old; an alarm is logged and counted, and the fused
policy may reset the package and erase the key; a due die fence marks the die and empties its cores and memories; its
completion ends the reset. What boot and an alarm's reset keep is the model's choice (DESIGN CHOICE, log 25). -/
def Obligations.PackageAndHost : Prop :=
  ((∀ (s : State) (part off len : Nat) (bytes : List Byte),
     let p := s.part part
     let pa := p.apbase.toNat + off
     let reach (n : Nat) : Prop := off + n ≤ p.aperture ∧ ∀ i, i < n → s.apertureByte p (pa + i) = true
     (reach bytes.length → ∃ t, exec (.bar4Access part off (some bytes) len) s = .next t ∧
       Memory.readBytes t.mem pa bytes.length = bytes ∧ SameOutside s t pa bytes.length ∧
       (t.part part).aperr = p.aperr) ∧
     (¬reach bytes.length → ∃ t, exec (.bar4Access part off (some bytes) len) s = .next t ∧ t.mem = s.mem ∧
       (t.part part).aperr = p.aperr + 1) ∧
     (reach len → exec (.bar4Access part off none len) s = .next { s with outbox := s.outbox ++
       [Fabric.hostData part (Memory.readBytes s.mem pa len)] }) ∧
     (¬reach len → ∃ t, exec (.bar4Access part off none len) s = .next t ∧ t.mem = s.mem ∧
       (t.part part).aperr = p.aperr + 1 ∧
       t.outbox = s.outbox ++ [Fabric.hostData part (List.replicate len 0xFF)])) ∧
   (∀ (s : State) (part : Nat) (v : Word),
     let lid := part * 2 ^ 32 + v.toNat / 2 ^ 32
     (s.launches.look? lid = none → exec (.sendlaunch part v) s =
       .next (s.setPart part { s.part part with mbstat := 5 })) ∧
     (∀ l, s.launches.look? lid = some l →
       let m := s.mailboxMsg part l
       (s.mailboxReason l m ≠ 0 → exec (.sendlaunch part v) s = .next (s.setPart part
         { s.part part with mbstat := BitVec.ofNat 8 (s.mailboxReason l m) })) ∧
       (s.mailboxReason l m = 0 → ∃ t x, exec (.sendlaunch part v) s = .next t ∧ t.mem = s.mem ∧
         (t.part part).mbstat = 0 ∧ t.mesh = s.mesh ++ [x] ∧ x.header = m.header ∧ x.payload = m.payload ∧
         x.part = part ∧ x.sender = 0xFFFFFFFF ∧ l.state = .running))) ∧
   (∀ s : State, exec .alarmlogRead s = .next { s with
     pkg := { s.pkg with alarmlog := 0 },
     outbox := s.outbox ++ [Fabric.hostData 0 (leBytes 8 s.pkg.alarmlog.toNat)] }) ∧
   (∀ (s : State) (chip part size op : Nat) (asid : BitVec 16) (sup : Bool) (addr data data2 : Word) (kind : PhysKind) (pa : Nat),
     size ∈ [1, 2, 4, 8] → addr.toNat % size = 0 →
     let key := s.physKey part pa
     let answers (i : Instr) (v : Word) (status : BitVec 8) (P : State → Prop) : Prop :=
       ∃ t, exec i s = .next t ∧ t.outbox = s.outbox ++ [Fabric.peerReply chip part v status] ∧ P t
     let old := Memory.readLE s.mem key size
     let x := data.toNat % 256 ^ size
     s.unreachable (.bulk kind pa) = false → isControlKey key = false →
     (s.resolve ⟨none, part, asid, sup, false⟩ addr .write = .ok (.bulk kind pa) → s.portHolds key none = true →
       exec (.peerRequest chip 0 part asid sup addr size op data data2) s = .next { s with
         portQueue := s.portQueue ++ [⟨s.nextId, key, chip, part, leBytes size data.toNat⟩], nextId := s.nextId + 1 }) ∧
     (s.resolve ⟨none, part, asid, sup, false⟩ addr .write = .ok (.bulk kind pa) → s.portHolds key none = false →
       answers (.peerRequest chip 0 part asid sup addr size op data data2) 0 0 fun t =>
         Memory.readLE t.mem key size = x ∧ SameOutside s t key size) ∧
     (s.resolve ⟨none, part, asid, sup, false⟩ addr .atomic = .ok (.bulk kind pa) → s.badGranule? key size = none →
       isGlacierKey key = false →
       (carries (.bulk kind pa) (.rmw op size x) = true →
         answers (.peerRequest chip 1 part asid sup addr size op data data2) (BitVec.ofNat 64 old) 0 fun t =>
           Memory.readLE t.mem key size = atomValue op size old x % 256 ^ size ∧ SameOutside s t key size) ∧
       (carries (.bulk kind pa) (.cas size (data2.toNat % 256 ^ size) x) = true →
         answers (.peerRequest chip 2 part asid sup addr size op data data2) (BitVec.ofNat 64 old) 0 fun t =>
           Memory.readLE t.mem key size = (if old = data2.toNat % 256 ^ size then x else old) ∧
             SameOutside s t key size)) ∧
     (∀ k, (∀ p, s.resolve ⟨none, part, asid, sup, false⟩ addr (if k = 0 then .write else .atomic) ≠ .ok p) →
       answers (.peerRequest chip k part asid sup addr size op data data2) 0 0x06 fun t => t.mem = s.mem)) ∧
   (∀ (s : State) (port chip : Nat), port < 32 →
     (∃ t, exec (.fabricLinkChange port true) s = .next t ∧ t.pkg.noRoute = none ∧ t.mem = s.mem ∧
       ∀ i, t.pkg.ports.getLsbD i = (decide (i = port) || s.pkg.ports.getLsbD i)) ∧
     (∃ t, exec (.fabricLinkChange port false) s = .next t ∧ t.mem = s.mem ∧
       (∀ i, t.pkg.ports.getLsbD i = (!decide (i = port) && s.pkg.ports.getLsbD i)) ∧
       (t.pkg.ports = 0 → s.pkg.noRoute = none → t.pkg.noRoute = some s.time.ns)) ∧
     (port < 4 → (∃ t, exec (.cxlLinkChange port true) s = .next t ∧ t.mem = s.mem ∧
         ∀ i, t.pkg.cxlUp.getLsbD i = (decide (i = port) || s.pkg.cxlUp.getLsbD i)) ∧
       ∃ t, exec (.cxlLinkChange port false) s = .next t ∧ t.mem = s.mem ∧
         ∀ i, t.pkg.cxlUp.getLsbD i = (!decide (i = port) && s.pkg.cxlUp.getLsbD i)) ∧
     (s.pkg.isDown chip = true ∨ chip = s.pkg.chip ∨
         (s.unroutedSince s.pkg.noRoute = false ∧ s.unroutedSince (s.pkg.noRouteTo.look? chip) = false) →
       exec (.peerDeclaredDown chip) s = .next s) ∧
     (s.pkg.isDown chip = false → chip ≠ s.pkg.chip → s.unroutedSince s.pkg.noRoute = true →
       ∃ t, exec (.peerDeclaredDown chip) s = .next t ∧ ∀ c, c ≠ s.pkg.chip → t.pkg.isDown c = true) ∧
     (s.pkg.isDown chip = false → chip ≠ s.pkg.chip → s.unroutedSince s.pkg.noRoute = false →
       s.unroutedSince (s.pkg.noRouteTo.look? chip) = true → s.domains = [] → s.floes = [] →
       ∃ t, exec (.peerDeclaredDown chip) s = .next t ∧ t.pkg.isDown chip = true ∧
         (∀ f ∈ t.outbox, f.dest ≠ some chip) ∧ t.stores.length = s.stores.length ∧
         (∀ q ∈ t.stores, q.peer = some chip → q.lost = true)))) ∧
  (∀ (s : State),
     (∀ (ok : Bool) (version : Nat), ∃ t, exec (.boot ok version) s = .next t ∧
       t.pkg.bootFailed = !(ok && decide (s.pkg.minVersion ≤ version)) ∧
       (ok = true → s.pkg.minVersion ≤ version → t.pkg.firmware = BitVec.ofNat 64 version) ∧ t.ctxs = [] ∧
       t.launches = [] ∧ t.jobs = [] ∧ t.parts = [] ∧ t.pkg.pwrcap = 2600 ∧ t.pkg.alarmlog = s.pkg.alarmlog ∧
       t.pkg.policy = s.pkg.policy ∧ t.pkg.keyErased = s.pkg.keyErased) ∧
     (∀ source : BitVec 2, ∃ t, exec (.securityAlarm source) s = .next t ∧ t.mem = s.mem ∧
       t.pkg.alarmlog = BitVec.ofNat 64 (source.toNat + s.time.ns % 2 ^ 48 * 2 ^ 16) ∧
       t.pkg.alarms = (if s.pkg.alarms = -1 then -1 else s.pkg.alarms + 1) ∧
       (s.pkg.policy = 2 → t.pkg.keyErased = true ∧ t.pkg.attState = 3) ∧ (s.pkg.policy ≠ 2 → t.pkg.keyErased = s.pkg.keyErased) ∧
       (s.pkg.policy = 1 ∨ s.pkg.policy = 2 → t.ctxs = [] ∧ t.launches = [] ∧ t.jobs = []) ∧
       (s.pkg.policy = 0 → t.ctxs = s.ctxs ∧ t.launches = s.launches ∧ t.jobs = s.jobs)) ∧
     (s.pkg.attState = 1 → s.pkg.nonce.length ≤ 64 → s.pkg.chip < 2 ^ 18 → ∃ t, exec .attestationDone s = .next t ∧ t.pkg.attState = 2 ∧ t.pkg.report.length = 512 ∧
       t.mem = s.mem ∧ leNat (t.pkg.report.take 8) = s.pkg.chip + 2 ^ 56) ∧
     (s.pkg.attState ≠ 1 → exec .attestationDone s = .next s) ∧
     ∀ die, die < 4 →
       (s.fenceDue die = false → exec (.dieFence die) s = .next s) ∧
       (s.fenceDue die = true → ∃ t, exec (.dieFence die) s = .next t ∧ t.pkg.fenced.getLsbD die = true ∧
         (∀ k, dieOf (coreOfCtx k) = die → t.ctx k = {}) ∧ (∀ c, dieOf c = die → t.core c = {}) ∧
         (∀ key, keyOnDie die key = true → Memory.readLE t.mem key 1 = 0) ∧ ∀ b ∈ t.bindings, b.die ≠ die) ∧
       (s.pkg.fenced.getLsbD die = false → exec (.dieResetComplete die) s = .next s) ∧
       (s.pkg.fenced.getLsbD die = true → ∃ t, exec (.dieResetComplete die) s = .next t ∧ t.mem = s.mem ∧
         t.ctxs = s.ctxs ∧ ∀ d, d < 4 → t.pkg.fenced.getLsbD d = (decide (d ≠ die) && s.pkg.fenced.getLsbD d) ∧
           t.pkg.dierst.getLsbD d = (decide (d ≠ die) && s.pkg.dierst.getLsbD d)))

/-! ## Fetch, IMX, encodings and the step (R24, R245, R278-R284, R295, R297) -/

/-- What the fetch of a word leaves (R64, R77): nothing of the package changes but the executing core's instruction
cache and the performance counters; a word that the cache does not hold is read from the place that its address
translates to, at the same offset in its line; an address that is no multiple of 4 and a granule with an error trap.
IMX (R283, R284): before a word that takes it, its 24 bits are held for that word, which runs in the same step; before
any other word it traps ILLEGAL, and where its follower cannot be fetched, it traps as that fetch does. An extended
immediate is the 38 bits of both, the low 14 those of the follower. -/
def Obligations.FetchAndImx : Prop :=
  ((∀ (s : State) (pc : Word) (w : Nat) (u : State), s.fetchWord pc = .ok (w, u) → pc.toNat % 4 = 0 ∧
     ∃ cores parts, u = { s with cores := cores, parts := parts } ∧
       (∀ k, k ≠ s.me → u.core k = s.core k) ∧ (∃ lines, u.core s.me = { s.core s.me with icache := lines })) ∧
   (∀ (s : State) (pc : Word), pc.toNat % 4 ≠ 0 → s.fetchWord pc = .error (Cause.ifetchFault, pc)) ∧
   (∀ (s : State) (pc : Word) (k : PhysKind) (pa : Nat), pc.toNat % 4 = 0 →
     s.resolve (s.th.issuer s.me) pc .fetch = .ok (.bulk k pa) → k ≠ .control → s.unreachable (.bulk k pa) = false →
     s.icacheHit s.me s.th.part s.th.asid (natBits pc.toNat 0 52) = none →
     let key := s.physKey s.th.part pa
     (s.badGranule? key 4 = none → pa % 64 = pc.toNat % 64 → ∃ u, s.fetchWord pc = .ok (s.peek key 4, u)) ∧
     (s.badGranule? key 4 ≠ none → s.fetchWord pc = .error (Cause.mchk, pc)))) ∧
  ((∀ (s : State) (i : BitVec 24), s.th.flake = none →
     (∀ w u, s.fetchWord (s.th.pc + 4) = .ok (w, u) →
       (takesImx (w / 2 ^ 24) = true → exec (.imx i) s = .next (u.setTh { u.th with imx := some i })) ∧
       (takesImx (w / 2 ^ 24) = false → exec (.imx i) s = .next u.illegal)) ∧
     (∀ c a, s.fetchWord (s.th.pc + 4) = .error (c, a) → Traps s (.imx i) c a)) ∧
   (∀ (s : State) (i : BitVec 24), s.th.flake ≠ none → Traps s (.imx i) Cause.illegal 0) ∧
   (∀ (s : State) (k : Nat) (t : State), runInstr (s.issue k) = .next t →
     (t.th.imx = none → runIssue s k = .next t) ∧ (t.th.imx ≠ none → runIssue s k = runInstr t)) ∧
   (∀ (t : Thread) (x : BitVec 24) (i : BitVec 14), t.imx = some x →
     (t.imm14 i).toInt = (x ++ i).toInt ∧ (x ++ i).toNat = x.toNat * 2 ^ 14 + i.toNat ∧ t.at_ = t.pc + 4))

/-- Words that the spec prints, of each family, with the instruction that each stands for. -/
def Obligations.DecodesWordsOfSpec : Prop :=
  decode 0x2029BFFC = .ok (.addi 5 6 (-4)) ∧ decode 0x19298308 = .ok (.bfx 5 6 3 8) ∧
  decode 0x3129BFFD = .ok (.bne 5 6 (-3)) ∧ decode 0x3608000A = .ok (.jal 1 10) ∧
  decode 0x44290008 = .ok (.ldw 5 4 8) ∧ decode 0x4C010E13 = .ok (.strel 4 7 2 3) ∧
  decode 0x4D000041 = .ok (.fenceAcq 0 1) ∧ decode 0x50411413 = .ok (.cas 8 4 10 2 3) ∧
  decode 0x54190020 = .ok (.cld 3 4 32) ∧ decode 0x5D298001 = .ok (.gbarGroup 5 6) ∧
  decode 0x61018803 = .ok (.send 6 4 3) ∧ decode 0x70280010 = .ok (.srrd 5 0x010) ∧
  decode 0x78000003 = .ok .gendrainPk ∧ decode 0x7B280001 = .ok (.timerdStatus 5) ∧
  decode 0x8B104680 = .ok (.vadd 2 1 3 2 0) ∧ decode 0x93104606 = .ok (.vcvt 2 1 3 0 0 6) ∧
  decode 0xA8184403 = .ok (.mops 3 1 2 3) ∧ decode 0xC1411200 = .ok (.jobm 8 4 9 0) ∧
  decode 0xC5186A00 = .ok (.accrd 3 1 5 0) ∧ decode 0xF0001009 = .ok (.imx 0x001009)

/-- Decode and encode agree, for every instruction that a word can hold: what encodes decodes to itself with every
operand, and a word that decodes is the one encoding of its instruction. -/
def Obligations.DecodeOfEncode : Prop :=
  (∀ (i : Instr) (w : Nat), encodingOk i = true → encode i = some w → w < 2 ^ 32 ∧ decode w = .ok i) ∧
  (∀ (i : Instr) (w : Nat), w < 2 ^ 32 → decode w = .ok i → encode i = some w)

/-- R279, R295, R296 step 4: a word with a nonzero field that its instruction does not use or an unassigned sub-code, an
unassigned OP, and an instruction whose encoding checks fail trap ILLEGAL, and nothing else of them takes effect. -/
def Obligations.IllegalWords : Prop :=
  (∀ (s : State) (w : Nat) (u : State), s.th.flake = none → s.fetchWord s.th.at_ = .ok (w, u) → Rejected w →
    runInstr s = .next u.illegal) ∧
  (∀ w, w < 2 ^ 32 → unassignedOp (w / 2 ^ 24) = true → decode w = .ok (.unassignedOpcode (BitVec.ofNat 32 w))) ∧
  (∀ (s : State) (w : BitVec 32), Traps s (.unassignedOpcode w) Cause.illegal 0) ∧
  (∀ (s : State) (i : Instr), encode i ≠ none → encodingOk i = false → Traps s i Cause.illegal 0)

/-- Loads and atomics complete: on the own scratchpad, with no store posted, no error and the port free, every load gives
the value of its location, and ATOM and CAS give the old value and leave the new one (R366, R367, R314, R326); the data of
a load that waits comes at LOAD_DATA_RETURN (R68). -/
def Obligations.LoadsAndAtomicsComplete : Prop :=
  (∀ (s : State) (d a b : BitVec 5) (i : BitVec 14) (o : BitVec 4) (sz : BitVec 2) (c : BitVec 3) (off : Nat) (al : Bool),
    TokenFree s [a.toNat, b.toNat, d.toNat, d.toNat + 1] → s.stores = [] → s.errors = [] → s.th.flake = none →
    (s.core s.me).portBusy = false → s.pkg.fenced.getLsbD (dieOf s.me) = false →
    let key := spadKey s.me off
    let n := 2 ^ sz.toNat
    let old := Memory.readLE s.mem key n
    let x := (s.th.S b.toNat).toNat % 256 ^ n
    let exp := (s.th.S d.toNat).toNat % 256 ^ n
    let cap := s.th.cap a.toNat
    let gives (j : Instr) (v : Word) (P : State → Prop) : Prop :=
      ∃ t, exec j s = .next t ∧ t.th.S d.toNat = (if d = 0 then 0 else v) ∧ t.th.pc = following s ∧ P t
    let reached (addr : Word) : Prop := addr.toNat % n = 0 ∧
      s.resolve (s.th.issuer s.me) addr .atomic = .ok (.spad s.me off al)
    let capable : Prop := s.capOk cap 0 n [107] = true ∧ s.localPeer cap = true ∧ reached (cap.addr 0)
    (∀ p : Instr × Nat × Bool, p ∈ [((Instr.ldb d a i, 1, true) : Instr × Nat × Bool), (.ldbu d a i, 1, false),
        (.ldh d a i, 2, true), (.ldhu d a i, 2, false), (.ldw d a i, 4, true), (.ldwu d a i, 4, false),
        (.ldd d a i, 8, false)] →
      let addr := s.th.S a.toNat + s.th.imm14 i
      addr.toNat % p.2.1 = 0 → s.dataPlace addr p.2.1 .read = some (.spad s.me off al) →
      gives p.1 (extend p.2.2 p.2.1 (Memory.readLE s.mem key p.2.1)) fun t => t.mem = s.mem) ∧
    (c.toNat ≤ 4 → (s.th.S a.toNat).toNat % n = 0 → s.dataPlace (s.th.S a.toNat) n .read = some (.spad s.me off al) →
      gives (.ldacq d a sz c) (BitVec.ofNat 64 old) fun t => t.mem = s.mem) ∧
    (∀ j ∈ [Instr.atom d a b o sz c, .atomCap d a b o sz], encodingOk j = true →
      (j = .atom d a b o sz c → reached (s.th.S a.toNat)) → (j = .atomCap d a b o sz → capable) →
      gives j (BitVec.ofNat 64 old) fun t =>
        Memory.readLE t.mem key n = atomValue o.toNat n old x % 256 ^ n ∧ SameOutside s t key n) ∧
    (∀ j ∈ [Instr.cas d a b sz c, .casCap d a b sz], encodingOk j = true →
      (j = .cas d a b sz c → reached (s.th.S a.toNat)) → (j = .casCap d a b sz → capable) →
      gives j (BitVec.ofNat 64 old) fun t => t.th.S (d.toNat + 1) = (if old = exp then 0 else 1) ∧
        Memory.readLE t.mem key n = (if old = exp then x else old) ∧ SameOutside s t key n)) ∧
  (∀ (s : State) (ctx d n : Nat) (signed : Bool) (key : Nat) (addr : Word) (fill : Bool) (gen : BitVec 32) (next : Word)
      (acq : Bool),
    (s.ctx ctx).isRunning = true → (s.thAt ctx).wait = .load d n signed key addr fill gen next acq → s.stores = [] →
    s.portQueue = [] → s.unitWaits = [] → s.errors = [] → s.keyRefreshing key = false → s.loadLost key = false → isControlKey key = false →
    key % 64 + n ≤ 64 →
    ∃ t, exec (.loadDataReturn ctx) s = .next t ∧ (t.thAt ctx).pc = next ∧ (t.thAt ctx).wait = .ready ∧ t.mem = s.mem ∧
      (t.thAt ctx).S d = if d = 0 then 0 else extend signed n (Memory.readLE s.mem key n))

/-- The launch controllers complete (R188, R189, R192-R197, R220, R247, R260): a window takes a word or an arm, an
accepted block becomes a waiting launch, a met counter stays met, the wait ends, a spawn message leaves, a launch ends;
a request to stop is taken, its image set written, a resumed launch restored, and the image sets of a broken launch
discarded, which ends it once nothing of it lives (DEDUCED, log 18). -/
def Obligations.LaunchControllersComplete : Prop :=
  (∀ (s : State) (win offset : Nat) (v : Word),
    let x := s.slot win (offset / 512)
    let y := s.slot win (v.toNat % 64)
    (offset < 0x8000 → offset % 8 = 0 → x.state ≠ 1 → ∃ t, exec (.launchWindowWrite win offset v) s = .next t ∧
      t.slot win (offset / 512) = { x with block := x.block.insert (offset % 512 / 8) v }) ∧
    (y.state ≠ 1 → ∃ t, exec (.launchArm win v) s = .next t ∧
      t.slot win (v.toNat % 64) = { y with state := 1, badArm := decide (v.toNat / 64 ≠ 0) })) ∧
  (∀ (s : State) (win slot : Nat),
    let x := s.slot win slot
    x.state = 1 → s.rejectReason (win / 3) x.badArm false x.block = none → Block.action x.block ≠ 1 →
    ∃ t l, exec (.launchCheckDone win slot) s = .next t ∧ (t.slot win slot).state = 2 ∧
      t.launches.look? (win / 3 * 2 ^ 32 + (s.part (win / 3)).nextLaunch) = some l ∧ l.state = .waiting ∧
      l.block = x.block) ∧
  (∀ (s : State) (k : Nat) (l : Launch), s.launches.look? k = some l → l.lid = k → LaunchesTabled s →
    (l.state = .waiting → ∃ t l', exec (.launchCounterPoll k) s = .next t ∧ t.launches.look? k = some l' ∧
      ∀ j, j < 4 → l'.met.getLsbD j = (l.met.getLsbD j || s.counterMet l j)) ∧
    (s.waitOverFor l = true → l.isFloe = false → ∃ t l', exec (.launchLeaveWaiting k) s = .next t ∧
      t.launches.look? k = some l' ∧ (l.resume = none → l'.state = .distributing) ∧
      (l.resume ≠ none → l'.state = .running ∧ l'.stopping = true)) ∧
    (∀ port, s.nextSpawner port = some l → ∃ t l' m, exec (.spawnDistribute port) s = .next t ∧
      t.launches.look? k = some l' ∧ l'.sent = l.sent + 1 ∧ t.mesh = s.mesh ++ [m] ∧ m.launch = k) ∧
    (l.state = .running ∧ l.resume = none ∨ l.state = .swapped ∧ l.discarded = true → s.launchLives k = false →
      ∃ t l', exec (.launchEnd k) s = .next t ∧
      t.launches.look? k = some l' ∧ l'.state = .ended) ∧
    (∀ part v pa, k = part * 2 ^ 32 + v.toNat / 2 ^ 32 → l.isFloe = false → l.state = .running → l.resume = none →
      s.physImage part (s.part part).preimage = some pa → s.requestStopping part = false →
      ∃ t l', exec (.prelaunch part v) s = .next t ∧ t.launches.look? k = some l' ∧ l'.stopping = true ∧ l'.image = pa) ∧
    (s.requestSettled l = true → ∃ t l', exec (.preemptionComplete k) s = .next t ∧ t.launches.look? k = some l' ∧
      l'.state = .swapped ∧ l'.lastImage = some l.image) ∧
    (∀ key i, l.state = .running → l.stopping = true → l.resume = some key → s.images.look? key = some i →
      (l.refilling = false → ∃ t, exec (.resumeRestore k) s = .next t ∧
        t.launches.look? k = some { l with refilling := true }) ∧
      (l.refilling = true → s.jobs.any (fun j => j.2.refills k) = false →
        ∃ t l', exec (.resumeRestore k) s = .next t ∧ t.launches.look? k = some l' ∧ l'.stopping = false ∧
          l'.resume = none)) ∧
    (∀ f, s.floeOf k = some f → f.state = .frozen ∨ f.state = .broken → l.state = .swapped ∨ l.state = .waiting →
      ∃ t l', exec (.imageDiscard k) s = .next t ∧ t.launches.look? k = some l' ∧ (∀ p ∈ t.images, p.2.launch ≠ k) ∧
        (l'.state = .ended ∨ (l'.discarded = true ∧ t.launchLives k = true))))

/-- The selection unit completes (R176, R177, R180, R183, R185, R325, R342, R380, R394): a job on its turn begins its
round, calves its pair, asks the other chip, sets or flushes its ring; a timer names a round, a round begins, an owed
record is written, and every message of another chip has its effect. -/
def Obligations.SelectionCompletes : Prop :=
  (∀ (s : State) (n k : Nat) (j : Job) (d : Domain), s.jobs.look? n = some j → s.selTurn n j = true →
    s.selDomain j = some k → s.domains.look? k = some d →
    let w : CmdWord := j.word
    let fn := w.bits 134 2
    let begins (op reserved : Nat) : Prop := w.opcode = op ∧ Layout.bad ⟨0, reserved⟩ w = false ∧ w.bits 136 6 = 0
    (begins 1 136 → s.descFaults n .read = false → ∃ t x, exec (.selround n) s = .next t ∧
      t.domains.look? k = some x ∧ x.phase = .begin_ ∧ x.job = some n) ∧
    (∀ l e, begins 2 104 → s.descFaults n .read = false → w.bits 120 16 ≠ w.bits 104 16 →
      d.slots[w.bits 120 16]? = some l → d.slots[w.bits 104 16]? = some e → l.chip = s.pkg.chip → e.chip = s.pkg.chip →
      s.busy d.launches (slotCores (Desc.slotKind d.desc) l) = false → s.errors = [] →
      (∀ g, s.boundBy (dieOf l.core) g (some k) = false) →
      (∀ c ∈ [l, e], ∀ r ∈ d.genome, ∀ i, i < r.len →
        s.portHolds (glacierKey (dieOf c.core) (c.base * 65536 + r.off + i)) none = false) →
      ∃ (u : State) (x : Domain) (bytes : Nat), exec (.calve n) s = .next (u.settled k) ∧ u.domains.look? k = some x ∧
        x.fin = some (0, bytes, 0) ∧ x.owed.length = d.owed.length + 1) ∧
    (∀ l e, begins 3 104 → s.descFaults n .read = false → d.readies = [] → d.slots[w.bits 120 16]? = some l →
      d.slots[w.bits 104 16]? = some e → l.chip ≠ s.pkg.chip → e.chip = s.pkg.chip → s.pkg.isDown l.chip = false →
      ∃ t x dr, exec (.drift n) s = .next t ∧ t.domains.look? k = some x ∧ x.drift = some dr ∧ dr.job = some n ∧
        dr.peer = l.chip ∧ t.outbox.length = s.outbox.length + 1) ∧
    (begins 4 64 → fn = 1 → s.descFaults n .write = false → w.bits 70 64 % 64 = 0 → 0x20000 ≤ w.bits 70 64 →
      4 ≤ w.bits 64 6 → w.bits 64 6 ≤ 20 → s.producer k = s.consumer k →
      ∃ t q, exec (.moraineSet n) s = .next t ∧ t.jobs.look? n = some q ∧ q.state = .bodyDone ∧ q.status = 0) ∧
    (begins 4 64 → fn = 0 → w.bits 70 64 = 0 → w.bits 64 6 = 0 → s.descFaults n .read = false →
      ∃ t q, exec (.moraineFlush n) s = .next t ∧ t.jobs.look? n = some q ∧ q.state = .bodyDone ∧ q.status = 0)) ∧
  (∀ (s : State) (k : Nat) (d : Domain), s.domains.look? k = some d → s.domainById d.domainId.toNat = some (k, d) →
    let id := d.domainId.toNat
    (Desc.period d.desc ≠ 0 → d.lastTimer < s.time.ns / Desc.period d.desc → ∃ t x,
      exec (.selectionTimer k) s = .next t ∧ t.domains.look? k = some x ∧ x.lastTimer = s.time.ns / Desc.period d.desc) ∧
    (d.requests = [] → d.owed = [] → d.fin = none → d.drift = none → d.calve = none → d.phase = .begin_ → ∃ t x,
      exec (.selectionRound k) s = .next t ∧ t.domains.look? k = some x ∧ x.phase = .exchange ∧
        x.round = s.roundField k + 1) ∧
    (∀ r a, d.owed = [r] → d.drift = none → d.fin = none → d.phase = .idle →
      (s.producer k - s.consumer k).toNat ≠ 2 ^ Desc.ringSize d.desc → s.unitKey d.part d.asid (BitVec.ofNat 64
        (Desc.ringBase d.desc + 64 * ((s.producer k).toNat % 2 ^ Desc.ringSize d.desc))) .write = some a →
      ∃ t x, exec (.moraineRingSpace k) s = .next t ∧ t.domains.look? k = some x ∧ x.owed = []) ∧
    (∀ chip round fit reg, d.unheard.contains (chip, round) = false → ∃ t x,
      exec (.fitnessExchange id chip round fit reg) s = .next t ∧ t.domains.look? k = some x ∧
        x.inbox = d.inbox ++ [(chip, round, fit, reg)]) ∧
    (∀ chip round loser parent l, d.drift = none → d.calve = none → d.requests = [] → d.owed = [] → d.fin = none →
      d.slots[loser]? = some l → l.chip = s.pkg.chip → d.chipOf parent = chip → chip ≠ s.pkg.chip →
      s.pkg.isDown chip = false → s.busy d.launches (slotCores (Desc.slotKind d.desc) l) = false →
      ∃ t x dr, exec (.driftRequest id chip round loser parent) s = .next t ∧ t.domains.look? k = some x ∧
        x.drift = some dr ∧ dr.pair = ⟨loser, parent⟩ ∧ dr.peer = chip ∧ dr.round = round) ∧
    (∀ dr, d.drift = some dr → d.owed = [] → d.fin = none → d.calve = none → dr.asked = false →
      (∀ c ∈ d.slots, ∀ r ∈ d.genome, ∀ i, i < r.len →
        s.portHolds (glacierKey (dieOf c.core) (c.base * 65536 + r.off + i)) none = false) →
      (∀ e, dr.loserHere = false → dr.streamed = false → d.readies = [] → d.slots[dr.pair.parent]? = some e →
        ∃ t x dr', exec (.driftReady id dr.round dr.pair.loser true) s = .next t ∧ t.domains.look? k = some x ∧
          x.drift = some dr' ∧ dr'.streamed = true ∧ t.outbox.length = s.outbox.length + 1) ∧
      (∀ l bytes fit, dr.loserHere = true → d.slots[dr.pair.loser]? = some l →
        (∀ g, s.boundBy (dieOf l.core) g (some k) = false) →
        ∃ (u : State) (x : Domain), exec (.driftStream id dr.round dr.pair.loser bytes fit 0) s = .next (u.settled k) ∧
          u.domains.look? k = some x ∧ x.drift = none ∧ x.suspended = none ∧ x.owed.length = 1) ∧
      (∀ bytes, dr.streamed = true → ∃ (u : State) (x : Domain),
        exec (.driftAcknowledgement id dr.round dr.pair.loser 0 bytes) s = .next (u.settled k) ∧
          u.domains.look? k = some x ∧ x.drift = none ∧ x.owed.length = 1)))

/-- A step runs the decoded instruction: where the script or the schedule lets a core issue, the context that it picks
runs its next instruction; and where an event of the script, of this chip's own floe messages or of the package's units
comes, step is exec of it, with only the performance counters counting beside it and a free value in a domain's field
that the program has written (log 54), and after an event the context that issued last is as before. With nothing left
to do in a tick, the next begins (log 29). -/
def Obligations.StepRunsDecoded : Prop :=
  (∀ (s : State) (core k : Nat) (rest : List Turn), s.turns = .issue core :: rest →
    let r : State := { s with turns := rest }
    (r.canIssue core = true → r.beforeIssue core = none → r.pick core = some k → step s = runIssue r k) ∧
    (r.canIssue core = false → r.coreLeft = none → r.beforeIssue core = none → r.tickEvent = none →
      (r.cycle.canIssue core = true → r.cycle.beforeIssue core = none → r.cycle.pick core = some k →
        step s = runIssue r.cycle k) ∧
      (r.cycle.canIssue core = false → step s = .next r.cycle))) ∧
  (∀ (s : State) (core k : Nat), s.turns = [] → s.localFloe = [] → s.nextEvent = none → s.coreLeft = some core →
    s.beforeIssue core = none → s.pick core = some k → step s = runIssue s k) ∧
  (∀ (s : State) (k w : Nat) (u v : State) (i : Instr),
    let a := s.issue k
    a.th.flake = none → a.fetchWord a.th.at_ = .ok (w, u) → decode w = .ok i → (u.core u.me).regError = false →
    exec i u = .next v →
    ∃ x, Accounted v.spoilFields x ∧
      (x.th.imx = none → runIssue s k = .next x) ∧
      ∀ (y z : State) (f : Nat) (j : Instr), x.th.imx ≠ none → x.th.flake = none →
        x.fetchWord (x.th.pc + 4) = .ok (f, y) → decode f = .ok j → (y.core y.me).regError = false →
        exec j y = .next z → ∃ x', Accounted z.spoilFields x' ∧ runIssue s k = .next x') ∧
  (∀ (s t : State) (i : Instr) (m : FloeMsg) (rest : List Turn) (more : List FloeMsg), encode i = none →
    (((s.turns = [] ∧ s.localFloe = [] ∧ s.nextEvent = some i ∧ exec i s = .next t) ∨
      (s.turns = .event i :: rest ∧ isEnd i = false ∧ exec i { s with turns := rest } = .next t) ∨
      (s.turns = [] ∧ s.localFloe = m :: more ∧ m.event = some i ∧ exec i { s with localFloe := more } = .next t)) →
      ∃ x, Accounted ({ t with cur := s.cur } : State).spoilFields x ∧ step s = .next x) ∧
    (((s.turns = [] ∧ s.localFloe = [] ∧ s.nextEvent = none ∧ s.coreLeft = none ∧ s.endEvent = some i ∧ exec i s = .next t) ∨
      (s.turns = .event i :: rest ∧ isEnd i = true ∧ s.coreLeft = none ∧
        exec i { s with turns := rest } = .next t)) →
      ∃ x, Accounted ({ t with cur := s.cur } : State).spoilFields x ∧ step s = .next x.closeTick)) ∧
  (∀ s : State, s.turns = [] → s.localFloe = [] → s.nextEvent = none → s.coreLeft = none → s.endEvent = none →
    step s = .next s.cycle)

/-- No instruction and no event stops the package: every run, of any length and from every state, goes on. -/
def Obligations.NeverStops : Prop := ∀ s : State, RunsOn s

/-- What reset leaves. Of the values that the spec gives: every context idle, s0 zero with every register of an idle
context, fitness 0x7FC00000 and full run levels on every core, clock steps 4, 4, 4 and 7 in every partition,
uncertainty 0xFFFFFFFF with a free servo, a down interval of 300 and no interrupt, message, store, job, launch or floe.
The memory's zeros and an ASID's generation 0 are the model's choices (logs 2, 3). At reset memory has its canonical
form. -/
def Obligations.ResetStateAndInvariant : Prop :=
  (let s := State.reset
   (∀ k, s.ctx k = {}) ∧ (∀ k r, (s.thAt k).S r = 0) ∧ (∀ k, (s.thAt k).rn = true ∧ (s.thAt k).jn = false) ∧
   (∀ k, (s.core k).fit = 0x7FC00000 ∧ (s.core k).mail = [] ∧ (s.core k).runq = []) ∧
   (∀ p, (s.part p).steps = { m := 4, v := 4, n := 4, b := 7 } ∧ (s.part p).power = 0 ∧ (s.part p).clkgen = 0) ∧
   s.time.u = 0xFFFFFFFF ∧ s.time.servo = .free ∧ s.time.source = none ∧ s.pkg.downint = 300 ∧ s.pkg.pwrcap = 2600 ∧
   s.mesh = [] ∧ s.stores = [] ∧ s.jobs = [] ∧ s.launches = [] ∧ s.floes = [] ∧ s.domains = [] ∧ s.outbox = [] ∧
   (∀ k n, s.slots.look? (k * 64 + n) = none) ∧ (∀ a, s.tvec.get 0 a = 0) ∧
   (∀ k, Memory.read1 s.mem k = 0) ∧ (∀ a, s.gens.get 0 a = 0)) ∧
  (MemInv State.reset)

/-- Every step keeps the canonical form of memory, from every state that has it. -/
def Obligations.StepKeepsInv : Prop := ∀ s t : State, MemInv s → step s = .next t → MemInv t
end

