-- ==== Sys2Proof/Laws/Table.lean ====
section
/-!
SUPPORT. Sys2Proof/Laws/Table.lean: the laws of the keyed tables: reading after a write, an erasure and a change of
every value.
-/

namespace Sys2Proof

@[simp] theorem Tbl.get_nil {α : Type} (d : α) (n : Nat) : Tbl.get d [] n = d := rfl

@[simp] theorem Tbl.look?_nil {α : Type} (n : Nat) : Tbl.look? ([] : Tbl α) n = none := rfl

/-- A read is the entry listed, or the default. -/
theorem Tbl.get_eq_look? {α : Type} (d : α) (t : Tbl α) (n : Nat) : Tbl.get d t n = (Tbl.look? t n).getD d := by
  induction t with
  | nil => rfl
  | cons p t ih => obtain ⟨k, v⟩ := p; simp only [Tbl.get, Tbl.look?]; split <;> simp [ih]

@[simp] theorem Tbl.look?_insert_self {α : Type} (t : Tbl α) (n : Nat) (v : α) :
    Tbl.look? (Tbl.insert t n v) n = some v := by
  induction t with
  | nil => simp [Tbl.insert, Tbl.look?]
  | cons p t ih =>
    obtain ⟨k, w⟩ := p
    simp only [Tbl.insert]
    split
    · simp [Tbl.look?]
    · split
      · simp [Tbl.look?]
      · simp [Tbl.look?, *]

@[simp] theorem Tbl.look?_insert_ne {α : Type} (t : Tbl α) {n m : Nat} (v : α) (h : m ≠ n) :
    Tbl.look? (Tbl.insert t n v) m = Tbl.look? t m := by
  induction t with
  | nil => simp [Tbl.insert, Tbl.look?, h]
  | cons p t ih =>
    obtain ⟨k, w⟩ := p
    simp only [Tbl.insert]
    split
    · simp [Tbl.look?, h]
    · split
      · subst_vars; simp [Tbl.look?, h]
      · simp [Tbl.look?, ih]

theorem Tbl.look?_insert {α : Type} (t : Tbl α) (n m : Nat) (v : α) :
    Tbl.look? (Tbl.insert t n v) m = if m = n then some v else Tbl.look? t m := by
  split
  · subst_vars; simp
  · simp [*]

@[simp] theorem Tbl.get_insert_self {α : Type} (d : α) (t : Tbl α) (n : Nat) (v : α) :
    Tbl.get d (Tbl.insert t n v) n = v := by simp [Tbl.get_eq_look?]

@[simp] theorem Tbl.get_insert_ne {α : Type} (d : α) (t : Tbl α) {n m : Nat} (v : α) (h : m ≠ n) :
    Tbl.get d (Tbl.insert t n v) m = Tbl.get d t m := by simp [Tbl.get_eq_look?, h]

theorem Tbl.get_insert {α : Type} (d : α) (t : Tbl α) (n m : Nat) (v : α) :
    Tbl.get d (Tbl.insert t n v) m = if m = n then v else Tbl.get d t m := by
  split
  · subst_vars; simp
  · simp [*]

@[simp] theorem Tbl.look?_erase_self {α : Type} (t : Tbl α) (n : Nat) : Tbl.look? (Tbl.erase t n) n = none := by
  induction t with
  | nil => rfl
  | cons p t ih =>
    obtain ⟨k, w⟩ := p
    by_cases h : k = n
    · simp_all [Tbl.erase]
    · have : n ≠ k := fun e => h e.symm
      simp_all [Tbl.erase, Tbl.look?]

@[simp] theorem Tbl.look?_erase_ne {α : Type} (t : Tbl α) {n m : Nat} (h : m ≠ n) :
    Tbl.look? (Tbl.erase t n) m = Tbl.look? t m := by
  induction t with
  | nil => rfl
  | cons p t ih =>
    obtain ⟨k, w⟩ := p
    by_cases hk : k = n
    · subst hk; simp_all [Tbl.erase, Tbl.look?]
    · simp_all [Tbl.erase, Tbl.look?]

@[simp] theorem Tbl.get_erase_self {α : Type} (d : α) (t : Tbl α) (n : Nat) : Tbl.get d (Tbl.erase t n) n = d := by
  simp [Tbl.get_eq_look?]

@[simp] theorem Tbl.get_erase_ne {α : Type} (d : α) (t : Tbl α) {n m : Nat} (h : m ≠ n) :
    Tbl.get d (Tbl.erase t n) m = Tbl.get d t m := by simp [Tbl.get_eq_look?, h]

theorem Tbl.look?_mapVal {α β : Type} (f : Nat → α → β) (t : Tbl α) (n : Nat) :
    Tbl.look? (Tbl.mapVal f t) n = (Tbl.look? t n).map (f n) := by
  induction t with
  | nil => rfl
  | cons p t ih =>
    obtain ⟨k, w⟩ := p
    have : Tbl.mapVal f ((k, w) :: t) = (k, f k w) :: Tbl.mapVal f t := rfl
    rw [this]
    by_cases h : n = k
    · subst h; simp [Tbl.look?]
    · simp [Tbl.look?, h, ih]

/-- A change that keeps the default reads through. -/
theorem Tbl.get_mapVal {α β : Type} (f : Nat → α → β) (d : α) (e : β) (t : Tbl α) (n : Nat) (h : f n d = e) :
    Tbl.get e (Tbl.mapVal f t) n = f n (Tbl.get d t n) := by
  rw [Tbl.get_eq_look?, Tbl.get_eq_look?, Tbl.look?_mapVal]
  cases Tbl.look? t n <;> simp [h]

end Sys2Proof
end

