-- ==== Sys2Proof/Laws/Memory.lean ====
section
/-!
SUPPORT. Sys2Proof/Laws/Memory.lean: memory keeps its canonical form under every operation, a read after a write gives
the bytes written, and a write leaves every other byte alone.
-/

namespace Sys2Proof.Machine

open Sys2Proof

/-! ## The canonical form -/

theorem Memory.wf_iff (m : List Host.Cell) :
    Memory.wf m = true ↔ (m.Pairwise fun a b => a.1 < b.1) ∧ ∀ c ∈ m, c.2 ≠ unlistedByte := by
  simp [Memory.wf, List.all_eq_true]

theorem Memory.wf_nil : Memory.wf [] = true := by simp [Memory.wf]

theorem Memory.wf_cons (c : Host.Cell) (m : List Host.Cell) :
    Memory.wf (c :: m) = true ↔ (∀ b ∈ m, c.1 < b.1) ∧ c.2 ≠ unlistedByte ∧ Memory.wf m = true := by
  simp only [Memory.wf_iff, List.pairwise_cons, List.mem_cons, forall_eq_or_imp]
  constructor
  · rintro ⟨⟨a, b⟩, c, d⟩; exact ⟨a, c, b, d⟩
  · rintro ⟨a, c, b, d⟩; exact ⟨⟨a, b⟩, c, d⟩

/-- Every key of an insertion was listed or is the new one. -/
theorem Tbl.mem_insert {α : Type} (t : Tbl α) (n : Nat) (v : α) (p : Nat × α) (h : p ∈ Tbl.insert t n v) :
    p = (n, v) ∨ p ∈ t := by
  induction t with
  | nil => simp [Tbl.insert] at h; simp [h]
  | cons q t ih =>
    obtain ⟨k, w⟩ := q
    simp only [Tbl.insert] at h
    split at h
    · simpa using h
    · split at h
      · simp at h; rcases h with h | h <;> simp [h]
      · simp at h; rcases h with h | h
        · simp [h]
        · rcases ih h with h | h <;> simp [h]

theorem Memory.wf_insert (m : List Host.Cell) (k : Nat) (b : Byte) (hb : b ≠ unlistedByte) (h : Memory.wf m = true) :
    Memory.wf (Tbl.insert m k b) = true := by
  induction m with
  | nil => simpa [Tbl.insert, Memory.wf_cons, Memory.wf_nil] using hb
  | cons q m ih =>
    obtain ⟨j, w⟩ := q
    rw [Memory.wf_cons] at h
    obtain ⟨h1, h2, h3⟩ := h
    simp only [Tbl.insert]
    split
    · next hk =>
      rw [Memory.wf_cons, Memory.wf_cons]
      refine ⟨?_, hb, h1, h2, h3⟩
      intro c hc
      rcases List.mem_cons.mp hc with hc | hc
      · subst hc; exact hk
      · exact Nat.lt_trans hk (h1 c hc)
    · split
      · next _ hk =>
        rw [Memory.wf_cons]
        exact ⟨fun c hc => hk ▸ h1 c hc, hb, h3⟩
      · next hk hk' =>
        rw [Memory.wf_cons]
        refine ⟨?_, h2, ih h3⟩
        intro c hc
        rcases Tbl.mem_insert m k b c hc with hc | hc
        · subst hc; simp only; omega
        · exact h1 c hc

theorem Memory.wf_erase (m : List Host.Cell) (k : Nat) (h : Memory.wf m = true) : Memory.wf (Tbl.erase m k) = true := by
  rw [Memory.wf_iff] at *
  exact ⟨h.1.filter _, fun c hc => h.2 c (List.mem_filter.mp hc).1⟩

/-- A filter of memory keeps the form: a reset or a fence that takes bytes away. -/
theorem Memory.wf_filter (m : List Host.Cell) (p : Host.Cell → Bool) (h : Memory.wf m = true) :
    Memory.wf (m.filter p) = true := by
  rw [Memory.wf_iff] at *
  exact ⟨h.1.filter _, fun c hc => h.2 c (List.mem_filter.mp hc).1⟩

theorem Memory.wf_write1 (m : List Host.Cell) (k : Nat) (b : Byte) (h : Memory.wf m = true) :
    Memory.wf (Memory.write1 m k b) = true := by
  unfold Memory.write1
  split
  · exact Memory.wf_erase m k h
  · next hb => exact Memory.wf_insert m k b hb h

theorem Memory.wf_writeBytes (bs : List Byte) : ∀ (m : List Host.Cell) (k : Nat), Memory.wf m = true →
    Memory.wf (Memory.writeBytes m k bs) = true := by
  induction bs with
  | nil => intro m k h; exact h
  | cons b bs ih => intro m k h; exact ih _ _ (Memory.wf_write1 m k b h)

theorem Memory.wf_writeLE (m : List Host.Cell) (k n x : Nat) (h : Memory.wf m = true) :
    Memory.wf (Memory.writeLE m k n x) = true := Memory.wf_writeBytes _ _ _ h

/-! ## Reading after a write -/

@[simp] theorem Memory.read1_write1 (m : List Host.Cell) (k : Nat) (b : Byte) :
    Memory.read1 (Memory.write1 m k b) k = b := by
  unfold Memory.write1 Memory.read1
  split
  · next h => simp [h]
  · simp

@[simp] theorem Memory.read1_write1_ne (m : List Host.Cell) {k j : Nat} (b : Byte) (h : j ≠ k) :
    Memory.read1 (Memory.write1 m k b) j = Memory.read1 m j := by
  unfold Memory.write1 Memory.read1
  split
  · simp [h]
  · simp [h]

/-- A write of bytes changes only them. -/
theorem Memory.read1_writeBytes (bs : List Byte) : ∀ (m : List Host.Cell) (k j : Nat),
    Memory.read1 (Memory.writeBytes m k bs) j = if k ≤ j ∧ j < k + bs.length then bs.getD (j - k) 0 else Memory.read1 m j := by
  induction bs with
  | nil =>
    intro m k j
    rw [if_neg (by simp only [List.length_nil]; omega)]
    rfl
  | cons b bs ih =>
    intro m k j
    simp only [Memory.writeBytes, List.length_cons]
    rw [ih]
    by_cases hj : j = k
    · subst hj
      rw [if_neg (by omega), if_pos (by omega), Memory.read1_write1, Nat.sub_self]
      rfl
    · by_cases hr : k + 1 ≤ j ∧ j < k + 1 + bs.length
      · rw [if_pos hr, if_pos (by omega)]
        have : j - k = (j - (k + 1)) + 1 := by omega
        rw [this]; rfl
      · rw [if_neg hr, if_neg (by omega)]
        exact Memory.read1_write1_ne m b hj

/-- Outside the bytes written, memory reads as before. -/
theorem Memory.read1_writeBytes_outside (m : List Host.Cell) (k j : Nat) (bs : List Byte)
    (h : j < k ∨ k + bs.length ≤ j) : Memory.read1 (Memory.writeBytes m k bs) j = Memory.read1 m j := by
  rw [Memory.read1_writeBytes, if_neg (by omega)]

@[simp] theorem leBytes_length (n : Nat) : ∀ x, (leBytes n x).length = n := by
  induction n with
  | zero => intro x; rfl
  | succ n ih => intro x; simp [leBytes, ih]

/-- The bytes of a number give it back, modulo their width. -/
theorem leNat_leBytes (n : Nat) : ∀ x, leNat (leBytes n x) = x % 256 ^ n := by
  induction n with
  | zero => intro x; simp [leBytes, leNat, Nat.mod_one]
  | succ n ih =>
    intro x
    simp only [leBytes, leNat, ih, BitVec.toNat_ofNat]
    rw [show (2 : Nat) ^ 8 = 256 by decide, Nat.pow_succ', Nat.mod_mul]

theorem Memory.readBytes_writeBytes (bs : List Byte) : ∀ (m : List Host.Cell) (k : Nat),
    Memory.readBytes (Memory.writeBytes m k bs) k bs.length = bs := by
  induction bs with
  | nil => intro m k; rfl
  | cons b bs ih =>
    intro m k
    simp only [List.length_cons, Memory.readBytes, Memory.writeBytes]
    rw [ih, Memory.read1_writeBytes_outside _ _ _ _ (by omega), Memory.read1_write1]

/-- A number written at a key reads back, modulo its width. -/
theorem Memory.readLE_writeLE (m : List Host.Cell) (k n x : Nat) :
    Memory.readLE (Memory.writeLE m k n x) k n = x % 256 ^ n := by
  have h := Memory.readBytes_writeBytes (leBytes n x) m k
  rw [leBytes_length] at h
  rw [Memory.readLE, Memory.writeLE, h, leNat_leBytes]

/-- Bytes read at a key depend on those bytes alone. -/
theorem Memory.readBytes_congr (m m' : List Host.Cell) : ∀ (n k : Nat),
    (∀ j, k ≤ j → j < k + n → Memory.read1 m j = Memory.read1 m' j) → Memory.readBytes m k n = Memory.readBytes m' k n := by
  intro n
  induction n with
  | zero => intro k _; rfl
  | succ n ih =>
    intro k h
    simp only [Memory.readBytes]
    rw [h k (by omega) (by omega), ih (k + 1) fun j hj hj' => h j (by omega) (by omega)]

/-! ## Landing -/

@[simp] theorem State.mem_markDirty (s : State) (k n : Nat) : (s.markDirty k n).mem = s.mem := by
  unfold State.markDirty; split <;> rfl

@[simp] theorem State.mem_land (s : State) (k : Nat) (bs : List Byte) :
    (s.land k bs).mem = Memory.writeBytes s.mem k bs := by simp [State.land]

@[simp] theorem State.mem_landLE (s : State) (k n x : Nat) : (s.landLE k n x).mem = Memory.writeLE s.mem k n x := by
  simp [State.landLE, Memory.writeLE]

@[simp] theorem State.mem_landTagged (s : State) (k : Nat) (bs : List Byte) (tag : Bool) :
    (s.landTagged k bs tag).mem = Memory.writeBytes s.mem k bs := by
  unfold State.landTagged
  by_cases h : tag = true <;> simp [h]

/-- Every landing keeps the canonical form. -/
theorem State.wf_land (s : State) (k : Nat) (bs : List Byte) (h : Memory.wf s.mem = true) :
    Memory.wf (s.land k bs).mem = true := by rw [State.mem_land]; exact Memory.wf_writeBytes _ _ _ h

theorem State.wf_landTagged (s : State) (k : Nat) (bs : List Byte) (tag : Bool) (h : Memory.wf s.mem = true) :
    Memory.wf (s.landTagged k bs tag).mem = true := by rw [State.mem_landTagged]; exact Memory.wf_writeBytes _ _ _ h

end Sys2Proof.Machine
end

