-- ==== Sys2Proof/Laws/State.lean ====
section
/-!
SUPPORT. Sys2Proof/Laws/State.lean: one lemma per field and update of State and Thread, true by unfolding, and the
reads of a context, core or partition after a write of one.
-/

namespace Sys2Proof.Machine

open Sys2Proof


/-! ## State.setCtx -/

@[simp] theorem State.setCtx_cur (s : State) (k : Nat) (x : Ctx) : (s.setCtx k x).cur = s.cur := rfl
@[simp] theorem State.setCtx_cores (s : State) (k : Nat) (x : Ctx) : (s.setCtx k x).cores = s.cores := rfl
@[simp] theorem State.setCtx_clusters (s : State) (k : Nat) (x : Ctx) : (s.setCtx k x).clusters = s.clusters := rfl
@[simp] theorem State.setCtx_mem (s : State) (k : Nat) (x : Ctx) : (s.setCtx k x).mem = s.mem := rfl
@[simp] theorem State.setCtx_tags (s : State) (k : Nat) (x : Ctx) : (s.setCtx k x).tags = s.tags := rfl
@[simp] theorem State.setCtx_errors (s : State) (k : Nat) (x : Ctx) : (s.setCtx k x).errors = s.errors := rfl
@[simp] theorem State.setCtx_stores (s : State) (k : Nat) (x : Ctx) : (s.setCtx k x).stores = s.stores := rfl
@[simp] theorem State.setCtx_mesh (s : State) (k : Nat) (x : Ctx) : (s.setCtx k x).mesh = s.mesh := rfl
@[simp] theorem State.setCtx_jobs (s : State) (k : Nat) (x : Ctx) : (s.setCtx k x).jobs = s.jobs := rfl
@[simp] theorem State.setCtx_fills (s : State) (k : Nat) (x : Ctx) : (s.setCtx k x).fills = s.fills := rfl
@[simp] theorem State.setCtx_gens (s : State) (k : Nat) (x : Ctx) : (s.setCtx k x).gens = s.gens := rfl
@[simp] theorem State.setCtx_notices (s : State) (k : Nat) (x : Ctx) : (s.setCtx k x).notices = s.notices := rfl
@[simp] theorem State.setCtx_tvec (s : State) (k : Nat) (x : Ctx) : (s.setCtx k x).tvec = s.tvec := rfl
@[simp] theorem State.setCtx_bindings (s : State) (k : Nat) (x : Ctx) : (s.setCtx k x).bindings = s.bindings := rfl
@[simp] theorem State.setCtx_parts (s : State) (k : Nat) (x : Ctx) : (s.setCtx k x).parts = s.parts := rfl
@[simp] theorem State.setCtx_slots (s : State) (k : Nat) (x : Ctx) : (s.setCtx k x).slots = s.slots := rfl
@[simp] theorem State.setCtx_launches (s : State) (k : Nat) (x : Ctx) : (s.setCtx k x).launches = s.launches := rfl
@[simp] theorem State.setCtx_images (s : State) (k : Nat) (x : Ctx) : (s.setCtx k x).images = s.images := rfl
@[simp] theorem State.setCtx_floes (s : State) (k : Nat) (x : Ctx) : (s.setCtx k x).floes = s.floes := rfl
@[simp] theorem State.setCtx_heldFloe (s : State) (k : Nat) (x : Ctx) : (s.setCtx k x).heldFloe = s.heldFloe := rfl
@[simp] theorem State.setCtx_localFloe (s : State) (k : Nat) (x : Ctx) : (s.setCtx k x).localFloe = s.localFloe := rfl
@[simp] theorem State.setCtx_domains (s : State) (k : Nat) (x : Ctx) : (s.setCtx k x).domains = s.domains := rfl
@[simp] theorem State.setCtx_decrements (s : State) (k : Nat) (x : Ctx) : (s.setCtx k x).decrements = s.decrements := rfl
@[simp] theorem State.setCtx_time (s : State) (k : Nat) (x : Ctx) : (s.setCtx k x).time = s.time := rfl
@[simp] theorem State.setCtx_pkg (s : State) (k : Nat) (x : Ctx) : (s.setCtx k x).pkg = s.pkg := rfl
@[simp] theorem State.setCtx_outbox (s : State) (k : Nat) (x : Ctx) : (s.setCtx k x).outbox = s.outbox := rfl
@[simp] theorem State.setCtx_vcycle (s : State) (k : Nat) (x : Ctx) : (s.setCtx k x).vcycle = s.vcycle := rfl
@[simp] theorem State.setCtx_nTime (s : State) (k : Nat) (x : Ctx) : (s.setCtx k x).nTime = s.nTime := rfl
@[simp] theorem State.setCtx_bTime (s : State) (k : Nat) (x : Ctx) : (s.setCtx k x).bTime = s.bTime := rfl
@[simp] theorem State.setCtx_issued (s : State) (k : Nat) (x : Ctx) : (s.setCtx k x).issued = s.issued := rfl
@[simp] theorem State.setCtx_closed (s : State) (k : Nat) (x : Ctx) : (s.setCtx k x).closed = s.closed := rfl
@[simp] theorem State.setCtx_portQueue (s : State) (k : Nat) (x : Ctx) : (s.setCtx k x).portQueue = s.portQueue := rfl
@[simp] theorem State.setCtx_undo (s : State) (k : Nat) (x : Ctx) : (s.setCtx k x).undo = s.undo := rfl
@[simp] theorem State.setCtx_nextId (s : State) (k : Nat) (x : Ctx) : (s.setCtx k x).nextId = s.nextId := rfl
@[simp] theorem State.setCtx_free (s : State) (k : Nat) (x : Ctx) : (s.setCtx k x).free = s.free := rfl
@[simp] theorem State.setCtx_turns (s : State) (k : Nat) (x : Ctx) : (s.setCtx k x).turns = s.turns := rfl

/-! ## State.setThAt -/

@[simp] theorem State.setThAt_cur (s : State) (k : Nat) (x : Thread) : (s.setThAt k x).cur = s.cur := rfl
@[simp] theorem State.setThAt_cores (s : State) (k : Nat) (x : Thread) : (s.setThAt k x).cores = s.cores := rfl
@[simp] theorem State.setThAt_clusters (s : State) (k : Nat) (x : Thread) : (s.setThAt k x).clusters = s.clusters := rfl
@[simp] theorem State.setThAt_mem (s : State) (k : Nat) (x : Thread) : (s.setThAt k x).mem = s.mem := rfl
@[simp] theorem State.setThAt_tags (s : State) (k : Nat) (x : Thread) : (s.setThAt k x).tags = s.tags := rfl
@[simp] theorem State.setThAt_errors (s : State) (k : Nat) (x : Thread) : (s.setThAt k x).errors = s.errors := rfl
@[simp] theorem State.setThAt_stores (s : State) (k : Nat) (x : Thread) : (s.setThAt k x).stores = s.stores := rfl
@[simp] theorem State.setThAt_mesh (s : State) (k : Nat) (x : Thread) : (s.setThAt k x).mesh = s.mesh := rfl
@[simp] theorem State.setThAt_jobs (s : State) (k : Nat) (x : Thread) : (s.setThAt k x).jobs = s.jobs := rfl
@[simp] theorem State.setThAt_fills (s : State) (k : Nat) (x : Thread) : (s.setThAt k x).fills = s.fills := rfl
@[simp] theorem State.setThAt_gens (s : State) (k : Nat) (x : Thread) : (s.setThAt k x).gens = s.gens := rfl
@[simp] theorem State.setThAt_notices (s : State) (k : Nat) (x : Thread) : (s.setThAt k x).notices = s.notices := rfl
@[simp] theorem State.setThAt_tvec (s : State) (k : Nat) (x : Thread) : (s.setThAt k x).tvec = s.tvec := rfl
@[simp] theorem State.setThAt_bindings (s : State) (k : Nat) (x : Thread) : (s.setThAt k x).bindings = s.bindings := rfl
@[simp] theorem State.setThAt_parts (s : State) (k : Nat) (x : Thread) : (s.setThAt k x).parts = s.parts := rfl
@[simp] theorem State.setThAt_slots (s : State) (k : Nat) (x : Thread) : (s.setThAt k x).slots = s.slots := rfl
@[simp] theorem State.setThAt_launches (s : State) (k : Nat) (x : Thread) : (s.setThAt k x).launches = s.launches := rfl
@[simp] theorem State.setThAt_images (s : State) (k : Nat) (x : Thread) : (s.setThAt k x).images = s.images := rfl
@[simp] theorem State.setThAt_floes (s : State) (k : Nat) (x : Thread) : (s.setThAt k x).floes = s.floes := rfl
@[simp] theorem State.setThAt_heldFloe (s : State) (k : Nat) (x : Thread) : (s.setThAt k x).heldFloe = s.heldFloe := rfl
@[simp] theorem State.setThAt_localFloe (s : State) (k : Nat) (x : Thread) : (s.setThAt k x).localFloe = s.localFloe := rfl
@[simp] theorem State.setThAt_domains (s : State) (k : Nat) (x : Thread) : (s.setThAt k x).domains = s.domains := rfl
@[simp] theorem State.setThAt_decrements (s : State) (k : Nat) (x : Thread) : (s.setThAt k x).decrements = s.decrements := rfl
@[simp] theorem State.setThAt_time (s : State) (k : Nat) (x : Thread) : (s.setThAt k x).time = s.time := rfl
@[simp] theorem State.setThAt_pkg (s : State) (k : Nat) (x : Thread) : (s.setThAt k x).pkg = s.pkg := rfl
@[simp] theorem State.setThAt_outbox (s : State) (k : Nat) (x : Thread) : (s.setThAt k x).outbox = s.outbox := rfl
@[simp] theorem State.setThAt_vcycle (s : State) (k : Nat) (x : Thread) : (s.setThAt k x).vcycle = s.vcycle := rfl
@[simp] theorem State.setThAt_nTime (s : State) (k : Nat) (x : Thread) : (s.setThAt k x).nTime = s.nTime := rfl
@[simp] theorem State.setThAt_bTime (s : State) (k : Nat) (x : Thread) : (s.setThAt k x).bTime = s.bTime := rfl
@[simp] theorem State.setThAt_issued (s : State) (k : Nat) (x : Thread) : (s.setThAt k x).issued = s.issued := rfl
@[simp] theorem State.setThAt_closed (s : State) (k : Nat) (x : Thread) : (s.setThAt k x).closed = s.closed := rfl
@[simp] theorem State.setThAt_portQueue (s : State) (k : Nat) (x : Thread) : (s.setThAt k x).portQueue = s.portQueue := rfl
@[simp] theorem State.setThAt_undo (s : State) (k : Nat) (x : Thread) : (s.setThAt k x).undo = s.undo := rfl
@[simp] theorem State.setThAt_nextId (s : State) (k : Nat) (x : Thread) : (s.setThAt k x).nextId = s.nextId := rfl
@[simp] theorem State.setThAt_free (s : State) (k : Nat) (x : Thread) : (s.setThAt k x).free = s.free := rfl
@[simp] theorem State.setThAt_turns (s : State) (k : Nat) (x : Thread) : (s.setThAt k x).turns = s.turns := rfl

/-! ## State.setTh -/

@[simp] theorem State.setTh_cur (s : State) (x : Thread) : (s.setTh x).cur = s.cur := rfl
@[simp] theorem State.setTh_cores (s : State) (x : Thread) : (s.setTh x).cores = s.cores := rfl
@[simp] theorem State.setTh_clusters (s : State) (x : Thread) : (s.setTh x).clusters = s.clusters := rfl
@[simp] theorem State.setTh_mem (s : State) (x : Thread) : (s.setTh x).mem = s.mem := rfl
@[simp] theorem State.setTh_tags (s : State) (x : Thread) : (s.setTh x).tags = s.tags := rfl
@[simp] theorem State.setTh_errors (s : State) (x : Thread) : (s.setTh x).errors = s.errors := rfl
@[simp] theorem State.setTh_stores (s : State) (x : Thread) : (s.setTh x).stores = s.stores := rfl
@[simp] theorem State.setTh_mesh (s : State) (x : Thread) : (s.setTh x).mesh = s.mesh := rfl
@[simp] theorem State.setTh_jobs (s : State) (x : Thread) : (s.setTh x).jobs = s.jobs := rfl
@[simp] theorem State.setTh_fills (s : State) (x : Thread) : (s.setTh x).fills = s.fills := rfl
@[simp] theorem State.setTh_gens (s : State) (x : Thread) : (s.setTh x).gens = s.gens := rfl
@[simp] theorem State.setTh_notices (s : State) (x : Thread) : (s.setTh x).notices = s.notices := rfl
@[simp] theorem State.setTh_tvec (s : State) (x : Thread) : (s.setTh x).tvec = s.tvec := rfl
@[simp] theorem State.setTh_bindings (s : State) (x : Thread) : (s.setTh x).bindings = s.bindings := rfl
@[simp] theorem State.setTh_parts (s : State) (x : Thread) : (s.setTh x).parts = s.parts := rfl
@[simp] theorem State.setTh_slots (s : State) (x : Thread) : (s.setTh x).slots = s.slots := rfl
@[simp] theorem State.setTh_launches (s : State) (x : Thread) : (s.setTh x).launches = s.launches := rfl
@[simp] theorem State.setTh_images (s : State) (x : Thread) : (s.setTh x).images = s.images := rfl
@[simp] theorem State.setTh_floes (s : State) (x : Thread) : (s.setTh x).floes = s.floes := rfl
@[simp] theorem State.setTh_heldFloe (s : State) (x : Thread) : (s.setTh x).heldFloe = s.heldFloe := rfl
@[simp] theorem State.setTh_localFloe (s : State) (x : Thread) : (s.setTh x).localFloe = s.localFloe := rfl
@[simp] theorem State.setTh_domains (s : State) (x : Thread) : (s.setTh x).domains = s.domains := rfl
@[simp] theorem State.setTh_decrements (s : State) (x : Thread) : (s.setTh x).decrements = s.decrements := rfl
@[simp] theorem State.setTh_time (s : State) (x : Thread) : (s.setTh x).time = s.time := rfl
@[simp] theorem State.setTh_pkg (s : State) (x : Thread) : (s.setTh x).pkg = s.pkg := rfl
@[simp] theorem State.setTh_outbox (s : State) (x : Thread) : (s.setTh x).outbox = s.outbox := rfl
@[simp] theorem State.setTh_vcycle (s : State) (x : Thread) : (s.setTh x).vcycle = s.vcycle := rfl
@[simp] theorem State.setTh_nTime (s : State) (x : Thread) : (s.setTh x).nTime = s.nTime := rfl
@[simp] theorem State.setTh_bTime (s : State) (x : Thread) : (s.setTh x).bTime = s.bTime := rfl
@[simp] theorem State.setTh_issued (s : State) (x : Thread) : (s.setTh x).issued = s.issued := rfl
@[simp] theorem State.setTh_closed (s : State) (x : Thread) : (s.setTh x).closed = s.closed := rfl
@[simp] theorem State.setTh_portQueue (s : State) (x : Thread) : (s.setTh x).portQueue = s.portQueue := rfl
@[simp] theorem State.setTh_undo (s : State) (x : Thread) : (s.setTh x).undo = s.undo := rfl
@[simp] theorem State.setTh_nextId (s : State) (x : Thread) : (s.setTh x).nextId = s.nextId := rfl
@[simp] theorem State.setTh_free (s : State) (x : Thread) : (s.setTh x).free = s.free := rfl
@[simp] theorem State.setTh_turns (s : State) (x : Thread) : (s.setTh x).turns = s.turns := rfl

/-! ## State.setCore -/

@[simp] theorem State.setCore_cur (s : State) (k : Nat) (x : Core) : (s.setCore k x).cur = s.cur := rfl
@[simp] theorem State.setCore_ctxs (s : State) (k : Nat) (x : Core) : (s.setCore k x).ctxs = s.ctxs := rfl
@[simp] theorem State.setCore_clusters (s : State) (k : Nat) (x : Core) : (s.setCore k x).clusters = s.clusters := rfl
@[simp] theorem State.setCore_mem (s : State) (k : Nat) (x : Core) : (s.setCore k x).mem = s.mem := rfl
@[simp] theorem State.setCore_tags (s : State) (k : Nat) (x : Core) : (s.setCore k x).tags = s.tags := rfl
@[simp] theorem State.setCore_errors (s : State) (k : Nat) (x : Core) : (s.setCore k x).errors = s.errors := rfl
@[simp] theorem State.setCore_stores (s : State) (k : Nat) (x : Core) : (s.setCore k x).stores = s.stores := rfl
@[simp] theorem State.setCore_mesh (s : State) (k : Nat) (x : Core) : (s.setCore k x).mesh = s.mesh := rfl
@[simp] theorem State.setCore_jobs (s : State) (k : Nat) (x : Core) : (s.setCore k x).jobs = s.jobs := rfl
@[simp] theorem State.setCore_fills (s : State) (k : Nat) (x : Core) : (s.setCore k x).fills = s.fills := rfl
@[simp] theorem State.setCore_gens (s : State) (k : Nat) (x : Core) : (s.setCore k x).gens = s.gens := rfl
@[simp] theorem State.setCore_notices (s : State) (k : Nat) (x : Core) : (s.setCore k x).notices = s.notices := rfl
@[simp] theorem State.setCore_tvec (s : State) (k : Nat) (x : Core) : (s.setCore k x).tvec = s.tvec := rfl
@[simp] theorem State.setCore_bindings (s : State) (k : Nat) (x : Core) : (s.setCore k x).bindings = s.bindings := rfl
@[simp] theorem State.setCore_parts (s : State) (k : Nat) (x : Core) : (s.setCore k x).parts = s.parts := rfl
@[simp] theorem State.setCore_slots (s : State) (k : Nat) (x : Core) : (s.setCore k x).slots = s.slots := rfl
@[simp] theorem State.setCore_launches (s : State) (k : Nat) (x : Core) : (s.setCore k x).launches = s.launches := rfl
@[simp] theorem State.setCore_images (s : State) (k : Nat) (x : Core) : (s.setCore k x).images = s.images := rfl
@[simp] theorem State.setCore_floes (s : State) (k : Nat) (x : Core) : (s.setCore k x).floes = s.floes := rfl
@[simp] theorem State.setCore_heldFloe (s : State) (k : Nat) (x : Core) : (s.setCore k x).heldFloe = s.heldFloe := rfl
@[simp] theorem State.setCore_localFloe (s : State) (k : Nat) (x : Core) : (s.setCore k x).localFloe = s.localFloe := rfl
@[simp] theorem State.setCore_domains (s : State) (k : Nat) (x : Core) : (s.setCore k x).domains = s.domains := rfl
@[simp] theorem State.setCore_decrements (s : State) (k : Nat) (x : Core) : (s.setCore k x).decrements = s.decrements := rfl
@[simp] theorem State.setCore_time (s : State) (k : Nat) (x : Core) : (s.setCore k x).time = s.time := rfl
@[simp] theorem State.setCore_pkg (s : State) (k : Nat) (x : Core) : (s.setCore k x).pkg = s.pkg := rfl
@[simp] theorem State.setCore_outbox (s : State) (k : Nat) (x : Core) : (s.setCore k x).outbox = s.outbox := rfl
@[simp] theorem State.setCore_vcycle (s : State) (k : Nat) (x : Core) : (s.setCore k x).vcycle = s.vcycle := rfl
@[simp] theorem State.setCore_nTime (s : State) (k : Nat) (x : Core) : (s.setCore k x).nTime = s.nTime := rfl
@[simp] theorem State.setCore_bTime (s : State) (k : Nat) (x : Core) : (s.setCore k x).bTime = s.bTime := rfl
@[simp] theorem State.setCore_issued (s : State) (k : Nat) (x : Core) : (s.setCore k x).issued = s.issued := rfl
@[simp] theorem State.setCore_closed (s : State) (k : Nat) (x : Core) : (s.setCore k x).closed = s.closed := rfl
@[simp] theorem State.setCore_portQueue (s : State) (k : Nat) (x : Core) : (s.setCore k x).portQueue = s.portQueue := rfl
@[simp] theorem State.setCore_undo (s : State) (k : Nat) (x : Core) : (s.setCore k x).undo = s.undo := rfl
@[simp] theorem State.setCore_nextId (s : State) (k : Nat) (x : Core) : (s.setCore k x).nextId = s.nextId := rfl
@[simp] theorem State.setCore_free (s : State) (k : Nat) (x : Core) : (s.setCore k x).free = s.free := rfl
@[simp] theorem State.setCore_turns (s : State) (k : Nat) (x : Core) : (s.setCore k x).turns = s.turns := rfl

/-! ## State.setPart -/

@[simp] theorem State.setPart_cur (s : State) (k : Nat) (x : Part) : (s.setPart k x).cur = s.cur := rfl
@[simp] theorem State.setPart_ctxs (s : State) (k : Nat) (x : Part) : (s.setPart k x).ctxs = s.ctxs := rfl
@[simp] theorem State.setPart_cores (s : State) (k : Nat) (x : Part) : (s.setPart k x).cores = s.cores := rfl
@[simp] theorem State.setPart_clusters (s : State) (k : Nat) (x : Part) : (s.setPart k x).clusters = s.clusters := rfl
@[simp] theorem State.setPart_mem (s : State) (k : Nat) (x : Part) : (s.setPart k x).mem = s.mem := rfl
@[simp] theorem State.setPart_tags (s : State) (k : Nat) (x : Part) : (s.setPart k x).tags = s.tags := rfl
@[simp] theorem State.setPart_errors (s : State) (k : Nat) (x : Part) : (s.setPart k x).errors = s.errors := rfl
@[simp] theorem State.setPart_stores (s : State) (k : Nat) (x : Part) : (s.setPart k x).stores = s.stores := rfl
@[simp] theorem State.setPart_mesh (s : State) (k : Nat) (x : Part) : (s.setPart k x).mesh = s.mesh := rfl
@[simp] theorem State.setPart_jobs (s : State) (k : Nat) (x : Part) : (s.setPart k x).jobs = s.jobs := rfl
@[simp] theorem State.setPart_fills (s : State) (k : Nat) (x : Part) : (s.setPart k x).fills = s.fills := rfl
@[simp] theorem State.setPart_gens (s : State) (k : Nat) (x : Part) : (s.setPart k x).gens = s.gens := rfl
@[simp] theorem State.setPart_notices (s : State) (k : Nat) (x : Part) : (s.setPart k x).notices = s.notices := rfl
@[simp] theorem State.setPart_tvec (s : State) (k : Nat) (x : Part) : (s.setPart k x).tvec = s.tvec := rfl
@[simp] theorem State.setPart_bindings (s : State) (k : Nat) (x : Part) : (s.setPart k x).bindings = s.bindings := rfl
@[simp] theorem State.setPart_slots (s : State) (k : Nat) (x : Part) : (s.setPart k x).slots = s.slots := rfl
@[simp] theorem State.setPart_launches (s : State) (k : Nat) (x : Part) : (s.setPart k x).launches = s.launches := rfl
@[simp] theorem State.setPart_images (s : State) (k : Nat) (x : Part) : (s.setPart k x).images = s.images := rfl
@[simp] theorem State.setPart_floes (s : State) (k : Nat) (x : Part) : (s.setPart k x).floes = s.floes := rfl
@[simp] theorem State.setPart_heldFloe (s : State) (k : Nat) (x : Part) : (s.setPart k x).heldFloe = s.heldFloe := rfl
@[simp] theorem State.setPart_localFloe (s : State) (k : Nat) (x : Part) : (s.setPart k x).localFloe = s.localFloe := rfl
@[simp] theorem State.setPart_domains (s : State) (k : Nat) (x : Part) : (s.setPart k x).domains = s.domains := rfl
@[simp] theorem State.setPart_decrements (s : State) (k : Nat) (x : Part) : (s.setPart k x).decrements = s.decrements := rfl
@[simp] theorem State.setPart_time (s : State) (k : Nat) (x : Part) : (s.setPart k x).time = s.time := rfl
@[simp] theorem State.setPart_pkg (s : State) (k : Nat) (x : Part) : (s.setPart k x).pkg = s.pkg := rfl
@[simp] theorem State.setPart_outbox (s : State) (k : Nat) (x : Part) : (s.setPart k x).outbox = s.outbox := rfl
@[simp] theorem State.setPart_vcycle (s : State) (k : Nat) (x : Part) : (s.setPart k x).vcycle = s.vcycle := rfl
@[simp] theorem State.setPart_nTime (s : State) (k : Nat) (x : Part) : (s.setPart k x).nTime = s.nTime := rfl
@[simp] theorem State.setPart_bTime (s : State) (k : Nat) (x : Part) : (s.setPart k x).bTime = s.bTime := rfl
@[simp] theorem State.setPart_issued (s : State) (k : Nat) (x : Part) : (s.setPart k x).issued = s.issued := rfl
@[simp] theorem State.setPart_closed (s : State) (k : Nat) (x : Part) : (s.setPart k x).closed = s.closed := rfl
@[simp] theorem State.setPart_portQueue (s : State) (k : Nat) (x : Part) : (s.setPart k x).portQueue = s.portQueue := rfl
@[simp] theorem State.setPart_undo (s : State) (k : Nat) (x : Part) : (s.setPart k x).undo = s.undo := rfl
@[simp] theorem State.setPart_nextId (s : State) (k : Nat) (x : Part) : (s.setPart k x).nextId = s.nextId := rfl
@[simp] theorem State.setPart_free (s : State) (k : Nat) (x : Part) : (s.setPart k x).free = s.free := rfl
@[simp] theorem State.setPart_turns (s : State) (k : Nat) (x : Part) : (s.setPart k x).turns = s.turns := rfl

/-! ## State.setCluster -/

@[simp] theorem State.setCluster_cur (s : State) (k : Nat) (x : Cluster) : (s.setCluster k x).cur = s.cur := rfl
@[simp] theorem State.setCluster_ctxs (s : State) (k : Nat) (x : Cluster) : (s.setCluster k x).ctxs = s.ctxs := rfl
@[simp] theorem State.setCluster_cores (s : State) (k : Nat) (x : Cluster) : (s.setCluster k x).cores = s.cores := rfl
@[simp] theorem State.setCluster_mem (s : State) (k : Nat) (x : Cluster) : (s.setCluster k x).mem = s.mem := rfl
@[simp] theorem State.setCluster_tags (s : State) (k : Nat) (x : Cluster) : (s.setCluster k x).tags = s.tags := rfl
@[simp] theorem State.setCluster_errors (s : State) (k : Nat) (x : Cluster) : (s.setCluster k x).errors = s.errors := rfl
@[simp] theorem State.setCluster_stores (s : State) (k : Nat) (x : Cluster) : (s.setCluster k x).stores = s.stores := rfl
@[simp] theorem State.setCluster_mesh (s : State) (k : Nat) (x : Cluster) : (s.setCluster k x).mesh = s.mesh := rfl
@[simp] theorem State.setCluster_jobs (s : State) (k : Nat) (x : Cluster) : (s.setCluster k x).jobs = s.jobs := rfl
@[simp] theorem State.setCluster_fills (s : State) (k : Nat) (x : Cluster) : (s.setCluster k x).fills = s.fills := rfl
@[simp] theorem State.setCluster_gens (s : State) (k : Nat) (x : Cluster) : (s.setCluster k x).gens = s.gens := rfl
@[simp] theorem State.setCluster_notices (s : State) (k : Nat) (x : Cluster) : (s.setCluster k x).notices = s.notices := rfl
@[simp] theorem State.setCluster_tvec (s : State) (k : Nat) (x : Cluster) : (s.setCluster k x).tvec = s.tvec := rfl
@[simp] theorem State.setCluster_bindings (s : State) (k : Nat) (x : Cluster) : (s.setCluster k x).bindings = s.bindings := rfl
@[simp] theorem State.setCluster_parts (s : State) (k : Nat) (x : Cluster) : (s.setCluster k x).parts = s.parts := rfl
@[simp] theorem State.setCluster_slots (s : State) (k : Nat) (x : Cluster) : (s.setCluster k x).slots = s.slots := rfl
@[simp] theorem State.setCluster_launches (s : State) (k : Nat) (x : Cluster) : (s.setCluster k x).launches = s.launches := rfl
@[simp] theorem State.setCluster_images (s : State) (k : Nat) (x : Cluster) : (s.setCluster k x).images = s.images := rfl
@[simp] theorem State.setCluster_floes (s : State) (k : Nat) (x : Cluster) : (s.setCluster k x).floes = s.floes := rfl
@[simp] theorem State.setCluster_heldFloe (s : State) (k : Nat) (x : Cluster) : (s.setCluster k x).heldFloe = s.heldFloe := rfl
@[simp] theorem State.setCluster_localFloe (s : State) (k : Nat) (x : Cluster) : (s.setCluster k x).localFloe = s.localFloe := rfl
@[simp] theorem State.setCluster_domains (s : State) (k : Nat) (x : Cluster) : (s.setCluster k x).domains = s.domains := rfl
@[simp] theorem State.setCluster_decrements (s : State) (k : Nat) (x : Cluster) : (s.setCluster k x).decrements = s.decrements := rfl
@[simp] theorem State.setCluster_time (s : State) (k : Nat) (x : Cluster) : (s.setCluster k x).time = s.time := rfl
@[simp] theorem State.setCluster_pkg (s : State) (k : Nat) (x : Cluster) : (s.setCluster k x).pkg = s.pkg := rfl
@[simp] theorem State.setCluster_outbox (s : State) (k : Nat) (x : Cluster) : (s.setCluster k x).outbox = s.outbox := rfl
@[simp] theorem State.setCluster_vcycle (s : State) (k : Nat) (x : Cluster) : (s.setCluster k x).vcycle = s.vcycle := rfl
@[simp] theorem State.setCluster_nTime (s : State) (k : Nat) (x : Cluster) : (s.setCluster k x).nTime = s.nTime := rfl
@[simp] theorem State.setCluster_bTime (s : State) (k : Nat) (x : Cluster) : (s.setCluster k x).bTime = s.bTime := rfl
@[simp] theorem State.setCluster_issued (s : State) (k : Nat) (x : Cluster) : (s.setCluster k x).issued = s.issued := rfl
@[simp] theorem State.setCluster_closed (s : State) (k : Nat) (x : Cluster) : (s.setCluster k x).closed = s.closed := rfl
@[simp] theorem State.setCluster_portQueue (s : State) (k : Nat) (x : Cluster) : (s.setCluster k x).portQueue = s.portQueue := rfl
@[simp] theorem State.setCluster_undo (s : State) (k : Nat) (x : Cluster) : (s.setCluster k x).undo = s.undo := rfl
@[simp] theorem State.setCluster_nextId (s : State) (k : Nat) (x : Cluster) : (s.setCluster k x).nextId = s.nextId := rfl
@[simp] theorem State.setCluster_free (s : State) (k : Nat) (x : Cluster) : (s.setCluster k x).free = s.free := rfl
@[simp] theorem State.setCluster_turns (s : State) (k : Nat) (x : Cluster) : (s.setCluster k x).turns = s.turns := rfl

/-! ## State.setLaunch -/

@[simp] theorem State.setLaunch_cur (s : State) (x : Launch) : (s.setLaunch x).cur = s.cur := rfl
@[simp] theorem State.setLaunch_ctxs (s : State) (x : Launch) : (s.setLaunch x).ctxs = s.ctxs := rfl
@[simp] theorem State.setLaunch_cores (s : State) (x : Launch) : (s.setLaunch x).cores = s.cores := rfl
@[simp] theorem State.setLaunch_clusters (s : State) (x : Launch) : (s.setLaunch x).clusters = s.clusters := rfl
@[simp] theorem State.setLaunch_mem (s : State) (x : Launch) : (s.setLaunch x).mem = s.mem := rfl
@[simp] theorem State.setLaunch_tags (s : State) (x : Launch) : (s.setLaunch x).tags = s.tags := rfl
@[simp] theorem State.setLaunch_errors (s : State) (x : Launch) : (s.setLaunch x).errors = s.errors := rfl
@[simp] theorem State.setLaunch_stores (s : State) (x : Launch) : (s.setLaunch x).stores = s.stores := rfl
@[simp] theorem State.setLaunch_mesh (s : State) (x : Launch) : (s.setLaunch x).mesh = s.mesh := rfl
@[simp] theorem State.setLaunch_jobs (s : State) (x : Launch) : (s.setLaunch x).jobs = s.jobs := rfl
@[simp] theorem State.setLaunch_fills (s : State) (x : Launch) : (s.setLaunch x).fills = s.fills := rfl
@[simp] theorem State.setLaunch_gens (s : State) (x : Launch) : (s.setLaunch x).gens = s.gens := rfl
@[simp] theorem State.setLaunch_notices (s : State) (x : Launch) : (s.setLaunch x).notices = s.notices := rfl
@[simp] theorem State.setLaunch_tvec (s : State) (x : Launch) : (s.setLaunch x).tvec = s.tvec := rfl
@[simp] theorem State.setLaunch_bindings (s : State) (x : Launch) : (s.setLaunch x).bindings = s.bindings := rfl
@[simp] theorem State.setLaunch_parts (s : State) (x : Launch) : (s.setLaunch x).parts = s.parts := rfl
@[simp] theorem State.setLaunch_slots (s : State) (x : Launch) : (s.setLaunch x).slots = s.slots := rfl
@[simp] theorem State.setLaunch_images (s : State) (x : Launch) : (s.setLaunch x).images = s.images := rfl
@[simp] theorem State.setLaunch_floes (s : State) (x : Launch) : (s.setLaunch x).floes = s.floes := rfl
@[simp] theorem State.setLaunch_heldFloe (s : State) (x : Launch) : (s.setLaunch x).heldFloe = s.heldFloe := rfl
@[simp] theorem State.setLaunch_localFloe (s : State) (x : Launch) : (s.setLaunch x).localFloe = s.localFloe := rfl
@[simp] theorem State.setLaunch_domains (s : State) (x : Launch) : (s.setLaunch x).domains = s.domains := rfl
@[simp] theorem State.setLaunch_decrements (s : State) (x : Launch) : (s.setLaunch x).decrements = s.decrements := rfl
@[simp] theorem State.setLaunch_time (s : State) (x : Launch) : (s.setLaunch x).time = s.time := rfl
@[simp] theorem State.setLaunch_pkg (s : State) (x : Launch) : (s.setLaunch x).pkg = s.pkg := rfl
@[simp] theorem State.setLaunch_outbox (s : State) (x : Launch) : (s.setLaunch x).outbox = s.outbox := rfl
@[simp] theorem State.setLaunch_vcycle (s : State) (x : Launch) : (s.setLaunch x).vcycle = s.vcycle := rfl
@[simp] theorem State.setLaunch_nTime (s : State) (x : Launch) : (s.setLaunch x).nTime = s.nTime := rfl
@[simp] theorem State.setLaunch_bTime (s : State) (x : Launch) : (s.setLaunch x).bTime = s.bTime := rfl
@[simp] theorem State.setLaunch_issued (s : State) (x : Launch) : (s.setLaunch x).issued = s.issued := rfl
@[simp] theorem State.setLaunch_closed (s : State) (x : Launch) : (s.setLaunch x).closed = s.closed := rfl
@[simp] theorem State.setLaunch_portQueue (s : State) (x : Launch) : (s.setLaunch x).portQueue = s.portQueue := rfl
@[simp] theorem State.setLaunch_undo (s : State) (x : Launch) : (s.setLaunch x).undo = s.undo := rfl
@[simp] theorem State.setLaunch_nextId (s : State) (x : Launch) : (s.setLaunch x).nextId = s.nextId := rfl
@[simp] theorem State.setLaunch_free (s : State) (x : Launch) : (s.setLaunch x).free = s.free := rfl
@[simp] theorem State.setLaunch_turns (s : State) (x : Launch) : (s.setLaunch x).turns = s.turns := rfl

/-! ## State.setFloe -/

@[simp] theorem State.setFloe_cur (s : State) (x : Floe) : (s.setFloe x).cur = s.cur := rfl
@[simp] theorem State.setFloe_ctxs (s : State) (x : Floe) : (s.setFloe x).ctxs = s.ctxs := rfl
@[simp] theorem State.setFloe_cores (s : State) (x : Floe) : (s.setFloe x).cores = s.cores := rfl
@[simp] theorem State.setFloe_clusters (s : State) (x : Floe) : (s.setFloe x).clusters = s.clusters := rfl
@[simp] theorem State.setFloe_mem (s : State) (x : Floe) : (s.setFloe x).mem = s.mem := rfl
@[simp] theorem State.setFloe_tags (s : State) (x : Floe) : (s.setFloe x).tags = s.tags := rfl
@[simp] theorem State.setFloe_errors (s : State) (x : Floe) : (s.setFloe x).errors = s.errors := rfl
@[simp] theorem State.setFloe_stores (s : State) (x : Floe) : (s.setFloe x).stores = s.stores := rfl
@[simp] theorem State.setFloe_mesh (s : State) (x : Floe) : (s.setFloe x).mesh = s.mesh := rfl
@[simp] theorem State.setFloe_jobs (s : State) (x : Floe) : (s.setFloe x).jobs = s.jobs := rfl
@[simp] theorem State.setFloe_fills (s : State) (x : Floe) : (s.setFloe x).fills = s.fills := rfl
@[simp] theorem State.setFloe_gens (s : State) (x : Floe) : (s.setFloe x).gens = s.gens := rfl
@[simp] theorem State.setFloe_notices (s : State) (x : Floe) : (s.setFloe x).notices = s.notices := rfl
@[simp] theorem State.setFloe_tvec (s : State) (x : Floe) : (s.setFloe x).tvec = s.tvec := rfl
@[simp] theorem State.setFloe_bindings (s : State) (x : Floe) : (s.setFloe x).bindings = s.bindings := rfl
@[simp] theorem State.setFloe_parts (s : State) (x : Floe) : (s.setFloe x).parts = s.parts := rfl
@[simp] theorem State.setFloe_slots (s : State) (x : Floe) : (s.setFloe x).slots = s.slots := rfl
@[simp] theorem State.setFloe_launches (s : State) (x : Floe) : (s.setFloe x).launches = s.launches := rfl
@[simp] theorem State.setFloe_images (s : State) (x : Floe) : (s.setFloe x).images = s.images := rfl
@[simp] theorem State.setFloe_heldFloe (s : State) (x : Floe) : (s.setFloe x).heldFloe = s.heldFloe := rfl
@[simp] theorem State.setFloe_localFloe (s : State) (x : Floe) : (s.setFloe x).localFloe = s.localFloe := rfl
@[simp] theorem State.setFloe_domains (s : State) (x : Floe) : (s.setFloe x).domains = s.domains := rfl
@[simp] theorem State.setFloe_decrements (s : State) (x : Floe) : (s.setFloe x).decrements = s.decrements := rfl
@[simp] theorem State.setFloe_time (s : State) (x : Floe) : (s.setFloe x).time = s.time := rfl
@[simp] theorem State.setFloe_pkg (s : State) (x : Floe) : (s.setFloe x).pkg = s.pkg := rfl
@[simp] theorem State.setFloe_outbox (s : State) (x : Floe) : (s.setFloe x).outbox = s.outbox := rfl
@[simp] theorem State.setFloe_vcycle (s : State) (x : Floe) : (s.setFloe x).vcycle = s.vcycle := rfl
@[simp] theorem State.setFloe_nTime (s : State) (x : Floe) : (s.setFloe x).nTime = s.nTime := rfl
@[simp] theorem State.setFloe_bTime (s : State) (x : Floe) : (s.setFloe x).bTime = s.bTime := rfl
@[simp] theorem State.setFloe_issued (s : State) (x : Floe) : (s.setFloe x).issued = s.issued := rfl
@[simp] theorem State.setFloe_closed (s : State) (x : Floe) : (s.setFloe x).closed = s.closed := rfl
@[simp] theorem State.setFloe_portQueue (s : State) (x : Floe) : (s.setFloe x).portQueue = s.portQueue := rfl
@[simp] theorem State.setFloe_undo (s : State) (x : Floe) : (s.setFloe x).undo = s.undo := rfl
@[simp] theorem State.setFloe_nextId (s : State) (x : Floe) : (s.setFloe x).nextId = s.nextId := rfl
@[simp] theorem State.setFloe_free (s : State) (x : Floe) : (s.setFloe x).free = s.free := rfl
@[simp] theorem State.setFloe_turns (s : State) (x : Floe) : (s.setFloe x).turns = s.turns := rfl

/-! ## State.setDomain -/

@[simp] theorem State.setDomain_cur (s : State) (k : Nat) (x : Domain) : (s.setDomain k x).cur = s.cur := rfl
@[simp] theorem State.setDomain_ctxs (s : State) (k : Nat) (x : Domain) : (s.setDomain k x).ctxs = s.ctxs := rfl
@[simp] theorem State.setDomain_cores (s : State) (k : Nat) (x : Domain) : (s.setDomain k x).cores = s.cores := rfl
@[simp] theorem State.setDomain_clusters (s : State) (k : Nat) (x : Domain) : (s.setDomain k x).clusters = s.clusters := rfl
@[simp] theorem State.setDomain_mem (s : State) (k : Nat) (x : Domain) : (s.setDomain k x).mem = s.mem := rfl
@[simp] theorem State.setDomain_tags (s : State) (k : Nat) (x : Domain) : (s.setDomain k x).tags = s.tags := rfl
@[simp] theorem State.setDomain_errors (s : State) (k : Nat) (x : Domain) : (s.setDomain k x).errors = s.errors := rfl
@[simp] theorem State.setDomain_stores (s : State) (k : Nat) (x : Domain) : (s.setDomain k x).stores = s.stores := rfl
@[simp] theorem State.setDomain_mesh (s : State) (k : Nat) (x : Domain) : (s.setDomain k x).mesh = s.mesh := rfl
@[simp] theorem State.setDomain_jobs (s : State) (k : Nat) (x : Domain) : (s.setDomain k x).jobs = s.jobs := rfl
@[simp] theorem State.setDomain_fills (s : State) (k : Nat) (x : Domain) : (s.setDomain k x).fills = s.fills := rfl
@[simp] theorem State.setDomain_gens (s : State) (k : Nat) (x : Domain) : (s.setDomain k x).gens = s.gens := rfl
@[simp] theorem State.setDomain_notices (s : State) (k : Nat) (x : Domain) : (s.setDomain k x).notices = s.notices := rfl
@[simp] theorem State.setDomain_tvec (s : State) (k : Nat) (x : Domain) : (s.setDomain k x).tvec = s.tvec := rfl
@[simp] theorem State.setDomain_bindings (s : State) (k : Nat) (x : Domain) : (s.setDomain k x).bindings = s.bindings := rfl
@[simp] theorem State.setDomain_parts (s : State) (k : Nat) (x : Domain) : (s.setDomain k x).parts = s.parts := rfl
@[simp] theorem State.setDomain_slots (s : State) (k : Nat) (x : Domain) : (s.setDomain k x).slots = s.slots := rfl
@[simp] theorem State.setDomain_launches (s : State) (k : Nat) (x : Domain) : (s.setDomain k x).launches = s.launches := rfl
@[simp] theorem State.setDomain_images (s : State) (k : Nat) (x : Domain) : (s.setDomain k x).images = s.images := rfl
@[simp] theorem State.setDomain_floes (s : State) (k : Nat) (x : Domain) : (s.setDomain k x).floes = s.floes := rfl
@[simp] theorem State.setDomain_heldFloe (s : State) (k : Nat) (x : Domain) : (s.setDomain k x).heldFloe = s.heldFloe := rfl
@[simp] theorem State.setDomain_localFloe (s : State) (k : Nat) (x : Domain) : (s.setDomain k x).localFloe = s.localFloe := rfl
@[simp] theorem State.setDomain_decrements (s : State) (k : Nat) (x : Domain) : (s.setDomain k x).decrements = s.decrements := rfl
@[simp] theorem State.setDomain_time (s : State) (k : Nat) (x : Domain) : (s.setDomain k x).time = s.time := rfl
@[simp] theorem State.setDomain_pkg (s : State) (k : Nat) (x : Domain) : (s.setDomain k x).pkg = s.pkg := rfl
@[simp] theorem State.setDomain_outbox (s : State) (k : Nat) (x : Domain) : (s.setDomain k x).outbox = s.outbox := rfl
@[simp] theorem State.setDomain_vcycle (s : State) (k : Nat) (x : Domain) : (s.setDomain k x).vcycle = s.vcycle := rfl
@[simp] theorem State.setDomain_nTime (s : State) (k : Nat) (x : Domain) : (s.setDomain k x).nTime = s.nTime := rfl
@[simp] theorem State.setDomain_bTime (s : State) (k : Nat) (x : Domain) : (s.setDomain k x).bTime = s.bTime := rfl
@[simp] theorem State.setDomain_issued (s : State) (k : Nat) (x : Domain) : (s.setDomain k x).issued = s.issued := rfl
@[simp] theorem State.setDomain_closed (s : State) (k : Nat) (x : Domain) : (s.setDomain k x).closed = s.closed := rfl
@[simp] theorem State.setDomain_portQueue (s : State) (k : Nat) (x : Domain) : (s.setDomain k x).portQueue = s.portQueue := rfl
@[simp] theorem State.setDomain_undo (s : State) (k : Nat) (x : Domain) : (s.setDomain k x).undo = s.undo := rfl
@[simp] theorem State.setDomain_nextId (s : State) (k : Nat) (x : Domain) : (s.setDomain k x).nextId = s.nextId := rfl
@[simp] theorem State.setDomain_free (s : State) (k : Nat) (x : Domain) : (s.setDomain k x).free = s.free := rfl
@[simp] theorem State.setDomain_turns (s : State) (k : Nat) (x : Domain) : (s.setDomain k x).turns = s.turns := rfl

/-! ## State.setJob -/

@[simp] theorem State.setJob_cur (s : State) (k : Nat) (x : Job) : (s.setJob k x).cur = s.cur := rfl
@[simp] theorem State.setJob_ctxs (s : State) (k : Nat) (x : Job) : (s.setJob k x).ctxs = s.ctxs := rfl
@[simp] theorem State.setJob_cores (s : State) (k : Nat) (x : Job) : (s.setJob k x).cores = s.cores := rfl
@[simp] theorem State.setJob_clusters (s : State) (k : Nat) (x : Job) : (s.setJob k x).clusters = s.clusters := rfl
@[simp] theorem State.setJob_mem (s : State) (k : Nat) (x : Job) : (s.setJob k x).mem = s.mem := rfl
@[simp] theorem State.setJob_tags (s : State) (k : Nat) (x : Job) : (s.setJob k x).tags = s.tags := rfl
@[simp] theorem State.setJob_errors (s : State) (k : Nat) (x : Job) : (s.setJob k x).errors = s.errors := rfl
@[simp] theorem State.setJob_stores (s : State) (k : Nat) (x : Job) : (s.setJob k x).stores = s.stores := rfl
@[simp] theorem State.setJob_mesh (s : State) (k : Nat) (x : Job) : (s.setJob k x).mesh = s.mesh := rfl
@[simp] theorem State.setJob_fills (s : State) (k : Nat) (x : Job) : (s.setJob k x).fills = s.fills := rfl
@[simp] theorem State.setJob_gens (s : State) (k : Nat) (x : Job) : (s.setJob k x).gens = s.gens := rfl
@[simp] theorem State.setJob_notices (s : State) (k : Nat) (x : Job) : (s.setJob k x).notices = s.notices := rfl
@[simp] theorem State.setJob_tvec (s : State) (k : Nat) (x : Job) : (s.setJob k x).tvec = s.tvec := rfl
@[simp] theorem State.setJob_bindings (s : State) (k : Nat) (x : Job) : (s.setJob k x).bindings = s.bindings := rfl
@[simp] theorem State.setJob_parts (s : State) (k : Nat) (x : Job) : (s.setJob k x).parts = s.parts := rfl
@[simp] theorem State.setJob_slots (s : State) (k : Nat) (x : Job) : (s.setJob k x).slots = s.slots := rfl
@[simp] theorem State.setJob_launches (s : State) (k : Nat) (x : Job) : (s.setJob k x).launches = s.launches := rfl
@[simp] theorem State.setJob_images (s : State) (k : Nat) (x : Job) : (s.setJob k x).images = s.images := rfl
@[simp] theorem State.setJob_floes (s : State) (k : Nat) (x : Job) : (s.setJob k x).floes = s.floes := rfl
@[simp] theorem State.setJob_heldFloe (s : State) (k : Nat) (x : Job) : (s.setJob k x).heldFloe = s.heldFloe := rfl
@[simp] theorem State.setJob_localFloe (s : State) (k : Nat) (x : Job) : (s.setJob k x).localFloe = s.localFloe := rfl
@[simp] theorem State.setJob_domains (s : State) (k : Nat) (x : Job) : (s.setJob k x).domains = s.domains := rfl
@[simp] theorem State.setJob_decrements (s : State) (k : Nat) (x : Job) : (s.setJob k x).decrements = s.decrements := rfl
@[simp] theorem State.setJob_time (s : State) (k : Nat) (x : Job) : (s.setJob k x).time = s.time := rfl
@[simp] theorem State.setJob_pkg (s : State) (k : Nat) (x : Job) : (s.setJob k x).pkg = s.pkg := rfl
@[simp] theorem State.setJob_outbox (s : State) (k : Nat) (x : Job) : (s.setJob k x).outbox = s.outbox := rfl
@[simp] theorem State.setJob_vcycle (s : State) (k : Nat) (x : Job) : (s.setJob k x).vcycle = s.vcycle := rfl
@[simp] theorem State.setJob_nTime (s : State) (k : Nat) (x : Job) : (s.setJob k x).nTime = s.nTime := rfl
@[simp] theorem State.setJob_bTime (s : State) (k : Nat) (x : Job) : (s.setJob k x).bTime = s.bTime := rfl
@[simp] theorem State.setJob_issued (s : State) (k : Nat) (x : Job) : (s.setJob k x).issued = s.issued := rfl
@[simp] theorem State.setJob_closed (s : State) (k : Nat) (x : Job) : (s.setJob k x).closed = s.closed := rfl
@[simp] theorem State.setJob_portQueue (s : State) (k : Nat) (x : Job) : (s.setJob k x).portQueue = s.portQueue := rfl
@[simp] theorem State.setJob_undo (s : State) (k : Nat) (x : Job) : (s.setJob k x).undo = s.undo := rfl
@[simp] theorem State.setJob_nextId (s : State) (k : Nat) (x : Job) : (s.setJob k x).nextId = s.nextId := rfl
@[simp] theorem State.setJob_free (s : State) (k : Nat) (x : Job) : (s.setJob k x).free = s.free := rfl
@[simp] theorem State.setJob_turns (s : State) (k : Nat) (x : Job) : (s.setJob k x).turns = s.turns := rfl

/-! ## State.inject -/

@[simp] theorem State.inject_cur (s : State) (x : Msg) : (s.inject x).cur = s.cur := rfl
@[simp] theorem State.inject_ctxs (s : State) (x : Msg) : (s.inject x).ctxs = s.ctxs := rfl
@[simp] theorem State.inject_cores (s : State) (x : Msg) : (s.inject x).cores = s.cores := rfl
@[simp] theorem State.inject_clusters (s : State) (x : Msg) : (s.inject x).clusters = s.clusters := rfl
@[simp] theorem State.inject_mem (s : State) (x : Msg) : (s.inject x).mem = s.mem := rfl
@[simp] theorem State.inject_tags (s : State) (x : Msg) : (s.inject x).tags = s.tags := rfl
@[simp] theorem State.inject_errors (s : State) (x : Msg) : (s.inject x).errors = s.errors := rfl
@[simp] theorem State.inject_stores (s : State) (x : Msg) : (s.inject x).stores = s.stores := rfl
@[simp] theorem State.inject_jobs (s : State) (x : Msg) : (s.inject x).jobs = s.jobs := rfl
@[simp] theorem State.inject_fills (s : State) (x : Msg) : (s.inject x).fills = s.fills := rfl
@[simp] theorem State.inject_gens (s : State) (x : Msg) : (s.inject x).gens = s.gens := rfl
@[simp] theorem State.inject_notices (s : State) (x : Msg) : (s.inject x).notices = s.notices := rfl
@[simp] theorem State.inject_tvec (s : State) (x : Msg) : (s.inject x).tvec = s.tvec := rfl
@[simp] theorem State.inject_bindings (s : State) (x : Msg) : (s.inject x).bindings = s.bindings := rfl
@[simp] theorem State.inject_parts (s : State) (x : Msg) : (s.inject x).parts = s.parts := rfl
@[simp] theorem State.inject_slots (s : State) (x : Msg) : (s.inject x).slots = s.slots := rfl
@[simp] theorem State.inject_launches (s : State) (x : Msg) : (s.inject x).launches = s.launches := rfl
@[simp] theorem State.inject_images (s : State) (x : Msg) : (s.inject x).images = s.images := rfl
@[simp] theorem State.inject_floes (s : State) (x : Msg) : (s.inject x).floes = s.floes := rfl
@[simp] theorem State.inject_heldFloe (s : State) (x : Msg) : (s.inject x).heldFloe = s.heldFloe := rfl
@[simp] theorem State.inject_localFloe (s : State) (x : Msg) : (s.inject x).localFloe = s.localFloe := rfl
@[simp] theorem State.inject_domains (s : State) (x : Msg) : (s.inject x).domains = s.domains := rfl
@[simp] theorem State.inject_decrements (s : State) (x : Msg) : (s.inject x).decrements = s.decrements := rfl
@[simp] theorem State.inject_time (s : State) (x : Msg) : (s.inject x).time = s.time := rfl
@[simp] theorem State.inject_pkg (s : State) (x : Msg) : (s.inject x).pkg = s.pkg := rfl
@[simp] theorem State.inject_outbox (s : State) (x : Msg) : (s.inject x).outbox = s.outbox := rfl
@[simp] theorem State.inject_vcycle (s : State) (x : Msg) : (s.inject x).vcycle = s.vcycle := rfl
@[simp] theorem State.inject_nTime (s : State) (x : Msg) : (s.inject x).nTime = s.nTime := rfl
@[simp] theorem State.inject_bTime (s : State) (x : Msg) : (s.inject x).bTime = s.bTime := rfl
@[simp] theorem State.inject_issued (s : State) (x : Msg) : (s.inject x).issued = s.issued := rfl
@[simp] theorem State.inject_closed (s : State) (x : Msg) : (s.inject x).closed = s.closed := rfl
@[simp] theorem State.inject_portQueue (s : State) (x : Msg) : (s.inject x).portQueue = s.portQueue := rfl
@[simp] theorem State.inject_undo (s : State) (x : Msg) : (s.inject x).undo = s.undo := rfl
@[simp] theorem State.inject_free (s : State) (x : Msg) : (s.inject x).free = s.free := rfl
@[simp] theorem State.inject_turns (s : State) (x : Msg) : (s.inject x).turns = s.turns := rfl

/-! ## State.latched -/

@[simp] theorem State.latched_cur (s : State) (ws : List Word) : (s.latched ws).cur = s.cur := rfl
@[simp] theorem State.latched_cores (s : State) (ws : List Word) : (s.latched ws).cores = s.cores := rfl
@[simp] theorem State.latched_clusters (s : State) (ws : List Word) : (s.latched ws).clusters = s.clusters := rfl
@[simp] theorem State.latched_mem (s : State) (ws : List Word) : (s.latched ws).mem = s.mem := rfl
@[simp] theorem State.latched_tags (s : State) (ws : List Word) : (s.latched ws).tags = s.tags := rfl
@[simp] theorem State.latched_errors (s : State) (ws : List Word) : (s.latched ws).errors = s.errors := rfl
@[simp] theorem State.latched_stores (s : State) (ws : List Word) : (s.latched ws).stores = s.stores := rfl
@[simp] theorem State.latched_mesh (s : State) (ws : List Word) : (s.latched ws).mesh = s.mesh := rfl
@[simp] theorem State.latched_jobs (s : State) (ws : List Word) : (s.latched ws).jobs = s.jobs := rfl
@[simp] theorem State.latched_fills (s : State) (ws : List Word) : (s.latched ws).fills = s.fills := rfl
@[simp] theorem State.latched_gens (s : State) (ws : List Word) : (s.latched ws).gens = s.gens := rfl
@[simp] theorem State.latched_notices (s : State) (ws : List Word) : (s.latched ws).notices = s.notices := rfl
@[simp] theorem State.latched_tvec (s : State) (ws : List Word) : (s.latched ws).tvec = s.tvec := rfl
@[simp] theorem State.latched_bindings (s : State) (ws : List Word) : (s.latched ws).bindings = s.bindings := rfl
@[simp] theorem State.latched_parts (s : State) (ws : List Word) : (s.latched ws).parts = s.parts := rfl
@[simp] theorem State.latched_slots (s : State) (ws : List Word) : (s.latched ws).slots = s.slots := rfl
@[simp] theorem State.latched_launches (s : State) (ws : List Word) : (s.latched ws).launches = s.launches := rfl
@[simp] theorem State.latched_images (s : State) (ws : List Word) : (s.latched ws).images = s.images := rfl
@[simp] theorem State.latched_floes (s : State) (ws : List Word) : (s.latched ws).floes = s.floes := rfl
@[simp] theorem State.latched_heldFloe (s : State) (ws : List Word) : (s.latched ws).heldFloe = s.heldFloe := rfl
@[simp] theorem State.latched_localFloe (s : State) (ws : List Word) : (s.latched ws).localFloe = s.localFloe := rfl
@[simp] theorem State.latched_domains (s : State) (ws : List Word) : (s.latched ws).domains = s.domains := rfl
@[simp] theorem State.latched_decrements (s : State) (ws : List Word) : (s.latched ws).decrements = s.decrements := rfl
@[simp] theorem State.latched_time (s : State) (ws : List Word) : (s.latched ws).time = s.time := rfl
@[simp] theorem State.latched_pkg (s : State) (ws : List Word) : (s.latched ws).pkg = s.pkg := rfl
@[simp] theorem State.latched_outbox (s : State) (ws : List Word) : (s.latched ws).outbox = s.outbox := rfl
@[simp] theorem State.latched_vcycle (s : State) (ws : List Word) : (s.latched ws).vcycle = s.vcycle := rfl
@[simp] theorem State.latched_nTime (s : State) (ws : List Word) : (s.latched ws).nTime = s.nTime := rfl
@[simp] theorem State.latched_bTime (s : State) (ws : List Word) : (s.latched ws).bTime = s.bTime := rfl
@[simp] theorem State.latched_issued (s : State) (ws : List Word) : (s.latched ws).issued = s.issued := rfl
@[simp] theorem State.latched_closed (s : State) (ws : List Word) : (s.latched ws).closed = s.closed := rfl
@[simp] theorem State.latched_portQueue (s : State) (ws : List Word) : (s.latched ws).portQueue = s.portQueue := rfl
@[simp] theorem State.latched_undo (s : State) (ws : List Word) : (s.latched ws).undo = s.undo := rfl
@[simp] theorem State.latched_nextId (s : State) (ws : List Word) : (s.latched ws).nextId = s.nextId := rfl
@[simp] theorem State.latched_free (s : State) (ws : List Word) : (s.latched ws).free = s.free := rfl
@[simp] theorem State.latched_turns (s : State) (ws : List Word) : (s.latched ws).turns = s.turns := rfl

/-! ## State.retire -/

@[simp] theorem State.retire_cur (s : State) : (s.retire).cur = s.cur := rfl
@[simp] theorem State.retire_cores (s : State) : (s.retire).cores = s.cores := rfl
@[simp] theorem State.retire_clusters (s : State) : (s.retire).clusters = s.clusters := rfl
@[simp] theorem State.retire_mem (s : State) : (s.retire).mem = s.mem := rfl
@[simp] theorem State.retire_tags (s : State) : (s.retire).tags = s.tags := rfl
@[simp] theorem State.retire_errors (s : State) : (s.retire).errors = s.errors := rfl
@[simp] theorem State.retire_stores (s : State) : (s.retire).stores = s.stores := rfl
@[simp] theorem State.retire_mesh (s : State) : (s.retire).mesh = s.mesh := rfl
@[simp] theorem State.retire_jobs (s : State) : (s.retire).jobs = s.jobs := rfl
@[simp] theorem State.retire_fills (s : State) : (s.retire).fills = s.fills := rfl
@[simp] theorem State.retire_gens (s : State) : (s.retire).gens = s.gens := rfl
@[simp] theorem State.retire_notices (s : State) : (s.retire).notices = s.notices := rfl
@[simp] theorem State.retire_tvec (s : State) : (s.retire).tvec = s.tvec := rfl
@[simp] theorem State.retire_bindings (s : State) : (s.retire).bindings = s.bindings := rfl
@[simp] theorem State.retire_parts (s : State) : (s.retire).parts = s.parts := rfl
@[simp] theorem State.retire_slots (s : State) : (s.retire).slots = s.slots := rfl
@[simp] theorem State.retire_launches (s : State) : (s.retire).launches = s.launches := rfl
@[simp] theorem State.retire_images (s : State) : (s.retire).images = s.images := rfl
@[simp] theorem State.retire_floes (s : State) : (s.retire).floes = s.floes := rfl
@[simp] theorem State.retire_heldFloe (s : State) : (s.retire).heldFloe = s.heldFloe := rfl
@[simp] theorem State.retire_localFloe (s : State) : (s.retire).localFloe = s.localFloe := rfl
@[simp] theorem State.retire_domains (s : State) : (s.retire).domains = s.domains := rfl
@[simp] theorem State.retire_decrements (s : State) : (s.retire).decrements = s.decrements := rfl
@[simp] theorem State.retire_time (s : State) : (s.retire).time = s.time := rfl
@[simp] theorem State.retire_pkg (s : State) : (s.retire).pkg = s.pkg := rfl
@[simp] theorem State.retire_outbox (s : State) : (s.retire).outbox = s.outbox := rfl
@[simp] theorem State.retire_vcycle (s : State) : (s.retire).vcycle = s.vcycle := rfl
@[simp] theorem State.retire_nTime (s : State) : (s.retire).nTime = s.nTime := rfl
@[simp] theorem State.retire_bTime (s : State) : (s.retire).bTime = s.bTime := rfl
@[simp] theorem State.retire_issued (s : State) : (s.retire).issued = s.issued := rfl
@[simp] theorem State.retire_closed (s : State) : (s.retire).closed = s.closed := rfl
@[simp] theorem State.retire_portQueue (s : State) : (s.retire).portQueue = s.portQueue := rfl
@[simp] theorem State.retire_undo (s : State) : (s.retire).undo = s.undo := rfl
@[simp] theorem State.retire_nextId (s : State) : (s.retire).nextId = s.nextId := rfl
@[simp] theorem State.retire_free (s : State) : (s.retire).free = s.free := rfl
@[simp] theorem State.retire_turns (s : State) : (s.retire).turns = s.turns := rfl

/-! ## State.finishS -/

@[simp] theorem State.finishS_cur (s : State) (d : Nat) (v : Word) : (s.finishS d v).cur = s.cur := rfl
@[simp] theorem State.finishS_cores (s : State) (d : Nat) (v : Word) : (s.finishS d v).cores = s.cores := rfl
@[simp] theorem State.finishS_clusters (s : State) (d : Nat) (v : Word) : (s.finishS d v).clusters = s.clusters := rfl
@[simp] theorem State.finishS_mem (s : State) (d : Nat) (v : Word) : (s.finishS d v).mem = s.mem := rfl
@[simp] theorem State.finishS_tags (s : State) (d : Nat) (v : Word) : (s.finishS d v).tags = s.tags := rfl
@[simp] theorem State.finishS_errors (s : State) (d : Nat) (v : Word) : (s.finishS d v).errors = s.errors := rfl
@[simp] theorem State.finishS_stores (s : State) (d : Nat) (v : Word) : (s.finishS d v).stores = s.stores := rfl
@[simp] theorem State.finishS_mesh (s : State) (d : Nat) (v : Word) : (s.finishS d v).mesh = s.mesh := rfl
@[simp] theorem State.finishS_jobs (s : State) (d : Nat) (v : Word) : (s.finishS d v).jobs = s.jobs := rfl
@[simp] theorem State.finishS_fills (s : State) (d : Nat) (v : Word) : (s.finishS d v).fills = s.fills := rfl
@[simp] theorem State.finishS_gens (s : State) (d : Nat) (v : Word) : (s.finishS d v).gens = s.gens := rfl
@[simp] theorem State.finishS_notices (s : State) (d : Nat) (v : Word) : (s.finishS d v).notices = s.notices := rfl
@[simp] theorem State.finishS_tvec (s : State) (d : Nat) (v : Word) : (s.finishS d v).tvec = s.tvec := rfl
@[simp] theorem State.finishS_bindings (s : State) (d : Nat) (v : Word) : (s.finishS d v).bindings = s.bindings := rfl
@[simp] theorem State.finishS_parts (s : State) (d : Nat) (v : Word) : (s.finishS d v).parts = s.parts := rfl
@[simp] theorem State.finishS_slots (s : State) (d : Nat) (v : Word) : (s.finishS d v).slots = s.slots := rfl
@[simp] theorem State.finishS_launches (s : State) (d : Nat) (v : Word) : (s.finishS d v).launches = s.launches := rfl
@[simp] theorem State.finishS_images (s : State) (d : Nat) (v : Word) : (s.finishS d v).images = s.images := rfl
@[simp] theorem State.finishS_floes (s : State) (d : Nat) (v : Word) : (s.finishS d v).floes = s.floes := rfl
@[simp] theorem State.finishS_heldFloe (s : State) (d : Nat) (v : Word) : (s.finishS d v).heldFloe = s.heldFloe := rfl
@[simp] theorem State.finishS_localFloe (s : State) (d : Nat) (v : Word) : (s.finishS d v).localFloe = s.localFloe := rfl
@[simp] theorem State.finishS_domains (s : State) (d : Nat) (v : Word) : (s.finishS d v).domains = s.domains := rfl
@[simp] theorem State.finishS_decrements (s : State) (d : Nat) (v : Word) : (s.finishS d v).decrements = s.decrements := rfl
@[simp] theorem State.finishS_time (s : State) (d : Nat) (v : Word) : (s.finishS d v).time = s.time := rfl
@[simp] theorem State.finishS_pkg (s : State) (d : Nat) (v : Word) : (s.finishS d v).pkg = s.pkg := rfl
@[simp] theorem State.finishS_outbox (s : State) (d : Nat) (v : Word) : (s.finishS d v).outbox = s.outbox := rfl
@[simp] theorem State.finishS_vcycle (s : State) (d : Nat) (v : Word) : (s.finishS d v).vcycle = s.vcycle := rfl
@[simp] theorem State.finishS_nTime (s : State) (d : Nat) (v : Word) : (s.finishS d v).nTime = s.nTime := rfl
@[simp] theorem State.finishS_bTime (s : State) (d : Nat) (v : Word) : (s.finishS d v).bTime = s.bTime := rfl
@[simp] theorem State.finishS_issued (s : State) (d : Nat) (v : Word) : (s.finishS d v).issued = s.issued := rfl
@[simp] theorem State.finishS_closed (s : State) (d : Nat) (v : Word) : (s.finishS d v).closed = s.closed := rfl
@[simp] theorem State.finishS_portQueue (s : State) (d : Nat) (v : Word) : (s.finishS d v).portQueue = s.portQueue := rfl
@[simp] theorem State.finishS_undo (s : State) (d : Nat) (v : Word) : (s.finishS d v).undo = s.undo := rfl
@[simp] theorem State.finishS_nextId (s : State) (d : Nat) (v : Word) : (s.finishS d v).nextId = s.nextId := rfl
@[simp] theorem State.finishS_free (s : State) (d : Nat) (v : Word) : (s.finishS d v).free = s.free := rfl
@[simp] theorem State.finishS_turns (s : State) (d : Nat) (v : Word) : (s.finishS d v).turns = s.turns := rfl

/-! ## State.idle -/

@[simp] theorem State.idle_cur (s : State) (k : Nat) : (s.idle k).cur = s.cur := rfl
@[simp] theorem State.idle_cores (s : State) (k : Nat) : (s.idle k).cores = s.cores := rfl
@[simp] theorem State.idle_clusters (s : State) (k : Nat) : (s.idle k).clusters = s.clusters := rfl
@[simp] theorem State.idle_mem (s : State) (k : Nat) : (s.idle k).mem = s.mem := rfl
@[simp] theorem State.idle_tags (s : State) (k : Nat) : (s.idle k).tags = s.tags := rfl
@[simp] theorem State.idle_errors (s : State) (k : Nat) : (s.idle k).errors = s.errors := rfl
@[simp] theorem State.idle_stores (s : State) (k : Nat) : (s.idle k).stores = s.stores := rfl
@[simp] theorem State.idle_mesh (s : State) (k : Nat) : (s.idle k).mesh = s.mesh := rfl
@[simp] theorem State.idle_jobs (s : State) (k : Nat) : (s.idle k).jobs = s.jobs := rfl
@[simp] theorem State.idle_fills (s : State) (k : Nat) : (s.idle k).fills = s.fills := rfl
@[simp] theorem State.idle_gens (s : State) (k : Nat) : (s.idle k).gens = s.gens := rfl
@[simp] theorem State.idle_notices (s : State) (k : Nat) : (s.idle k).notices = s.notices := rfl
@[simp] theorem State.idle_tvec (s : State) (k : Nat) : (s.idle k).tvec = s.tvec := rfl
@[simp] theorem State.idle_bindings (s : State) (k : Nat) : (s.idle k).bindings = s.bindings := rfl
@[simp] theorem State.idle_parts (s : State) (k : Nat) : (s.idle k).parts = s.parts := rfl
@[simp] theorem State.idle_slots (s : State) (k : Nat) : (s.idle k).slots = s.slots := rfl
@[simp] theorem State.idle_launches (s : State) (k : Nat) : (s.idle k).launches = s.launches := rfl
@[simp] theorem State.idle_images (s : State) (k : Nat) : (s.idle k).images = s.images := rfl
@[simp] theorem State.idle_floes (s : State) (k : Nat) : (s.idle k).floes = s.floes := rfl
@[simp] theorem State.idle_heldFloe (s : State) (k : Nat) : (s.idle k).heldFloe = s.heldFloe := rfl
@[simp] theorem State.idle_localFloe (s : State) (k : Nat) : (s.idle k).localFloe = s.localFloe := rfl
@[simp] theorem State.idle_domains (s : State) (k : Nat) : (s.idle k).domains = s.domains := rfl
@[simp] theorem State.idle_decrements (s : State) (k : Nat) : (s.idle k).decrements = s.decrements := rfl
@[simp] theorem State.idle_time (s : State) (k : Nat) : (s.idle k).time = s.time := rfl
@[simp] theorem State.idle_pkg (s : State) (k : Nat) : (s.idle k).pkg = s.pkg := rfl
@[simp] theorem State.idle_outbox (s : State) (k : Nat) : (s.idle k).outbox = s.outbox := rfl
@[simp] theorem State.idle_vcycle (s : State) (k : Nat) : (s.idle k).vcycle = s.vcycle := rfl
@[simp] theorem State.idle_nTime (s : State) (k : Nat) : (s.idle k).nTime = s.nTime := rfl
@[simp] theorem State.idle_bTime (s : State) (k : Nat) : (s.idle k).bTime = s.bTime := rfl
@[simp] theorem State.idle_issued (s : State) (k : Nat) : (s.idle k).issued = s.issued := rfl
@[simp] theorem State.idle_closed (s : State) (k : Nat) : (s.idle k).closed = s.closed := rfl
@[simp] theorem State.idle_portQueue (s : State) (k : Nat) : (s.idle k).portQueue = s.portQueue := rfl
@[simp] theorem State.idle_undo (s : State) (k : Nat) : (s.idle k).undo = s.undo := rfl
@[simp] theorem State.idle_nextId (s : State) (k : Nat) : (s.idle k).nextId = s.nextId := rfl
@[simp] theorem State.idle_free (s : State) (k : Nat) : (s.idle k).free = s.free := rfl
@[simp] theorem State.idle_turns (s : State) (k : Nat) : (s.idle k).turns = s.turns := rfl

/-! ## State.mapThreads -/

@[simp] theorem State.mapThreads_cur (s : State) (f : Thread → Thread) : (s.mapThreads f).cur = s.cur := rfl
@[simp] theorem State.mapThreads_clusters (s : State) (f : Thread → Thread) : (s.mapThreads f).clusters = s.clusters := rfl
@[simp] theorem State.mapThreads_mem (s : State) (f : Thread → Thread) : (s.mapThreads f).mem = s.mem := rfl
@[simp] theorem State.mapThreads_tags (s : State) (f : Thread → Thread) : (s.mapThreads f).tags = s.tags := rfl
@[simp] theorem State.mapThreads_errors (s : State) (f : Thread → Thread) : (s.mapThreads f).errors = s.errors := rfl
@[simp] theorem State.mapThreads_stores (s : State) (f : Thread → Thread) : (s.mapThreads f).stores = s.stores := rfl
@[simp] theorem State.mapThreads_jobs (s : State) (f : Thread → Thread) : (s.mapThreads f).jobs = s.jobs := rfl
@[simp] theorem State.mapThreads_fills (s : State) (f : Thread → Thread) : (s.mapThreads f).fills = s.fills := rfl
@[simp] theorem State.mapThreads_gens (s : State) (f : Thread → Thread) : (s.mapThreads f).gens = s.gens := rfl
@[simp] theorem State.mapThreads_notices (s : State) (f : Thread → Thread) : (s.mapThreads f).notices = s.notices := rfl
@[simp] theorem State.mapThreads_tvec (s : State) (f : Thread → Thread) : (s.mapThreads f).tvec = s.tvec := rfl
@[simp] theorem State.mapThreads_bindings (s : State) (f : Thread → Thread) : (s.mapThreads f).bindings = s.bindings := rfl
@[simp] theorem State.mapThreads_parts (s : State) (f : Thread → Thread) : (s.mapThreads f).parts = s.parts := rfl
@[simp] theorem State.mapThreads_slots (s : State) (f : Thread → Thread) : (s.mapThreads f).slots = s.slots := rfl
@[simp] theorem State.mapThreads_launches (s : State) (f : Thread → Thread) : (s.mapThreads f).launches = s.launches := rfl
@[simp] theorem State.mapThreads_floes (s : State) (f : Thread → Thread) : (s.mapThreads f).floes = s.floes := rfl
@[simp] theorem State.mapThreads_heldFloe (s : State) (f : Thread → Thread) : (s.mapThreads f).heldFloe = s.heldFloe := rfl
@[simp] theorem State.mapThreads_localFloe (s : State) (f : Thread → Thread) : (s.mapThreads f).localFloe = s.localFloe := rfl
@[simp] theorem State.mapThreads_domains (s : State) (f : Thread → Thread) : (s.mapThreads f).domains = s.domains := rfl
@[simp] theorem State.mapThreads_decrements (s : State) (f : Thread → Thread) : (s.mapThreads f).decrements = s.decrements := rfl
@[simp] theorem State.mapThreads_time (s : State) (f : Thread → Thread) : (s.mapThreads f).time = s.time := rfl
@[simp] theorem State.mapThreads_pkg (s : State) (f : Thread → Thread) : (s.mapThreads f).pkg = s.pkg := rfl
@[simp] theorem State.mapThreads_vcycle (s : State) (f : Thread → Thread) : (s.mapThreads f).vcycle = s.vcycle := rfl
@[simp] theorem State.mapThreads_nTime (s : State) (f : Thread → Thread) : (s.mapThreads f).nTime = s.nTime := rfl
@[simp] theorem State.mapThreads_bTime (s : State) (f : Thread → Thread) : (s.mapThreads f).bTime = s.bTime := rfl
@[simp] theorem State.mapThreads_issued (s : State) (f : Thread → Thread) : (s.mapThreads f).issued = s.issued := rfl
@[simp] theorem State.mapThreads_closed (s : State) (f : Thread → Thread) : (s.mapThreads f).closed = s.closed := rfl
@[simp] theorem State.mapThreads_portQueue (s : State) (f : Thread → Thread) : (s.mapThreads f).portQueue = s.portQueue := rfl
@[simp] theorem State.mapThreads_undo (s : State) (f : Thread → Thread) : (s.mapThreads f).undo = s.undo := rfl
@[simp] theorem State.mapThreads_nextId (s : State) (f : Thread → Thread) : (s.mapThreads f).nextId = s.nextId := rfl
@[simp] theorem State.mapThreads_free (s : State) (f : Thread → Thread) : (s.mapThreads f).free = s.free := rfl
@[simp] theorem State.mapThreads_turns (s : State) (f : Thread → Thread) : (s.mapThreads f).turns = s.turns := rfl

/-! ## State.markDirty -/

@[simp] theorem State.markDirty_cur (s : State) (k n : Nat) : (s.markDirty k n).cur = s.cur := by
  unfold State.markDirty; split <;> rfl
@[simp] theorem State.markDirty_ctxs (s : State) (k n : Nat) : (s.markDirty k n).ctxs = s.ctxs := by
  unfold State.markDirty; split <;> rfl
@[simp] theorem State.markDirty_clusters (s : State) (k n : Nat) : (s.markDirty k n).clusters = s.clusters := by
  unfold State.markDirty; split <;> rfl
@[simp] theorem State.markDirty_tags (s : State) (k n : Nat) : (s.markDirty k n).tags = s.tags := by
  unfold State.markDirty; split <;> rfl
@[simp] theorem State.markDirty_errors (s : State) (k n : Nat) : (s.markDirty k n).errors = s.errors := by
  unfold State.markDirty; split <;> rfl
@[simp] theorem State.markDirty_stores (s : State) (k n : Nat) : (s.markDirty k n).stores = s.stores := by
  unfold State.markDirty; split <;> rfl
@[simp] theorem State.markDirty_mesh (s : State) (k n : Nat) : (s.markDirty k n).mesh = s.mesh := by
  unfold State.markDirty; split <;> rfl
@[simp] theorem State.markDirty_jobs (s : State) (k n : Nat) : (s.markDirty k n).jobs = s.jobs := by
  unfold State.markDirty; split <;> rfl
@[simp] theorem State.markDirty_fills (s : State) (k n : Nat) : (s.markDirty k n).fills = s.fills := by
  unfold State.markDirty; split <;> rfl
@[simp] theorem State.markDirty_gens (s : State) (k n : Nat) : (s.markDirty k n).gens = s.gens := by
  unfold State.markDirty; split <;> rfl
@[simp] theorem State.markDirty_notices (s : State) (k n : Nat) : (s.markDirty k n).notices = s.notices := by
  unfold State.markDirty; split <;> rfl
@[simp] theorem State.markDirty_tvec (s : State) (k n : Nat) : (s.markDirty k n).tvec = s.tvec := by
  unfold State.markDirty; split <;> rfl
@[simp] theorem State.markDirty_bindings (s : State) (k n : Nat) : (s.markDirty k n).bindings = s.bindings := by
  unfold State.markDirty; split <;> rfl
@[simp] theorem State.markDirty_parts (s : State) (k n : Nat) : (s.markDirty k n).parts = s.parts := by
  unfold State.markDirty; split <;> rfl
@[simp] theorem State.markDirty_slots (s : State) (k n : Nat) : (s.markDirty k n).slots = s.slots := by
  unfold State.markDirty; split <;> rfl
@[simp] theorem State.markDirty_launches (s : State) (k n : Nat) : (s.markDirty k n).launches = s.launches := by
  unfold State.markDirty; split <;> rfl
@[simp] theorem State.markDirty_images (s : State) (k n : Nat) : (s.markDirty k n).images = s.images := by
  unfold State.markDirty; split <;> rfl
@[simp] theorem State.markDirty_floes (s : State) (k n : Nat) : (s.markDirty k n).floes = s.floes := by
  unfold State.markDirty; split <;> rfl
@[simp] theorem State.markDirty_heldFloe (s : State) (k n : Nat) : (s.markDirty k n).heldFloe = s.heldFloe := by
  unfold State.markDirty; split <;> rfl
@[simp] theorem State.markDirty_localFloe (s : State) (k n : Nat) : (s.markDirty k n).localFloe = s.localFloe := by
  unfold State.markDirty; split <;> rfl
@[simp] theorem State.markDirty_domains (s : State) (k n : Nat) : (s.markDirty k n).domains = s.domains := by
  unfold State.markDirty; split <;> rfl
@[simp] theorem State.markDirty_decrements (s : State) (k n : Nat) : (s.markDirty k n).decrements = s.decrements := by
  unfold State.markDirty; split <;> rfl
@[simp] theorem State.markDirty_time (s : State) (k n : Nat) : (s.markDirty k n).time = s.time := by
  unfold State.markDirty; split <;> rfl
@[simp] theorem State.markDirty_pkg (s : State) (k n : Nat) : (s.markDirty k n).pkg = s.pkg := by
  unfold State.markDirty; split <;> rfl
@[simp] theorem State.markDirty_outbox (s : State) (k n : Nat) : (s.markDirty k n).outbox = s.outbox := by
  unfold State.markDirty; split <;> rfl
@[simp] theorem State.markDirty_vcycle (s : State) (k n : Nat) : (s.markDirty k n).vcycle = s.vcycle := by
  unfold State.markDirty; split <;> rfl
@[simp] theorem State.markDirty_nTime (s : State) (k n : Nat) : (s.markDirty k n).nTime = s.nTime := by
  unfold State.markDirty; split <;> rfl
@[simp] theorem State.markDirty_bTime (s : State) (k n : Nat) : (s.markDirty k n).bTime = s.bTime := by
  unfold State.markDirty; split <;> rfl
@[simp] theorem State.markDirty_issued (s : State) (k n : Nat) : (s.markDirty k n).issued = s.issued := by
  unfold State.markDirty; split <;> rfl
@[simp] theorem State.markDirty_closed (s : State) (k n : Nat) : (s.markDirty k n).closed = s.closed := by
  unfold State.markDirty; split <;> rfl
@[simp] theorem State.markDirty_portQueue (s : State) (k n : Nat) : (s.markDirty k n).portQueue = s.portQueue := by
  unfold State.markDirty; split <;> rfl
@[simp] theorem State.markDirty_undo (s : State) (k n : Nat) : (s.markDirty k n).undo = s.undo := by
  unfold State.markDirty; split <;> rfl
@[simp] theorem State.markDirty_nextId (s : State) (k n : Nat) : (s.markDirty k n).nextId = s.nextId := by
  unfold State.markDirty; split <;> rfl
@[simp] theorem State.markDirty_free (s : State) (k n : Nat) : (s.markDirty k n).free = s.free := by
  unfold State.markDirty; split <;> rfl
@[simp] theorem State.markDirty_turns (s : State) (k n : Nat) : (s.markDirty k n).turns = s.turns := by
  unfold State.markDirty; split <;> rfl

/-! ## State.undone -/

@[simp] theorem State.undone_cur (s : State) : (s.undone).cur = s.cur := by
  unfold State.undone; split <;> rfl
@[simp] theorem State.undone_ctxs (s : State) : (s.undone).ctxs = s.ctxs := by
  unfold State.undone; split <;> rfl
@[simp] theorem State.undone_clusters (s : State) : (s.undone).clusters = s.clusters := by
  unfold State.undone; split <;> rfl
@[simp] theorem State.undone_mem (s : State) : (s.undone).mem = s.mem := by
  unfold State.undone; split <;> rfl
@[simp] theorem State.undone_tags (s : State) : (s.undone).tags = s.tags := by
  unfold State.undone; split <;> rfl
@[simp] theorem State.undone_errors (s : State) : (s.undone).errors = s.errors := by
  unfold State.undone; split <;> rfl
@[simp] theorem State.undone_mesh (s : State) : (s.undone).mesh = s.mesh := by
  unfold State.undone; split <;> rfl
@[simp] theorem State.undone_jobs (s : State) : (s.undone).jobs = s.jobs := by
  unfold State.undone; split <;> rfl
@[simp] theorem State.undone_fills (s : State) : (s.undone).fills = s.fills := by
  unfold State.undone; split <;> rfl
@[simp] theorem State.undone_gens (s : State) : (s.undone).gens = s.gens := by
  unfold State.undone; split <;> rfl
@[simp] theorem State.undone_notices (s : State) : (s.undone).notices = s.notices := by
  unfold State.undone; split <;> rfl
@[simp] theorem State.undone_tvec (s : State) : (s.undone).tvec = s.tvec := by
  unfold State.undone; split <;> rfl
@[simp] theorem State.undone_bindings (s : State) : (s.undone).bindings = s.bindings := by
  unfold State.undone; split <;> rfl
@[simp] theorem State.undone_parts (s : State) : (s.undone).parts = s.parts := by
  unfold State.undone; split <;> rfl
@[simp] theorem State.undone_slots (s : State) : (s.undone).slots = s.slots := by
  unfold State.undone; split <;> rfl
@[simp] theorem State.undone_launches (s : State) : (s.undone).launches = s.launches := by
  unfold State.undone; split <;> rfl
@[simp] theorem State.undone_images (s : State) : (s.undone).images = s.images := by
  unfold State.undone; split <;> rfl
@[simp] theorem State.undone_floes (s : State) : (s.undone).floes = s.floes := by
  unfold State.undone; split <;> rfl
@[simp] theorem State.undone_heldFloe (s : State) : (s.undone).heldFloe = s.heldFloe := by
  unfold State.undone; split <;> rfl
@[simp] theorem State.undone_localFloe (s : State) : (s.undone).localFloe = s.localFloe := by
  unfold State.undone; split <;> rfl
@[simp] theorem State.undone_domains (s : State) : (s.undone).domains = s.domains := by
  unfold State.undone; split <;> rfl
@[simp] theorem State.undone_decrements (s : State) : (s.undone).decrements = s.decrements := by
  unfold State.undone; split <;> rfl
@[simp] theorem State.undone_time (s : State) : (s.undone).time = s.time := by
  unfold State.undone; split <;> rfl
@[simp] theorem State.undone_pkg (s : State) : (s.undone).pkg = s.pkg := by
  unfold State.undone; split <;> rfl
@[simp] theorem State.undone_outbox (s : State) : (s.undone).outbox = s.outbox := by
  unfold State.undone; split <;> rfl
@[simp] theorem State.undone_vcycle (s : State) : (s.undone).vcycle = s.vcycle := by
  unfold State.undone; split <;> rfl
@[simp] theorem State.undone_nTime (s : State) : (s.undone).nTime = s.nTime := by
  unfold State.undone; split <;> rfl
@[simp] theorem State.undone_bTime (s : State) : (s.undone).bTime = s.bTime := by
  unfold State.undone; split <;> rfl
@[simp] theorem State.undone_issued (s : State) : (s.undone).issued = s.issued := by
  unfold State.undone; split <;> rfl
@[simp] theorem State.undone_closed (s : State) : (s.undone).closed = s.closed := by
  unfold State.undone; split <;> rfl
@[simp] theorem State.undone_portQueue (s : State) : (s.undone).portQueue = s.portQueue := by
  unfold State.undone; split <;> rfl
@[simp] theorem State.undone_nextId (s : State) : (s.undone).nextId = s.nextId := by
  unfold State.undone; split <;> rfl
@[simp] theorem State.undone_free (s : State) : (s.undone).free = s.free := by
  unfold State.undone; split <;> rfl
@[simp] theorem State.undone_turns (s : State) : (s.undone).turns = s.turns := by
  unfold State.undone; split <;> rfl

/-! ## State.sleep -/

@[simp] theorem State.sleep_cur (s : State) (w : Wait) : (s.sleep w).cur = s.cur := by
  simp [State.sleep]
@[simp] theorem State.sleep_clusters (s : State) (w : Wait) : (s.sleep w).clusters = s.clusters := by
  simp [State.sleep]
@[simp] theorem State.sleep_mem (s : State) (w : Wait) : (s.sleep w).mem = s.mem := by
  simp [State.sleep]
@[simp] theorem State.sleep_tags (s : State) (w : Wait) : (s.sleep w).tags = s.tags := by
  simp [State.sleep]
@[simp] theorem State.sleep_errors (s : State) (w : Wait) : (s.sleep w).errors = s.errors := by
  simp [State.sleep]
@[simp] theorem State.sleep_mesh (s : State) (w : Wait) : (s.sleep w).mesh = s.mesh := by
  simp [State.sleep]
@[simp] theorem State.sleep_jobs (s : State) (w : Wait) : (s.sleep w).jobs = s.jobs := by
  simp [State.sleep]
@[simp] theorem State.sleep_fills (s : State) (w : Wait) : (s.sleep w).fills = s.fills := by
  simp [State.sleep]
@[simp] theorem State.sleep_gens (s : State) (w : Wait) : (s.sleep w).gens = s.gens := by
  simp [State.sleep]
@[simp] theorem State.sleep_notices (s : State) (w : Wait) : (s.sleep w).notices = s.notices := by
  simp [State.sleep]
@[simp] theorem State.sleep_tvec (s : State) (w : Wait) : (s.sleep w).tvec = s.tvec := by
  simp [State.sleep]
@[simp] theorem State.sleep_bindings (s : State) (w : Wait) : (s.sleep w).bindings = s.bindings := by
  simp [State.sleep]
@[simp] theorem State.sleep_parts (s : State) (w : Wait) : (s.sleep w).parts = s.parts := by
  simp [State.sleep]
@[simp] theorem State.sleep_slots (s : State) (w : Wait) : (s.sleep w).slots = s.slots := by
  simp [State.sleep]
@[simp] theorem State.sleep_launches (s : State) (w : Wait) : (s.sleep w).launches = s.launches := by
  simp [State.sleep]
@[simp] theorem State.sleep_images (s : State) (w : Wait) : (s.sleep w).images = s.images := by
  simp [State.sleep]
@[simp] theorem State.sleep_floes (s : State) (w : Wait) : (s.sleep w).floes = s.floes := by
  simp [State.sleep]
@[simp] theorem State.sleep_heldFloe (s : State) (w : Wait) : (s.sleep w).heldFloe = s.heldFloe := by
  simp [State.sleep]
@[simp] theorem State.sleep_localFloe (s : State) (w : Wait) : (s.sleep w).localFloe = s.localFloe := by
  simp [State.sleep]
@[simp] theorem State.sleep_domains (s : State) (w : Wait) : (s.sleep w).domains = s.domains := by
  simp [State.sleep]
@[simp] theorem State.sleep_decrements (s : State) (w : Wait) : (s.sleep w).decrements = s.decrements := by
  simp [State.sleep]
@[simp] theorem State.sleep_time (s : State) (w : Wait) : (s.sleep w).time = s.time := by
  simp [State.sleep]
@[simp] theorem State.sleep_pkg (s : State) (w : Wait) : (s.sleep w).pkg = s.pkg := by
  simp [State.sleep]
@[simp] theorem State.sleep_outbox (s : State) (w : Wait) : (s.sleep w).outbox = s.outbox := by
  simp [State.sleep]
@[simp] theorem State.sleep_vcycle (s : State) (w : Wait) : (s.sleep w).vcycle = s.vcycle := by
  simp [State.sleep]
@[simp] theorem State.sleep_nTime (s : State) (w : Wait) : (s.sleep w).nTime = s.nTime := by
  simp [State.sleep]
@[simp] theorem State.sleep_bTime (s : State) (w : Wait) : (s.sleep w).bTime = s.bTime := by
  simp [State.sleep]
@[simp] theorem State.sleep_issued (s : State) (w : Wait) : (s.sleep w).issued = s.issued := by
  simp [State.sleep]
@[simp] theorem State.sleep_closed (s : State) (w : Wait) : (s.sleep w).closed = s.closed := by
  simp [State.sleep]
@[simp] theorem State.sleep_portQueue (s : State) (w : Wait) : (s.sleep w).portQueue = s.portQueue := by
  simp [State.sleep]
@[simp] theorem State.sleep_nextId (s : State) (w : Wait) : (s.sleep w).nextId = s.nextId := by
  simp [State.sleep]
@[simp] theorem State.sleep_free (s : State) (w : Wait) : (s.sleep w).free = s.free := by
  simp [State.sleep]
@[simp] theorem State.sleep_turns (s : State) (w : Wait) : (s.sleep w).turns = s.turns := by
  simp [State.sleep]

/-! ## State.land -/

@[simp] theorem State.land_cur (s : State) (k : Nat) (bs : List Byte) : (s.land k bs).cur = s.cur := by
  simp [State.land]
@[simp] theorem State.land_clusters (s : State) (k : Nat) (bs : List Byte) : (s.land k bs).clusters = s.clusters := by
  simp [State.land]
@[simp] theorem State.land_stores (s : State) (k : Nat) (bs : List Byte) : (s.land k bs).stores = s.stores := by
  simp [State.land]
@[simp] theorem State.land_mesh (s : State) (k : Nat) (bs : List Byte) : (s.land k bs).mesh = s.mesh := by
  simp [State.land]
@[simp] theorem State.land_jobs (s : State) (k : Nat) (bs : List Byte) : (s.land k bs).jobs = s.jobs := by
  simp [State.land]
@[simp] theorem State.land_fills (s : State) (k : Nat) (bs : List Byte) : (s.land k bs).fills = s.fills := by
  simp [State.land]
@[simp] theorem State.land_gens (s : State) (k : Nat) (bs : List Byte) : (s.land k bs).gens = s.gens := by
  simp [State.land]
@[simp] theorem State.land_notices (s : State) (k : Nat) (bs : List Byte) : (s.land k bs).notices = s.notices := by
  simp [State.land]
@[simp] theorem State.land_tvec (s : State) (k : Nat) (bs : List Byte) : (s.land k bs).tvec = s.tvec := by
  simp [State.land]
@[simp] theorem State.land_bindings (s : State) (k : Nat) (bs : List Byte) : (s.land k bs).bindings = s.bindings := by
  simp [State.land]
@[simp] theorem State.land_parts (s : State) (k : Nat) (bs : List Byte) : (s.land k bs).parts = s.parts := by
  simp [State.land]
@[simp] theorem State.land_slots (s : State) (k : Nat) (bs : List Byte) : (s.land k bs).slots = s.slots := by
  simp [State.land]
@[simp] theorem State.land_launches (s : State) (k : Nat) (bs : List Byte) : (s.land k bs).launches = s.launches := by
  simp [State.land]
@[simp] theorem State.land_images (s : State) (k : Nat) (bs : List Byte) : (s.land k bs).images = s.images := by
  simp [State.land]
@[simp] theorem State.land_floes (s : State) (k : Nat) (bs : List Byte) : (s.land k bs).floes = s.floes := by
  simp [State.land]
@[simp] theorem State.land_heldFloe (s : State) (k : Nat) (bs : List Byte) : (s.land k bs).heldFloe = s.heldFloe := by
  simp [State.land]
@[simp] theorem State.land_localFloe (s : State) (k : Nat) (bs : List Byte) : (s.land k bs).localFloe = s.localFloe := by
  simp [State.land]
@[simp] theorem State.land_domains (s : State) (k : Nat) (bs : List Byte) : (s.land k bs).domains = s.domains := by
  simp [State.land]
@[simp] theorem State.land_decrements (s : State) (k : Nat) (bs : List Byte) : (s.land k bs).decrements = s.decrements := by
  simp [State.land]
@[simp] theorem State.land_time (s : State) (k : Nat) (bs : List Byte) : (s.land k bs).time = s.time := by
  simp [State.land]
@[simp] theorem State.land_pkg (s : State) (k : Nat) (bs : List Byte) : (s.land k bs).pkg = s.pkg := by
  simp [State.land]
@[simp] theorem State.land_outbox (s : State) (k : Nat) (bs : List Byte) : (s.land k bs).outbox = s.outbox := by
  simp [State.land]
@[simp] theorem State.land_vcycle (s : State) (k : Nat) (bs : List Byte) : (s.land k bs).vcycle = s.vcycle := by
  simp [State.land]
@[simp] theorem State.land_nTime (s : State) (k : Nat) (bs : List Byte) : (s.land k bs).nTime = s.nTime := by
  simp [State.land]
@[simp] theorem State.land_bTime (s : State) (k : Nat) (bs : List Byte) : (s.land k bs).bTime = s.bTime := by
  simp [State.land]
@[simp] theorem State.land_issued (s : State) (k : Nat) (bs : List Byte) : (s.land k bs).issued = s.issued := by
  simp [State.land]
@[simp] theorem State.land_closed (s : State) (k : Nat) (bs : List Byte) : (s.land k bs).closed = s.closed := by
  simp [State.land]
@[simp] theorem State.land_portQueue (s : State) (k : Nat) (bs : List Byte) : (s.land k bs).portQueue = s.portQueue := by
  simp [State.land]
@[simp] theorem State.land_undo (s : State) (k : Nat) (bs : List Byte) : (s.land k bs).undo = s.undo := by
  simp [State.land]
@[simp] theorem State.land_nextId (s : State) (k : Nat) (bs : List Byte) : (s.land k bs).nextId = s.nextId := by
  simp [State.land]
@[simp] theorem State.land_free (s : State) (k : Nat) (bs : List Byte) : (s.land k bs).free = s.free := by
  simp [State.land]
@[simp] theorem State.land_turns (s : State) (k : Nat) (bs : List Byte) : (s.land k bs).turns = s.turns := by
  simp [State.land]

/-! ## State.landLE -/

@[simp] theorem State.landLE_cur (s : State) (k n x : Nat) : (s.landLE k n x).cur = s.cur := by
  simp [State.landLE]
@[simp] theorem State.landLE_clusters (s : State) (k n x : Nat) : (s.landLE k n x).clusters = s.clusters := by
  simp [State.landLE]
@[simp] theorem State.landLE_stores (s : State) (k n x : Nat) : (s.landLE k n x).stores = s.stores := by
  simp [State.landLE]
@[simp] theorem State.landLE_mesh (s : State) (k n x : Nat) : (s.landLE k n x).mesh = s.mesh := by
  simp [State.landLE]
@[simp] theorem State.landLE_jobs (s : State) (k n x : Nat) : (s.landLE k n x).jobs = s.jobs := by
  simp [State.landLE]
@[simp] theorem State.landLE_fills (s : State) (k n x : Nat) : (s.landLE k n x).fills = s.fills := by
  simp [State.landLE]
@[simp] theorem State.landLE_gens (s : State) (k n x : Nat) : (s.landLE k n x).gens = s.gens := by
  simp [State.landLE]
@[simp] theorem State.landLE_notices (s : State) (k n x : Nat) : (s.landLE k n x).notices = s.notices := by
  simp [State.landLE]
@[simp] theorem State.landLE_tvec (s : State) (k n x : Nat) : (s.landLE k n x).tvec = s.tvec := by
  simp [State.landLE]
@[simp] theorem State.landLE_bindings (s : State) (k n x : Nat) : (s.landLE k n x).bindings = s.bindings := by
  simp [State.landLE]
@[simp] theorem State.landLE_parts (s : State) (k n x : Nat) : (s.landLE k n x).parts = s.parts := by
  simp [State.landLE]
@[simp] theorem State.landLE_slots (s : State) (k n x : Nat) : (s.landLE k n x).slots = s.slots := by
  simp [State.landLE]
@[simp] theorem State.landLE_launches (s : State) (k n x : Nat) : (s.landLE k n x).launches = s.launches := by
  simp [State.landLE]
@[simp] theorem State.landLE_images (s : State) (k n x : Nat) : (s.landLE k n x).images = s.images := by
  simp [State.landLE]
@[simp] theorem State.landLE_floes (s : State) (k n x : Nat) : (s.landLE k n x).floes = s.floes := by
  simp [State.landLE]
@[simp] theorem State.landLE_heldFloe (s : State) (k n x : Nat) : (s.landLE k n x).heldFloe = s.heldFloe := by
  simp [State.landLE]
@[simp] theorem State.landLE_localFloe (s : State) (k n x : Nat) : (s.landLE k n x).localFloe = s.localFloe := by
  simp [State.landLE]
@[simp] theorem State.landLE_domains (s : State) (k n x : Nat) : (s.landLE k n x).domains = s.domains := by
  simp [State.landLE]
@[simp] theorem State.landLE_decrements (s : State) (k n x : Nat) : (s.landLE k n x).decrements = s.decrements := by
  simp [State.landLE]
@[simp] theorem State.landLE_time (s : State) (k n x : Nat) : (s.landLE k n x).time = s.time := by
  simp [State.landLE]
@[simp] theorem State.landLE_pkg (s : State) (k n x : Nat) : (s.landLE k n x).pkg = s.pkg := by
  simp [State.landLE]
@[simp] theorem State.landLE_outbox (s : State) (k n x : Nat) : (s.landLE k n x).outbox = s.outbox := by
  simp [State.landLE]
@[simp] theorem State.landLE_vcycle (s : State) (k n x : Nat) : (s.landLE k n x).vcycle = s.vcycle := by
  simp [State.landLE]
@[simp] theorem State.landLE_nTime (s : State) (k n x : Nat) : (s.landLE k n x).nTime = s.nTime := by
  simp [State.landLE]
@[simp] theorem State.landLE_bTime (s : State) (k n x : Nat) : (s.landLE k n x).bTime = s.bTime := by
  simp [State.landLE]
@[simp] theorem State.landLE_issued (s : State) (k n x : Nat) : (s.landLE k n x).issued = s.issued := by
  simp [State.landLE]
@[simp] theorem State.landLE_closed (s : State) (k n x : Nat) : (s.landLE k n x).closed = s.closed := by
  simp [State.landLE]
@[simp] theorem State.landLE_portQueue (s : State) (k n x : Nat) : (s.landLE k n x).portQueue = s.portQueue := by
  simp [State.landLE]
@[simp] theorem State.landLE_undo (s : State) (k n x : Nat) : (s.landLE k n x).undo = s.undo := by
  simp [State.landLE]
@[simp] theorem State.landLE_nextId (s : State) (k n x : Nat) : (s.landLE k n x).nextId = s.nextId := by
  simp [State.landLE]
@[simp] theorem State.landLE_free (s : State) (k n x : Nat) : (s.landLE k n x).free = s.free := by
  simp [State.landLE]
@[simp] theorem State.landLE_turns (s : State) (k n x : Nat) : (s.landLE k n x).turns = s.turns := by
  simp [State.landLE]

/-! ## Thread.retireTo -/

@[simp] theorem Thread.retireTo_pc (t : Thread) (x : Word) : (t.retireTo x).pc = x := rfl
@[simp] theorem Thread.retireTo_s (t : Thread) (x : Word) : (t.retireTo x).s = t.s := rfl
@[simp] theorem Thread.retireTo_m (t : Thread) (x : Word) : (t.retireTo x).m = t.m := rfl
@[simp] theorem Thread.retireTo_v (t : Thread) (x : Word) : (t.retireTo x).v = t.v := rfl
@[simp] theorem Thread.retireTo_c (t : Thread) (x : Word) : (t.retireTo x).c = t.c := rfl
@[simp] theorem Thread.retireTo_tok (t : Thread) (x : Word) : (t.retireTo x).tok = t.tok := rfl
@[simp] theorem Thread.retireTo_tid (t : Thread) (x : Word) : (t.retireTo x).tid = t.tid := rfl
@[simp] theorem Thread.retireTo_launch (t : Thread) (x : Word) : (t.retireTo x).launch = t.launch := rfl
@[simp] theorem Thread.retireTo_level (t : Thread) (x : Word) : (t.retireTo x).level = t.level := rfl
@[simp] theorem Thread.retireTo_join (t : Thread) (x : Word) : (t.retireTo x).join = t.join := rfl
@[simp] theorem Thread.retireTo_asid (t : Thread) (x : Word) : (t.retireTo x).asid = t.asid := rfl
@[simp] theorem Thread.retireTo_part (t : Thread) (x : Word) : (t.retireTo x).part = t.part := rfl
@[simp] theorem Thread.retireTo_cause (t : Thread) (x : Word) : (t.retireTo x).cause = t.cause := rfl
@[simp] theorem Thread.retireTo_imprecise (t : Thread) (x : Word) : (t.retireTo x).imprecise = t.imprecise := rfl
@[simp] theorem Thread.retireTo_notice (t : Thread) (x : Word) : (t.retireTo x).notice = t.notice := rfl
@[simp] theorem Thread.retireTo_taddr (t : Thread) (x : Word) : (t.retireTo x).taddr = t.taddr := rfl
@[simp] theorem Thread.retireTo_epc (t : Thread) (x : Word) : (t.retireTo x).epc = t.epc := rfl
@[simp] theorem Thread.retireTo_rn (t : Thread) (x : Word) : (t.retireTo x).rn = t.rn := rfl
@[simp] theorem Thread.retireTo_jn (t : Thread) (x : Word) : (t.retireTo x).jn = t.jn := rfl
@[simp] theorem Thread.retireTo_nest (t : Thread) (x : Word) : (t.retireTo x).nest = t.nest := rfl
@[simp] theorem Thread.retireTo_plev (t : Thread) (x : Word) : (t.retireTo x).plev = t.plev := rfl
@[simp] theorem Thread.retireTo_lev (t : Thread) (x : Word) : (t.retireTo x).lev = t.lev := rfl
@[simp] theorem Thread.retireTo_sfrq (t : Thread) (x : Word) : (t.retireTo x).sfrq = t.sfrq := rfl
@[simp] theorem Thread.retireTo_dropped (t : Thread) (x : Word) : (t.retireTo x).dropped = t.dropped := rfl
@[simp] theorem Thread.retireTo_skid (t : Thread) (x : Word) : (t.retireTo x).skid = t.skid := rfl
@[simp] theorem Thread.retireTo_done (t : Thread) (x : Word) : (t.retireTo x).done = t.done + 1 := rfl
@[simp] theorem Thread.retireTo_ringFails (t : Thread) (x : Word) : (t.retireTo x).ringFails = t.ringFails := rfl
@[simp] theorem Thread.retireTo_ringNote (t : Thread) (x : Word) : (t.retireTo x).ringNote = t.ringNote := rfl
@[simp] theorem Thread.retireTo_joinNote (t : Thread) (x : Word) : (t.retireTo x).joinNote = t.joinNote := rfl
@[simp] theorem Thread.retireTo_cellmask (t : Thread) (x : Word) : (t.retireTo x).cellmask = t.cellmask := rfl
@[simp] theorem Thread.retireTo_fmtA (t : Thread) (x : Word) : (t.retireTo x).fmtA = t.fmtA := rfl
@[simp] theorem Thread.retireTo_fmtB (t : Thread) (x : Word) : (t.retireTo x).fmtB = t.fmtB := rfl
@[simp] theorem Thread.retireTo_fmtC (t : Thread) (x : Word) : (t.retireTo x).fmtC = t.fmtC := rfl
@[simp] theorem Thread.retireTo_sclA (t : Thread) (x : Word) : (t.retireTo x).sclA = t.sclA := rfl
@[simp] theorem Thread.retireTo_sclB (t : Thread) (x : Word) : (t.retireTo x).sclB = t.sclB := rfl
@[simp] theorem Thread.retireTo_sclC (t : Thread) (x : Word) : (t.retireTo x).sclC = t.sclC := rfl
@[simp] theorem Thread.retireTo_rmode (t : Thread) (x : Word) : (t.retireTo x).rmode = t.rmode := rfl
@[simp] theorem Thread.retireTo_ftz (t : Thread) (x : Word) : (t.retireTo x).ftz = t.ftz := rfl
@[simp] theorem Thread.retireTo_srseed (t : Thread) (x : Word) : (t.retireTo x).srseed = t.srseed := rfl
@[simp] theorem Thread.retireTo_flurcnt (t : Thread) (x : Word) : (t.retireTo x).flurcnt = t.flurcnt := rfl
@[simp] theorem Thread.retireTo_fpstat (t : Thread) (x : Word) : (t.retireTo x).fpstat = t.fpstat := rfl
@[simp] theorem Thread.retireTo_request (t : Thread) (x : Word) : (t.retireTo x).request = t.request := rfl
@[simp] theorem Thread.retireTo_slabs (t : Thread) (x : Word) : (t.retireTo x).slabs = t.slabs := rfl
@[simp] theorem Thread.retireTo_vl (t : Thread) (x : Word) : (t.retireTo x).vl = t.vl := rfl
@[simp] theorem Thread.retireTo_regrant (t : Thread) (x : Word) : (t.retireTo x).regrant = t.regrant := rfl
@[simp] theorem Thread.retireTo_clip (t : Thread) (x : Word) : (t.retireTo x).clip = t.clip := rfl
@[simp] theorem Thread.retireTo_glref (t : Thread) (x : Word) : (t.retireTo x).glref = t.glref := rfl
@[simp] theorem Thread.retireTo_wait (t : Thread) (x : Word) : (t.retireTo x).wait = .ready := rfl
@[simp] theorem Thread.retireTo_latch (t : Thread) (x : Word) : (t.retireTo x).latch = [] := rfl
@[simp] theorem Thread.retireTo_acquired (t : Thread) (x : Word) : (t.retireTo x).acquired = [] := rfl
@[simp] theorem Thread.retireTo_killed (t : Thread) (x : Word) : (t.retireTo x).killed = t.killed := rfl
@[simp] theorem Thread.retireTo_wake (t : Thread) (x : Word) : (t.retireTo x).wake = t.wake := rfl
@[simp] theorem Thread.retireTo_dirty (t : Thread) (x : Word) : (t.retireTo x).dirty = t.dirty := rfl
@[simp] theorem Thread.retireTo_flake (t : Thread) (x : Word) : (t.retireTo x).flake = t.flake := rfl
@[simp] theorem Thread.retireTo_imx (t : Thread) (x : Word) : (t.retireTo x).imx = none := rfl

/-! ## Thread.sleepOn -/

@[simp] theorem Thread.sleepOn_pc (t : Thread) (x : Wait) : (t.sleepOn x).pc = t.pc := rfl
@[simp] theorem Thread.sleepOn_s (t : Thread) (x : Wait) : (t.sleepOn x).s = t.s := rfl
@[simp] theorem Thread.sleepOn_m (t : Thread) (x : Wait) : (t.sleepOn x).m = t.m := rfl
@[simp] theorem Thread.sleepOn_v (t : Thread) (x : Wait) : (t.sleepOn x).v = t.v := rfl
@[simp] theorem Thread.sleepOn_c (t : Thread) (x : Wait) : (t.sleepOn x).c = t.c := rfl
@[simp] theorem Thread.sleepOn_tok (t : Thread) (x : Wait) : (t.sleepOn x).tok = t.tok := rfl
@[simp] theorem Thread.sleepOn_tid (t : Thread) (x : Wait) : (t.sleepOn x).tid = t.tid := rfl
@[simp] theorem Thread.sleepOn_launch (t : Thread) (x : Wait) : (t.sleepOn x).launch = t.launch := rfl
@[simp] theorem Thread.sleepOn_level (t : Thread) (x : Wait) : (t.sleepOn x).level = t.level := rfl
@[simp] theorem Thread.sleepOn_join (t : Thread) (x : Wait) : (t.sleepOn x).join = t.join := rfl
@[simp] theorem Thread.sleepOn_asid (t : Thread) (x : Wait) : (t.sleepOn x).asid = t.asid := rfl
@[simp] theorem Thread.sleepOn_part (t : Thread) (x : Wait) : (t.sleepOn x).part = t.part := rfl
@[simp] theorem Thread.sleepOn_cause (t : Thread) (x : Wait) : (t.sleepOn x).cause = t.cause := rfl
@[simp] theorem Thread.sleepOn_imprecise (t : Thread) (x : Wait) : (t.sleepOn x).imprecise = t.imprecise := rfl
@[simp] theorem Thread.sleepOn_notice (t : Thread) (x : Wait) : (t.sleepOn x).notice = t.notice := rfl
@[simp] theorem Thread.sleepOn_taddr (t : Thread) (x : Wait) : (t.sleepOn x).taddr = t.taddr := rfl
@[simp] theorem Thread.sleepOn_epc (t : Thread) (x : Wait) : (t.sleepOn x).epc = t.epc := rfl
@[simp] theorem Thread.sleepOn_rn (t : Thread) (x : Wait) : (t.sleepOn x).rn = t.rn := rfl
@[simp] theorem Thread.sleepOn_jn (t : Thread) (x : Wait) : (t.sleepOn x).jn = t.jn := rfl
@[simp] theorem Thread.sleepOn_nest (t : Thread) (x : Wait) : (t.sleepOn x).nest = t.nest := rfl
@[simp] theorem Thread.sleepOn_plev (t : Thread) (x : Wait) : (t.sleepOn x).plev = t.plev := rfl
@[simp] theorem Thread.sleepOn_lev (t : Thread) (x : Wait) : (t.sleepOn x).lev = t.lev := rfl
@[simp] theorem Thread.sleepOn_sfrq (t : Thread) (x : Wait) : (t.sleepOn x).sfrq = t.sfrq := rfl
@[simp] theorem Thread.sleepOn_dropped (t : Thread) (x : Wait) : (t.sleepOn x).dropped = t.dropped := rfl
@[simp] theorem Thread.sleepOn_skid (t : Thread) (x : Wait) : (t.sleepOn x).skid = t.skid := rfl
@[simp] theorem Thread.sleepOn_done (t : Thread) (x : Wait) : (t.sleepOn x).done = t.done := rfl
@[simp] theorem Thread.sleepOn_ringFails (t : Thread) (x : Wait) : (t.sleepOn x).ringFails = t.ringFails := rfl
@[simp] theorem Thread.sleepOn_ringNote (t : Thread) (x : Wait) : (t.sleepOn x).ringNote = t.ringNote := rfl
@[simp] theorem Thread.sleepOn_joinNote (t : Thread) (x : Wait) : (t.sleepOn x).joinNote = t.joinNote := rfl
@[simp] theorem Thread.sleepOn_cellmask (t : Thread) (x : Wait) : (t.sleepOn x).cellmask = t.cellmask := rfl
@[simp] theorem Thread.sleepOn_fmtA (t : Thread) (x : Wait) : (t.sleepOn x).fmtA = t.fmtA := rfl
@[simp] theorem Thread.sleepOn_fmtB (t : Thread) (x : Wait) : (t.sleepOn x).fmtB = t.fmtB := rfl
@[simp] theorem Thread.sleepOn_fmtC (t : Thread) (x : Wait) : (t.sleepOn x).fmtC = t.fmtC := rfl
@[simp] theorem Thread.sleepOn_sclA (t : Thread) (x : Wait) : (t.sleepOn x).sclA = t.sclA := rfl
@[simp] theorem Thread.sleepOn_sclB (t : Thread) (x : Wait) : (t.sleepOn x).sclB = t.sclB := rfl
@[simp] theorem Thread.sleepOn_sclC (t : Thread) (x : Wait) : (t.sleepOn x).sclC = t.sclC := rfl
@[simp] theorem Thread.sleepOn_rmode (t : Thread) (x : Wait) : (t.sleepOn x).rmode = t.rmode := rfl
@[simp] theorem Thread.sleepOn_ftz (t : Thread) (x : Wait) : (t.sleepOn x).ftz = t.ftz := rfl
@[simp] theorem Thread.sleepOn_srseed (t : Thread) (x : Wait) : (t.sleepOn x).srseed = t.srseed := rfl
@[simp] theorem Thread.sleepOn_flurcnt (t : Thread) (x : Wait) : (t.sleepOn x).flurcnt = t.flurcnt := rfl
@[simp] theorem Thread.sleepOn_fpstat (t : Thread) (x : Wait) : (t.sleepOn x).fpstat = t.fpstat := rfl
@[simp] theorem Thread.sleepOn_request (t : Thread) (x : Wait) : (t.sleepOn x).request = t.request := rfl
@[simp] theorem Thread.sleepOn_slabs (t : Thread) (x : Wait) : (t.sleepOn x).slabs = t.slabs := rfl
@[simp] theorem Thread.sleepOn_vl (t : Thread) (x : Wait) : (t.sleepOn x).vl = t.vl := rfl
@[simp] theorem Thread.sleepOn_regrant (t : Thread) (x : Wait) : (t.sleepOn x).regrant = t.regrant := rfl
@[simp] theorem Thread.sleepOn_clip (t : Thread) (x : Wait) : (t.sleepOn x).clip = t.clip := rfl
@[simp] theorem Thread.sleepOn_glref (t : Thread) (x : Wait) : (t.sleepOn x).glref = t.glref := rfl
@[simp] theorem Thread.sleepOn_wait (t : Thread) (x : Wait) : (t.sleepOn x).wait = x := rfl
@[simp] theorem Thread.sleepOn_latch (t : Thread) (x : Wait) : (t.sleepOn x).latch = t.latch := rfl
@[simp] theorem Thread.sleepOn_acquired (t : Thread) (x : Wait) : (t.sleepOn x).acquired = t.acquired := rfl
@[simp] theorem Thread.sleepOn_killed (t : Thread) (x : Wait) : (t.sleepOn x).killed = t.killed := rfl
@[simp] theorem Thread.sleepOn_wake (t : Thread) (x : Wait) : (t.sleepOn x).wake = t.wake := rfl
@[simp] theorem Thread.sleepOn_dirty (t : Thread) (x : Wait) : (t.sleepOn x).dirty = t.dirty := rfl
@[simp] theorem Thread.sleepOn_flake (t : Thread) (x : Wait) : (t.sleepOn x).flake = t.flake := rfl
@[simp] theorem Thread.sleepOn_imx (t : Thread) (x : Wait) : (t.sleepOn x).imx = none := rfl

/-! ## Thread.srDirty -/

@[simp] theorem Thread.srDirty_pc (t : Thread) : (t.srDirty).pc = t.pc := rfl
@[simp] theorem Thread.srDirty_s (t : Thread) : (t.srDirty).s = t.s := rfl
@[simp] theorem Thread.srDirty_m (t : Thread) : (t.srDirty).m = t.m := rfl
@[simp] theorem Thread.srDirty_v (t : Thread) : (t.srDirty).v = t.v := rfl
@[simp] theorem Thread.srDirty_c (t : Thread) : (t.srDirty).c = t.c := rfl
@[simp] theorem Thread.srDirty_tok (t : Thread) : (t.srDirty).tok = t.tok := rfl
@[simp] theorem Thread.srDirty_tid (t : Thread) : (t.srDirty).tid = t.tid := rfl
@[simp] theorem Thread.srDirty_launch (t : Thread) : (t.srDirty).launch = t.launch := rfl
@[simp] theorem Thread.srDirty_level (t : Thread) : (t.srDirty).level = t.level := rfl
@[simp] theorem Thread.srDirty_join (t : Thread) : (t.srDirty).join = t.join := rfl
@[simp] theorem Thread.srDirty_asid (t : Thread) : (t.srDirty).asid = t.asid := rfl
@[simp] theorem Thread.srDirty_part (t : Thread) : (t.srDirty).part = t.part := rfl
@[simp] theorem Thread.srDirty_cause (t : Thread) : (t.srDirty).cause = t.cause := rfl
@[simp] theorem Thread.srDirty_imprecise (t : Thread) : (t.srDirty).imprecise = t.imprecise := rfl
@[simp] theorem Thread.srDirty_notice (t : Thread) : (t.srDirty).notice = t.notice := rfl
@[simp] theorem Thread.srDirty_taddr (t : Thread) : (t.srDirty).taddr = t.taddr := rfl
@[simp] theorem Thread.srDirty_epc (t : Thread) : (t.srDirty).epc = t.epc := rfl
@[simp] theorem Thread.srDirty_rn (t : Thread) : (t.srDirty).rn = t.rn := rfl
@[simp] theorem Thread.srDirty_jn (t : Thread) : (t.srDirty).jn = t.jn := rfl
@[simp] theorem Thread.srDirty_nest (t : Thread) : (t.srDirty).nest = t.nest := rfl
@[simp] theorem Thread.srDirty_plev (t : Thread) : (t.srDirty).plev = t.plev := rfl
@[simp] theorem Thread.srDirty_lev (t : Thread) : (t.srDirty).lev = t.lev := rfl
@[simp] theorem Thread.srDirty_sfrq (t : Thread) : (t.srDirty).sfrq = t.sfrq := rfl
@[simp] theorem Thread.srDirty_dropped (t : Thread) : (t.srDirty).dropped = t.dropped := rfl
@[simp] theorem Thread.srDirty_skid (t : Thread) : (t.srDirty).skid = t.skid := rfl
@[simp] theorem Thread.srDirty_done (t : Thread) : (t.srDirty).done = t.done := rfl
@[simp] theorem Thread.srDirty_ringFails (t : Thread) : (t.srDirty).ringFails = t.ringFails := rfl
@[simp] theorem Thread.srDirty_ringNote (t : Thread) : (t.srDirty).ringNote = t.ringNote := rfl
@[simp] theorem Thread.srDirty_joinNote (t : Thread) : (t.srDirty).joinNote = t.joinNote := rfl
@[simp] theorem Thread.srDirty_cellmask (t : Thread) : (t.srDirty).cellmask = t.cellmask := rfl
@[simp] theorem Thread.srDirty_fmtA (t : Thread) : (t.srDirty).fmtA = t.fmtA := rfl
@[simp] theorem Thread.srDirty_fmtB (t : Thread) : (t.srDirty).fmtB = t.fmtB := rfl
@[simp] theorem Thread.srDirty_fmtC (t : Thread) : (t.srDirty).fmtC = t.fmtC := rfl
@[simp] theorem Thread.srDirty_sclA (t : Thread) : (t.srDirty).sclA = t.sclA := rfl
@[simp] theorem Thread.srDirty_sclB (t : Thread) : (t.srDirty).sclB = t.sclB := rfl
@[simp] theorem Thread.srDirty_sclC (t : Thread) : (t.srDirty).sclC = t.sclC := rfl
@[simp] theorem Thread.srDirty_rmode (t : Thread) : (t.srDirty).rmode = t.rmode := rfl
@[simp] theorem Thread.srDirty_ftz (t : Thread) : (t.srDirty).ftz = t.ftz := rfl
@[simp] theorem Thread.srDirty_srseed (t : Thread) : (t.srDirty).srseed = t.srseed := rfl
@[simp] theorem Thread.srDirty_flurcnt (t : Thread) : (t.srDirty).flurcnt = t.flurcnt := rfl
@[simp] theorem Thread.srDirty_fpstat (t : Thread) : (t.srDirty).fpstat = t.fpstat := rfl
@[simp] theorem Thread.srDirty_request (t : Thread) : (t.srDirty).request = t.request := rfl
@[simp] theorem Thread.srDirty_slabs (t : Thread) : (t.srDirty).slabs = t.slabs := rfl
@[simp] theorem Thread.srDirty_vl (t : Thread) : (t.srDirty).vl = t.vl := rfl
@[simp] theorem Thread.srDirty_regrant (t : Thread) : (t.srDirty).regrant = t.regrant := rfl
@[simp] theorem Thread.srDirty_clip (t : Thread) : (t.srDirty).clip = t.clip := rfl
@[simp] theorem Thread.srDirty_glref (t : Thread) : (t.srDirty).glref = t.glref := rfl
@[simp] theorem Thread.srDirty_wait (t : Thread) : (t.srDirty).wait = t.wait := rfl
@[simp] theorem Thread.srDirty_latch (t : Thread) : (t.srDirty).latch = t.latch := rfl
@[simp] theorem Thread.srDirty_acquired (t : Thread) : (t.srDirty).acquired = t.acquired := rfl
@[simp] theorem Thread.srDirty_killed (t : Thread) : (t.srDirty).killed = t.killed := rfl
@[simp] theorem Thread.srDirty_wake (t : Thread) : (t.srDirty).wake = t.wake := rfl
@[simp] theorem Thread.srDirty_flake (t : Thread) : (t.srDirty).flake = t.flake := rfl
@[simp] theorem Thread.srDirty_imx (t : Thread) : (t.srDirty).imx = t.imx := rfl

/-! ## Thread.leaveTrap -/

@[simp] theorem Thread.leaveTrap_pc (t : Thread) : (t.leaveTrap).pc = t.epc &&& ~~~3#64 := rfl
@[simp] theorem Thread.leaveTrap_s (t : Thread) : (t.leaveTrap).s = t.s := rfl
@[simp] theorem Thread.leaveTrap_m (t : Thread) : (t.leaveTrap).m = t.m := rfl
@[simp] theorem Thread.leaveTrap_v (t : Thread) : (t.leaveTrap).v = t.v := rfl
@[simp] theorem Thread.leaveTrap_c (t : Thread) : (t.leaveTrap).c = t.c := rfl
@[simp] theorem Thread.leaveTrap_tok (t : Thread) : (t.leaveTrap).tok = t.tok := rfl
@[simp] theorem Thread.leaveTrap_tid (t : Thread) : (t.leaveTrap).tid = t.tid := rfl
@[simp] theorem Thread.leaveTrap_launch (t : Thread) : (t.leaveTrap).launch = t.launch := rfl
@[simp] theorem Thread.leaveTrap_level (t : Thread) : (t.leaveTrap).level = t.level := rfl
@[simp] theorem Thread.leaveTrap_join (t : Thread) : (t.leaveTrap).join = t.join := rfl
@[simp] theorem Thread.leaveTrap_asid (t : Thread) : (t.leaveTrap).asid = t.asid := rfl
@[simp] theorem Thread.leaveTrap_part (t : Thread) : (t.leaveTrap).part = t.part := rfl
@[simp] theorem Thread.leaveTrap_cause (t : Thread) : (t.leaveTrap).cause = t.cause := rfl
@[simp] theorem Thread.leaveTrap_imprecise (t : Thread) : (t.leaveTrap).imprecise = t.imprecise := rfl
@[simp] theorem Thread.leaveTrap_notice (t : Thread) : (t.leaveTrap).notice = t.notice := rfl
@[simp] theorem Thread.leaveTrap_taddr (t : Thread) : (t.leaveTrap).taddr = t.taddr := rfl
@[simp] theorem Thread.leaveTrap_epc (t : Thread) : (t.leaveTrap).epc = t.epc := rfl
@[simp] theorem Thread.leaveTrap_rn (t : Thread) : (t.leaveTrap).rn = t.rn := rfl
@[simp] theorem Thread.leaveTrap_jn (t : Thread) : (t.leaveTrap).jn = t.jn := rfl
@[simp] theorem Thread.leaveTrap_nest (t : Thread) : (t.leaveTrap).nest = false := rfl
@[simp] theorem Thread.leaveTrap_plev (t : Thread) : (t.leaveTrap).plev = t.plev := rfl
@[simp] theorem Thread.leaveTrap_lev (t : Thread) : (t.leaveTrap).lev = t.plev := rfl
@[simp] theorem Thread.leaveTrap_sfrq (t : Thread) : (t.leaveTrap).sfrq = t.sfrq := rfl
@[simp] theorem Thread.leaveTrap_dropped (t : Thread) : (t.leaveTrap).dropped = t.dropped := rfl
@[simp] theorem Thread.leaveTrap_skid (t : Thread) : (t.leaveTrap).skid = t.skid := rfl
@[simp] theorem Thread.leaveTrap_done (t : Thread) : (t.leaveTrap).done = t.done + 1 := rfl
@[simp] theorem Thread.leaveTrap_ringFails (t : Thread) : (t.leaveTrap).ringFails = t.ringFails := rfl
@[simp] theorem Thread.leaveTrap_ringNote (t : Thread) : (t.leaveTrap).ringNote = t.ringNote := rfl
@[simp] theorem Thread.leaveTrap_joinNote (t : Thread) : (t.leaveTrap).joinNote = t.joinNote := rfl
@[simp] theorem Thread.leaveTrap_cellmask (t : Thread) : (t.leaveTrap).cellmask = t.cellmask := rfl
@[simp] theorem Thread.leaveTrap_fmtA (t : Thread) : (t.leaveTrap).fmtA = t.fmtA := rfl
@[simp] theorem Thread.leaveTrap_fmtB (t : Thread) : (t.leaveTrap).fmtB = t.fmtB := rfl
@[simp] theorem Thread.leaveTrap_fmtC (t : Thread) : (t.leaveTrap).fmtC = t.fmtC := rfl
@[simp] theorem Thread.leaveTrap_sclA (t : Thread) : (t.leaveTrap).sclA = t.sclA := rfl
@[simp] theorem Thread.leaveTrap_sclB (t : Thread) : (t.leaveTrap).sclB = t.sclB := rfl
@[simp] theorem Thread.leaveTrap_sclC (t : Thread) : (t.leaveTrap).sclC = t.sclC := rfl
@[simp] theorem Thread.leaveTrap_rmode (t : Thread) : (t.leaveTrap).rmode = t.rmode := rfl
@[simp] theorem Thread.leaveTrap_ftz (t : Thread) : (t.leaveTrap).ftz = t.ftz := rfl
@[simp] theorem Thread.leaveTrap_srseed (t : Thread) : (t.leaveTrap).srseed = t.srseed := rfl
@[simp] theorem Thread.leaveTrap_flurcnt (t : Thread) : (t.leaveTrap).flurcnt = t.flurcnt := rfl
@[simp] theorem Thread.leaveTrap_fpstat (t : Thread) : (t.leaveTrap).fpstat = t.fpstat := rfl
@[simp] theorem Thread.leaveTrap_request (t : Thread) : (t.leaveTrap).request = t.request := rfl
@[simp] theorem Thread.leaveTrap_slabs (t : Thread) : (t.leaveTrap).slabs = t.slabs := rfl
@[simp] theorem Thread.leaveTrap_vl (t : Thread) : (t.leaveTrap).vl = t.vl := rfl
@[simp] theorem Thread.leaveTrap_regrant (t : Thread) : (t.leaveTrap).regrant = t.regrant := rfl
@[simp] theorem Thread.leaveTrap_clip (t : Thread) : (t.leaveTrap).clip = t.clip := rfl
@[simp] theorem Thread.leaveTrap_glref (t : Thread) : (t.leaveTrap).glref = t.glref := rfl
@[simp] theorem Thread.leaveTrap_wait (t : Thread) : (t.leaveTrap).wait = .ready := rfl
@[simp] theorem Thread.leaveTrap_latch (t : Thread) : (t.leaveTrap).latch = [] := rfl
@[simp] theorem Thread.leaveTrap_acquired (t : Thread) : (t.leaveTrap).acquired = [] := rfl
@[simp] theorem Thread.leaveTrap_killed (t : Thread) : (t.leaveTrap).killed = t.killed := rfl
@[simp] theorem Thread.leaveTrap_wake (t : Thread) : (t.leaveTrap).wake = t.wake := rfl
@[simp] theorem Thread.leaveTrap_flake (t : Thread) : (t.leaveTrap).flake = t.flake := rfl
@[simp] theorem Thread.leaveTrap_imx (t : Thread) : (t.leaveTrap).imx = none := rfl

/-! ## Thread.enterTrap -/

@[simp] theorem Thread.enterTrap_pc (t : Thread) (v : Word) (c : BitVec 8) (a e : Word) (i n : Bool) : (t.enterTrap v c a e i n).pc = v := rfl
@[simp] theorem Thread.enterTrap_s (t : Thread) (v : Word) (c : BitVec 8) (a e : Word) (i n : Bool) : (t.enterTrap v c a e i n).s = t.s := rfl
@[simp] theorem Thread.enterTrap_m (t : Thread) (v : Word) (c : BitVec 8) (a e : Word) (i n : Bool) : (t.enterTrap v c a e i n).m = t.m := rfl
@[simp] theorem Thread.enterTrap_v (t : Thread) (v : Word) (c : BitVec 8) (a e : Word) (i n : Bool) : (t.enterTrap v c a e i n).v = t.v := rfl
@[simp] theorem Thread.enterTrap_c (t : Thread) (v : Word) (c : BitVec 8) (a e : Word) (i n : Bool) : (t.enterTrap v c a e i n).c = t.c := rfl
@[simp] theorem Thread.enterTrap_tid (t : Thread) (v : Word) (c : BitVec 8) (a e : Word) (i n : Bool) : (t.enterTrap v c a e i n).tid = t.tid := rfl
@[simp] theorem Thread.enterTrap_launch (t : Thread) (v : Word) (c : BitVec 8) (a e : Word) (i n : Bool) : (t.enterTrap v c a e i n).launch = t.launch := rfl
@[simp] theorem Thread.enterTrap_level (t : Thread) (v : Word) (c : BitVec 8) (a e : Word) (i n : Bool) : (t.enterTrap v c a e i n).level = t.level := rfl
@[simp] theorem Thread.enterTrap_join (t : Thread) (v : Word) (c : BitVec 8) (a e : Word) (i n : Bool) : (t.enterTrap v c a e i n).join = t.join := rfl
@[simp] theorem Thread.enterTrap_asid (t : Thread) (v : Word) (c : BitVec 8) (a e : Word) (i n : Bool) : (t.enterTrap v c a e i n).asid = t.asid := rfl
@[simp] theorem Thread.enterTrap_part (t : Thread) (v : Word) (c : BitVec 8) (a e : Word) (i n : Bool) : (t.enterTrap v c a e i n).part = t.part := rfl
@[simp] theorem Thread.enterTrap_cause (t : Thread) (v : Word) (c : BitVec 8) (a e : Word) (i n : Bool) : (t.enterTrap v c a e i n).cause = c := rfl
@[simp] theorem Thread.enterTrap_imprecise (t : Thread) (v : Word) (c : BitVec 8) (a e : Word) (i n : Bool) : (t.enterTrap v c a e i n).imprecise = i := rfl
@[simp] theorem Thread.enterTrap_notice (t : Thread) (v : Word) (c : BitVec 8) (a e : Word) (i n : Bool) : (t.enterTrap v c a e i n).notice = n := rfl
@[simp] theorem Thread.enterTrap_taddr (t : Thread) (v : Word) (c : BitVec 8) (a e : Word) (i n : Bool) : (t.enterTrap v c a e i n).taddr = a := rfl
@[simp] theorem Thread.enterTrap_epc (t : Thread) (v : Word) (c : BitVec 8) (a e : Word) (i n : Bool) : (t.enterTrap v c a e i n).epc = e := rfl
@[simp] theorem Thread.enterTrap_rn (t : Thread) (v : Word) (c : BitVec 8) (a e : Word) (i n : Bool) : (t.enterTrap v c a e i n).rn = t.rn := rfl
@[simp] theorem Thread.enterTrap_jn (t : Thread) (v : Word) (c : BitVec 8) (a e : Word) (i n : Bool) : (t.enterTrap v c a e i n).jn = t.jn := rfl
@[simp] theorem Thread.enterTrap_nest (t : Thread) (v : Word) (c : BitVec 8) (a e : Word) (i n : Bool) : (t.enterTrap v c a e i n).nest = true := rfl
@[simp] theorem Thread.enterTrap_plev (t : Thread) (v : Word) (c : BitVec 8) (a e : Word) (i n : Bool) : (t.enterTrap v c a e i n).plev = t.lev := rfl
@[simp] theorem Thread.enterTrap_lev (t : Thread) (v : Word) (c : BitVec 8) (a e : Word) (i n : Bool) : (t.enterTrap v c a e i n).lev = true := rfl
@[simp] theorem Thread.enterTrap_sfrq (t : Thread) (v : Word) (c : BitVec 8) (a e : Word) (i n : Bool) : (t.enterTrap v c a e i n).sfrq = t.sfrq := rfl
@[simp] theorem Thread.enterTrap_dropped (t : Thread) (v : Word) (c : BitVec 8) (a e : Word) (i n : Bool) : (t.enterTrap v c a e i n).dropped = t.dropped := rfl
@[simp] theorem Thread.enterTrap_skid (t : Thread) (v : Word) (c : BitVec 8) (a e : Word) (i n : Bool) : (t.enterTrap v c a e i n).skid = t.skid := rfl
@[simp] theorem Thread.enterTrap_done (t : Thread) (v : Word) (c : BitVec 8) (a e : Word) (i n : Bool) : (t.enterTrap v c a e i n).done = t.done := rfl
@[simp] theorem Thread.enterTrap_ringFails (t : Thread) (v : Word) (c : BitVec 8) (a e : Word) (i n : Bool) : (t.enterTrap v c a e i n).ringFails = t.ringFails := rfl
@[simp] theorem Thread.enterTrap_ringNote (t : Thread) (v : Word) (c : BitVec 8) (a e : Word) (i n : Bool) : (t.enterTrap v c a e i n).ringNote = t.ringNote := rfl
@[simp] theorem Thread.enterTrap_joinNote (t : Thread) (v : Word) (c : BitVec 8) (a e : Word) (i n : Bool) : (t.enterTrap v c a e i n).joinNote = t.joinNote := rfl
@[simp] theorem Thread.enterTrap_cellmask (t : Thread) (v : Word) (c : BitVec 8) (a e : Word) (i n : Bool) : (t.enterTrap v c a e i n).cellmask = t.cellmask := rfl
@[simp] theorem Thread.enterTrap_fmtA (t : Thread) (v : Word) (c : BitVec 8) (a e : Word) (i n : Bool) : (t.enterTrap v c a e i n).fmtA = t.fmtA := rfl
@[simp] theorem Thread.enterTrap_fmtB (t : Thread) (v : Word) (c : BitVec 8) (a e : Word) (i n : Bool) : (t.enterTrap v c a e i n).fmtB = t.fmtB := rfl
@[simp] theorem Thread.enterTrap_fmtC (t : Thread) (v : Word) (c : BitVec 8) (a e : Word) (i n : Bool) : (t.enterTrap v c a e i n).fmtC = t.fmtC := rfl
@[simp] theorem Thread.enterTrap_sclA (t : Thread) (v : Word) (c : BitVec 8) (a e : Word) (i n : Bool) : (t.enterTrap v c a e i n).sclA = t.sclA := rfl
@[simp] theorem Thread.enterTrap_sclB (t : Thread) (v : Word) (c : BitVec 8) (a e : Word) (i n : Bool) : (t.enterTrap v c a e i n).sclB = t.sclB := rfl
@[simp] theorem Thread.enterTrap_sclC (t : Thread) (v : Word) (c : BitVec 8) (a e : Word) (i n : Bool) : (t.enterTrap v c a e i n).sclC = t.sclC := rfl
@[simp] theorem Thread.enterTrap_rmode (t : Thread) (v : Word) (c : BitVec 8) (a e : Word) (i n : Bool) : (t.enterTrap v c a e i n).rmode = t.rmode := rfl
@[simp] theorem Thread.enterTrap_ftz (t : Thread) (v : Word) (c : BitVec 8) (a e : Word) (i n : Bool) : (t.enterTrap v c a e i n).ftz = t.ftz := rfl
@[simp] theorem Thread.enterTrap_srseed (t : Thread) (v : Word) (c : BitVec 8) (a e : Word) (i n : Bool) : (t.enterTrap v c a e i n).srseed = t.srseed := rfl
@[simp] theorem Thread.enterTrap_flurcnt (t : Thread) (v : Word) (c : BitVec 8) (a e : Word) (i n : Bool) : (t.enterTrap v c a e i n).flurcnt = t.flurcnt := rfl
@[simp] theorem Thread.enterTrap_fpstat (t : Thread) (v : Word) (c : BitVec 8) (a e : Word) (i n : Bool) : (t.enterTrap v c a e i n).fpstat = t.fpstat := rfl
@[simp] theorem Thread.enterTrap_request (t : Thread) (v : Word) (c : BitVec 8) (a e : Word) (i n : Bool) : (t.enterTrap v c a e i n).request = t.request := rfl
@[simp] theorem Thread.enterTrap_slabs (t : Thread) (v : Word) (c : BitVec 8) (a e : Word) (i n : Bool) : (t.enterTrap v c a e i n).slabs = t.slabs := rfl
@[simp] theorem Thread.enterTrap_vl (t : Thread) (v : Word) (c : BitVec 8) (a e : Word) (i n : Bool) : (t.enterTrap v c a e i n).vl = t.vl := rfl
@[simp] theorem Thread.enterTrap_regrant (t : Thread) (v : Word) (c : BitVec 8) (a e : Word) (i n : Bool) : (t.enterTrap v c a e i n).regrant = t.regrant := rfl
@[simp] theorem Thread.enterTrap_clip (t : Thread) (v : Word) (c : BitVec 8) (a e : Word) (i n : Bool) : (t.enterTrap v c a e i n).clip = t.clip := rfl
@[simp] theorem Thread.enterTrap_glref (t : Thread) (v : Word) (c : BitVec 8) (a e : Word) (i n : Bool) : (t.enterTrap v c a e i n).glref = t.glref := rfl
@[simp] theorem Thread.enterTrap_wait (t : Thread) (v : Word) (c : BitVec 8) (a e : Word) (i n : Bool) : (t.enterTrap v c a e i n).wait = .ready := rfl
@[simp] theorem Thread.enterTrap_latch (t : Thread) (v : Word) (c : BitVec 8) (a e : Word) (i n : Bool) : (t.enterTrap v c a e i n).latch = [] := rfl
@[simp] theorem Thread.enterTrap_acquired (t : Thread) (v : Word) (c : BitVec 8) (a e : Word) (i n : Bool) : (t.enterTrap v c a e i n).acquired = [] := rfl
@[simp] theorem Thread.enterTrap_killed (t : Thread) (v : Word) (c : BitVec 8) (a e : Word) (i n : Bool) : (t.enterTrap v c a e i n).killed = t.killed := rfl
@[simp] theorem Thread.enterTrap_wake (t : Thread) (v : Word) (c : BitVec 8) (a e : Word) (i n : Bool) : (t.enterTrap v c a e i n).wake = t.wake := rfl
@[simp] theorem Thread.enterTrap_flake (t : Thread) (v : Word) (c : BitVec 8) (a e : Word) (i n : Bool) : (t.enterTrap v c a e i n).flake = t.flake := rfl
@[simp] theorem Thread.enterTrap_imx (t : Thread) (v : Word) (c : BitVec 8) (a e : Word) (i n : Bool) : (t.enterTrap v c a e i n).imx = none := rfl

/-! ## Thread.setS -/

@[simp] theorem Thread.setS_pc (t : Thread) (r : Nat) (v : Word) : (t.setS r v).pc = t.pc := by
  unfold Thread.setS; split <;> rfl
@[simp] theorem Thread.setS_m (t : Thread) (r : Nat) (v : Word) : (t.setS r v).m = t.m := by
  unfold Thread.setS; split <;> rfl
@[simp] theorem Thread.setS_v (t : Thread) (r : Nat) (v : Word) : (t.setS r v).v = t.v := by
  unfold Thread.setS; split <;> rfl
@[simp] theorem Thread.setS_c (t : Thread) (r : Nat) (v : Word) : (t.setS r v).c = t.c := by
  unfold Thread.setS; split <;> rfl
@[simp] theorem Thread.setS_tid (t : Thread) (r : Nat) (v : Word) : (t.setS r v).tid = t.tid := by
  unfold Thread.setS; split <;> rfl
@[simp] theorem Thread.setS_launch (t : Thread) (r : Nat) (v : Word) : (t.setS r v).launch = t.launch := by
  unfold Thread.setS; split <;> rfl
@[simp] theorem Thread.setS_level (t : Thread) (r : Nat) (v : Word) : (t.setS r v).level = t.level := by
  unfold Thread.setS; split <;> rfl
@[simp] theorem Thread.setS_join (t : Thread) (r : Nat) (v : Word) : (t.setS r v).join = t.join := by
  unfold Thread.setS; split <;> rfl
@[simp] theorem Thread.setS_asid (t : Thread) (r : Nat) (v : Word) : (t.setS r v).asid = t.asid := by
  unfold Thread.setS; split <;> rfl
@[simp] theorem Thread.setS_part (t : Thread) (r : Nat) (v : Word) : (t.setS r v).part = t.part := by
  unfold Thread.setS; split <;> rfl
@[simp] theorem Thread.setS_cause (t : Thread) (r : Nat) (v : Word) : (t.setS r v).cause = t.cause := by
  unfold Thread.setS; split <;> rfl
@[simp] theorem Thread.setS_imprecise (t : Thread) (r : Nat) (v : Word) : (t.setS r v).imprecise = t.imprecise := by
  unfold Thread.setS; split <;> rfl
@[simp] theorem Thread.setS_notice (t : Thread) (r : Nat) (v : Word) : (t.setS r v).notice = t.notice := by
  unfold Thread.setS; split <;> rfl
@[simp] theorem Thread.setS_taddr (t : Thread) (r : Nat) (v : Word) : (t.setS r v).taddr = t.taddr := by
  unfold Thread.setS; split <;> rfl
@[simp] theorem Thread.setS_epc (t : Thread) (r : Nat) (v : Word) : (t.setS r v).epc = t.epc := by
  unfold Thread.setS; split <;> rfl
@[simp] theorem Thread.setS_rn (t : Thread) (r : Nat) (v : Word) : (t.setS r v).rn = t.rn := by
  unfold Thread.setS; split <;> rfl
@[simp] theorem Thread.setS_jn (t : Thread) (r : Nat) (v : Word) : (t.setS r v).jn = t.jn := by
  unfold Thread.setS; split <;> rfl
@[simp] theorem Thread.setS_nest (t : Thread) (r : Nat) (v : Word) : (t.setS r v).nest = t.nest := by
  unfold Thread.setS; split <;> rfl
@[simp] theorem Thread.setS_plev (t : Thread) (r : Nat) (v : Word) : (t.setS r v).plev = t.plev := by
  unfold Thread.setS; split <;> rfl
@[simp] theorem Thread.setS_lev (t : Thread) (r : Nat) (v : Word) : (t.setS r v).lev = t.lev := by
  unfold Thread.setS; split <;> rfl
@[simp] theorem Thread.setS_sfrq (t : Thread) (r : Nat) (v : Word) : (t.setS r v).sfrq = t.sfrq := by
  unfold Thread.setS; split <;> rfl
@[simp] theorem Thread.setS_dropped (t : Thread) (r : Nat) (v : Word) : (t.setS r v).dropped = t.dropped := by
  unfold Thread.setS; split <;> rfl
@[simp] theorem Thread.setS_skid (t : Thread) (r : Nat) (v : Word) : (t.setS r v).skid = t.skid := by
  unfold Thread.setS; split <;> rfl
@[simp] theorem Thread.setS_done (t : Thread) (r : Nat) (v : Word) : (t.setS r v).done = t.done := by
  unfold Thread.setS; split <;> rfl
@[simp] theorem Thread.setS_ringFails (t : Thread) (r : Nat) (v : Word) : (t.setS r v).ringFails = t.ringFails := by
  unfold Thread.setS; split <;> rfl
@[simp] theorem Thread.setS_ringNote (t : Thread) (r : Nat) (v : Word) : (t.setS r v).ringNote = t.ringNote := by
  unfold Thread.setS; split <;> rfl
@[simp] theorem Thread.setS_joinNote (t : Thread) (r : Nat) (v : Word) : (t.setS r v).joinNote = t.joinNote := by
  unfold Thread.setS; split <;> rfl
@[simp] theorem Thread.setS_cellmask (t : Thread) (r : Nat) (v : Word) : (t.setS r v).cellmask = t.cellmask := by
  unfold Thread.setS; split <;> rfl
@[simp] theorem Thread.setS_fmtA (t : Thread) (r : Nat) (v : Word) : (t.setS r v).fmtA = t.fmtA := by
  unfold Thread.setS; split <;> rfl
@[simp] theorem Thread.setS_fmtB (t : Thread) (r : Nat) (v : Word) : (t.setS r v).fmtB = t.fmtB := by
  unfold Thread.setS; split <;> rfl
@[simp] theorem Thread.setS_fmtC (t : Thread) (r : Nat) (v : Word) : (t.setS r v).fmtC = t.fmtC := by
  unfold Thread.setS; split <;> rfl
@[simp] theorem Thread.setS_sclA (t : Thread) (r : Nat) (v : Word) : (t.setS r v).sclA = t.sclA := by
  unfold Thread.setS; split <;> rfl
@[simp] theorem Thread.setS_sclB (t : Thread) (r : Nat) (v : Word) : (t.setS r v).sclB = t.sclB := by
  unfold Thread.setS; split <;> rfl
@[simp] theorem Thread.setS_sclC (t : Thread) (r : Nat) (v : Word) : (t.setS r v).sclC = t.sclC := by
  unfold Thread.setS; split <;> rfl
@[simp] theorem Thread.setS_rmode (t : Thread) (r : Nat) (v : Word) : (t.setS r v).rmode = t.rmode := by
  unfold Thread.setS; split <;> rfl
@[simp] theorem Thread.setS_ftz (t : Thread) (r : Nat) (v : Word) : (t.setS r v).ftz = t.ftz := by
  unfold Thread.setS; split <;> rfl
@[simp] theorem Thread.setS_srseed (t : Thread) (r : Nat) (v : Word) : (t.setS r v).srseed = t.srseed := by
  unfold Thread.setS; split <;> rfl
@[simp] theorem Thread.setS_flurcnt (t : Thread) (r : Nat) (v : Word) : (t.setS r v).flurcnt = t.flurcnt := by
  unfold Thread.setS; split <;> rfl
@[simp] theorem Thread.setS_fpstat (t : Thread) (r : Nat) (v : Word) : (t.setS r v).fpstat = t.fpstat := by
  unfold Thread.setS; split <;> rfl
@[simp] theorem Thread.setS_request (t : Thread) (r : Nat) (v : Word) : (t.setS r v).request = t.request := by
  unfold Thread.setS; split <;> rfl
@[simp] theorem Thread.setS_slabs (t : Thread) (r : Nat) (v : Word) : (t.setS r v).slabs = t.slabs := by
  unfold Thread.setS; split <;> rfl
@[simp] theorem Thread.setS_vl (t : Thread) (r : Nat) (v : Word) : (t.setS r v).vl = t.vl := by
  unfold Thread.setS; split <;> rfl
@[simp] theorem Thread.setS_regrant (t : Thread) (r : Nat) (v : Word) : (t.setS r v).regrant = t.regrant := by
  unfold Thread.setS; split <;> rfl
@[simp] theorem Thread.setS_clip (t : Thread) (r : Nat) (v : Word) : (t.setS r v).clip = t.clip := by
  unfold Thread.setS; split <;> rfl
@[simp] theorem Thread.setS_glref (t : Thread) (r : Nat) (v : Word) : (t.setS r v).glref = t.glref := by
  unfold Thread.setS; split <;> rfl
@[simp] theorem Thread.setS_wait (t : Thread) (r : Nat) (v : Word) : (t.setS r v).wait = t.wait := by
  unfold Thread.setS; split <;> rfl
@[simp] theorem Thread.setS_latch (t : Thread) (r : Nat) (v : Word) : (t.setS r v).latch = t.latch := by
  unfold Thread.setS; split <;> rfl
@[simp] theorem Thread.setS_acquired (t : Thread) (r : Nat) (v : Word) : (t.setS r v).acquired = t.acquired := by
  unfold Thread.setS; split <;> rfl
@[simp] theorem Thread.setS_killed (t : Thread) (r : Nat) (v : Word) : (t.setS r v).killed = t.killed := by
  unfold Thread.setS; split <;> rfl
@[simp] theorem Thread.setS_wake (t : Thread) (r : Nat) (v : Word) : (t.setS r v).wake = t.wake := by
  unfold Thread.setS; split <;> rfl
@[simp] theorem Thread.setS_flake (t : Thread) (r : Nat) (v : Word) : (t.setS r v).flake = t.flake := by
  unfold Thread.setS; split <;> rfl
@[simp] theorem Thread.setS_imx (t : Thread) (r : Nat) (v : Word) : (t.setS r v).imx = t.imx := by
  unfold Thread.setS; split <;> rfl

/-! ## Reading what was written -/

@[simp] theorem State.ctx_setCtx (s : State) (k : Nat) (c : Ctx) : (s.setCtx k c).ctx k = c := by
  simp [State.ctx, State.setCtx]

@[simp] theorem State.ctx_setCtx_ne (s : State) {k j : Nat} (c : Ctx) (h : j ≠ k) : (s.setCtx k c).ctx j = s.ctx j := by
  simp [State.ctx, State.setCtx, h]

@[simp] theorem State.thAt_setThAt (s : State) (k : Nat) (t : Thread) : (s.setThAt k t).thAt k = t := by
  simp [State.thAt, State.setThAt]

@[simp] theorem State.thAt_setThAt_ne (s : State) {k j : Nat} (t : Thread) (h : j ≠ k) :
    (s.setThAt k t).thAt j = s.thAt j := by simp [State.thAt, State.setThAt, h]

@[simp] theorem State.th_setTh (s : State) (t : Thread) : (s.setTh t).th = t := by
  simp [State.th, State.setTh, State.setThAt]; simp [State.thAt]

@[simp] theorem State.mode_setThAt (s : State) (k j : Nat) (t : Thread) : ((s.setThAt k t).ctx j).mode = (s.ctx j).mode := by
  by_cases h : j = k
  · subst h; simp [State.setThAt]
  · simp [State.setThAt, h]

@[simp] theorem State.core_setCore (s : State) (k : Nat) (c : Core) : (s.setCore k c).core k = c := by
  simp [State.core, State.setCore]

@[simp] theorem State.core_setCore_ne (s : State) {k j : Nat} (c : Core) (h : j ≠ k) :
    (s.setCore k c).core j = s.core j := by simp [State.core, State.setCore, h]

@[simp] theorem State.part_setPart (s : State) (k : Nat) (p : Part) : (s.setPart k p).part k = p := by
  simp [State.part, State.setPart]

@[simp] theorem State.part_setPart_ne (s : State) {k j : Nat} (p : Part) (h : j ≠ k) :
    (s.setPart k p).part j = s.part j := by simp [State.part, State.setPart, h]

@[simp] theorem State.core_setThAt (s : State) (k j : Nat) (t : Thread) : (s.setThAt k t).core j = s.core j := rfl
@[simp] theorem State.core_setTh (s : State) (j : Nat) (t : Thread) : (s.setTh t).core j = s.core j := rfl
@[simp] theorem State.part_setThAt (s : State) (k j : Nat) (t : Thread) : (s.setThAt k t).part j = s.part j := rfl
@[simp] theorem State.part_setTh (s : State) (j : Nat) (t : Thread) : (s.setTh t).part j = s.part j := rfl
@[simp] theorem State.thAt_setCore (s : State) (k j : Nat) (c : Core) : (s.setCore k c).thAt j = s.thAt j := rfl
@[simp] theorem State.th_setCore (s : State) (k : Nat) (c : Core) : (s.setCore k c).th = s.th := rfl
@[simp] theorem State.thAt_setPart (s : State) (k j : Nat) (p : Part) : (s.setPart k p).thAt j = s.thAt j := rfl
@[simp] theorem State.th_setPart (s : State) (k : Nat) (p : Part) : (s.setPart k p).th = s.th := rfl
@[simp] theorem State.me_setTh (s : State) (t : Thread) : (s.setTh t).me = s.me := rfl
@[simp] theorem State.me_setCore (s : State) (k : Nat) (c : Core) : (s.setCore k c).me = s.me := rfl

/-- A second write of the executing thread replaces the first. -/
theorem Tbl.insert_insert {α : Type} (t : Tbl α) (n : Nat) (v w : α) : Tbl.insert (Tbl.insert t n v) n w = Tbl.insert t n w := by
  induction t with
  | nil => simp [Tbl.insert]
  | cons p t ih =>
    obtain ⟨k, x⟩ := p
    simp only [Tbl.insert]
    split
    · simp [Tbl.insert]
    · split
      · subst_vars; simp [Tbl.insert]
      · simp [Tbl.insert, *]

@[simp] theorem State.setTh_setTh (s : State) (t u : Thread) : (s.setTh t).setTh u = s.setTh u := by
  simp [State.setTh, State.setThAt, State.setCtx, State.ctx, Tbl.insert_insert]

@[simp] theorem State.th_retire (s : State) : s.retire.th = s.th.retire := by simp [State.retire]
@[simp] theorem State.th_sleep (s : State) (w : Wait) : (s.sleep w).th = s.th.sleepOn w := by simp [State.sleep]
@[simp] theorem State.th_finishS (s : State) (d : Nat) (v : Word) : (s.finishS d v).th = (s.th.setS d v).retire := by
  simp [State.finishS]
@[simp] theorem State.core_retire (s : State) (k : Nat) : s.retire.core k = s.core k := rfl
@[simp] theorem State.core_finishS (s : State) (d : Nat) (v : Word) (k : Nat) : (s.finishS d v).core k = s.core k := rfl
@[simp] theorem State.part_retire (s : State) (k : Nat) : s.retire.part k = s.part k := rfl
@[simp] theorem State.part_finishS (s : State) (d : Nat) (v : Word) (k : Nat) : (s.finishS d v).part k = s.part k := rfl

/-! ## Landing -/

/-- A landing marks lines of one core dirty; the rest of every core is as before. -/
theorem State.core_land (s : State) (k : Nat) (bs : List Byte) (j : Nat) :
    ∃ d, (s.land k bs).core j = { s.core j with dirty := d } := by
  unfold State.land State.markDirty
  split
  · by_cases h : j = coreOfKey k
    · subst h; exact ⟨_, State.core_setCore _ _ _⟩
    · refine ⟨(s.core j).dirty, ?_⟩
      rw [State.core_setCore_ne _ _ h]
      rfl
  · exact ⟨(s.core j).dirty, rfl⟩

/-- A landing can only end a WFE of a context. -/
theorem State.ctx_land (s : State) (k : Nat) (bs : List Byte) (j : Nat) :
    (s.land k bs).ctx j = wakeWfe (Memory.writeBytes s.mem k bs) k bs.length (s.ctx j) := by
  have h : ∀ t : State, t.ctxs = Tbl.mapVal (fun _ c => wakeWfe (Memory.writeBytes s.mem k bs) k bs.length c) s.ctxs →
      t.ctx j = wakeWfe (Memory.writeBytes s.mem k bs) k bs.length (s.ctx j) := by
    intro t ht
    unfold State.ctx
    rw [ht, Tbl.get_mapVal _ ({} : Ctx)]
    rfl
  apply h
  unfold State.land State.markDirty
  split <;> rfl

/-- The thread that lands its own bytes completes as it would have before. -/
theorem State.retire_th_land (s : State) (k : Nat) (bs : List Byte) : (s.land k bs).th.retire = s.th.retire := by
  have h : (s.land k bs).th = (wakeWfe (Memory.writeBytes s.mem k bs) k bs.length (s.ctx s.cur)).th := by
    unfold State.th State.thAt
    rw [State.land_cur, State.ctx_land]
  rw [h]
  unfold wakeWfe
  split
  · split <;> rfl
  · rfl

/-! ## Scalar registers (R274) -/

@[simp] theorem Thread.S_zero (t : Thread) : t.S 0 = 0 := rfl

@[simp] theorem Thread.setS_zero (t : Thread) (v : Word) : t.setS 0 v = t := rfl

theorem Thread.S_setS (t : Thread) (d r : Nat) (v : Word) :
    (t.setS d v).S r = if r = d ∧ d ≠ 0 then v else t.S r := by
  unfold Thread.setS Thread.S
  by_cases hd : d = 0
  · simp [hd]
  · by_cases hr : r = d
    · subst hr; simp [hd]
    · simp [hd, hr]

theorem Thread.token_setS (t : Thread) (d r : Nat) (v : Word) :
    (t.setS d v).token r = if r = d ∧ d ≠ 0 then .none else t.token r := by
  unfold Thread.setS Thread.token
  by_cases hd : d = 0
  · simp [hd]
  · by_cases hr : r = d
    · subst hr; simp [hd]
    · simp [hd, hr]

@[simp] theorem Thread.S_retireTo (t : Thread) (pc : Word) (r : Nat) : (t.retireTo pc).S r = t.S r := rfl
@[simp] theorem Thread.token_retireTo (t : Thread) (pc : Word) (r : Nat) : (t.retireTo pc).token r = t.token r := rfl
@[simp] theorem Thread.at_setS (t : Thread) (r : Nat) (v : Word) : (t.setS r v).at_ = t.at_ := by
  simp [Thread.at_]

end Sys2Proof.Machine
end

