-- ==== Sys2Proof/Laws/Landing.lean ====
section
/-!
SUPPORT. Sys2Proof/Laws/Landing.lean: everything that a write which lands at its owner can do (OnlyLands), for each of
the operations that land bytes.
-/

namespace Sys2Proof.Machine

open Sys2Proof

theorem OnlyLands.refl (s : State) : OnlyLands s s :=
  ⟨⟨_, _, _, _, _, rfl⟩, fun _ => ⟨_, rfl⟩, fun _ => ⟨rfl, _, rfl⟩⟩

theorem OnlyLands.trans {s t u : State} (h : OnlyLands s t) (g : OnlyLands t u) : OnlyLands s u := by
  obtain ⟨⟨_, _, _, _, _, hs⟩, hc, hx⟩ := h
  obtain ⟨⟨_, _, _, _, _, gs⟩, gc, gx⟩ := g
  refine ⟨⟨_, _, _, _, _, by rw [gs, hs]⟩, fun k => ?_, fun k => ?_⟩
  · obtain ⟨_, h1⟩ := hc k
    obtain ⟨_, h2⟩ := gc k
    exact ⟨_, by rw [h2, h1]⟩
  · obtain ⟨h1, _, h2⟩ := hx k
    obtain ⟨g1, _, g2⟩ := gx k
    exact ⟨g1.trans h1, _, by rw [g2, h2]⟩

/-- A wake by a landing write changes a context's wait alone. -/
theorem wakeWfe_only (m : List Host.Cell) (k n : Nat) (c : Ctx) :
    (wakeWfe m k n c).mode = c.mode ∧ ∃ w, (wakeWfe m k n c).th = { c.th with wait := w } := by
  unfold wakeWfe
  split
  · split
    · exact ⟨rfl, _, rfl⟩
    · exact ⟨rfl, _, rfl⟩
  · exact ⟨rfl, _, rfl⟩

/-- A landing write does nothing else. -/
theorem State.land_onlyLands (s : State) (k : Nat) (bs : List Byte) : OnlyLands s (s.land k bs) := by
  refine ⟨?_, fun j => ?_, fun j => ?_⟩
  · unfold State.land State.markDirty
    split
    · exact ⟨_, _, _, _, _, rfl⟩
    · exact ⟨_, _, _, _, _, rfl⟩
  · exact s.core_land k bs j
  · rw [State.thAt, State.ctx_land]
    exact wakeWfe_only _ _ _ _

theorem State.landLE_onlyLands (s : State) (k n x : Nat) : OnlyLands s (s.landLE k n x) := s.land_onlyLands _ _

theorem State.landTagged_onlyLands (s : State) (k : Nat) (bs : List Byte) (tag : Bool) :
    OnlyLands s (s.landTagged k bs tag) := by
  unfold State.landTagged
  split
  · exact (s.land_onlyLands k bs).trans ⟨⟨_, _, _, _, _, rfl⟩, fun _ => ⟨_, rfl⟩, fun _ => ⟨rfl, _, rfl⟩⟩
  · exact s.land_onlyLands k bs

end Sys2Proof.Machine
end

