-- ==== Sys2Proof/WellFormed.lean ====
section
/-!
DEFINITION. Sys2Proof/WellFormed.lean: the instructions and events that can be: a word passes its encoding checks
(R279, R296 step 4), and an event names agents that the package has (R13, R188, R255) and values of its kind.
-/

namespace Sys2Proof

/-- Do the numbers that an event carries name something? The numbers of jobs, messages, stores, launches, floes and
domains are the model's own. -/
def agentsOk : Instr → Bool
  | .cutMarker _ _ cls chip => decide (chip < 2 ^ 18 ∧ (cls = 0 ∨ cls = 1 ∨ cls = 3))
  | .uniformReport _ _ chip _ => decide (chip < 2 ^ 18)
  | .uniformGrant m _ _ _ => decide (m.chip < 2 ^ 18)
  | .frozen m _ => decide (m.chip < 2 ^ 18)
  | .broken m _ _ => decide (m.chip < 2 ^ 18)
  | .prepare m p => decide (p.action < 3 ∧ m.chip < 2 ^ 18)
  | .ready _ p chip _ => decide (p.action < 3 ∧ chip < 2 ^ 18)
  | .commit m p _ => decide (p.action < 3 ∧ m.chip < 2 ^ 18)
  | .ended m _ _ => decide (m.chip < 2 ^ 18)
  | .done m => decide (m.1.chip < 2 ^ 18)
  | .cutCompleteReport _ _ chip _ => decide (chip < 2 ^ 18)
  | .fallbackVoteArrival _ p chip => decide (p.action < 3 ∧ chip < 2 ^ 18)
  | .queueEntryFreed ctx => decide (ctx < 9216)
  | .mailboxAdvance core => decide (core < 2304)
  | .handlerFlakeStart ctx => decide (ctx < 9216)
  | .threadMessageArrival ctx => decide (ctx < 9216)
  | .atomicFlake core => decide (core < 2304)
  | .completionFlake ctx => decide (ctx < 9216)
  | .ratioNotice ctx => decide (ctx < 9216)
  | .runQueueTake core => decide (core < 2304)
  | .runQueueAging core => decide (core < 2304)
  | .impreciseTrap ctx => decide (ctx < 9216)
  | .loadDataReturn ctx => decide (ctx < 9216)
  | .kill ctx => decide (ctx < 9216)
  | .groupDirectoryApply part => decide (part < 32)
  | .qdead core => decide (core < 2304)
  | .barrierDeadline core off => decide (core < 2304 ∧ off ≤ 0x1FFE8)
  | .generationNotice cluster asid => decide (cluster < 96 ∧ asid < 65536)
  | .migrationBatch part => decide (part < 32)
  | .launchCheckDone win slot => decide (win < 96 ∧ slot < 64)
  | .spawnDistribute port => decide (port < 2)
  | .counterRotation part => decide (part < 32)
  | .pcSample ctx => decide (ctx < 9216)
  | .dieFence die => decide (die < 4)
  | .dieResetComplete die => decide (die < 4)
  | .peerDeclaredDown chip => decide (chip < 2 ^ 18)
  | .arbiterEvaluation part => decide (part < 32)
  | .transitionEnd part => decide (part < 32)
  | .ptpIntervalTimer port kind => decide (port < 34 ∧ (kind = 0x0 ∨ kind = 0x1 ∨ kind = 0xB))
  | .flakeOverrun core => decide (core < 2304)
  | .serviceFlakeTrap core _ _ => decide (core < 2304)
  | .atomicReply core _ => decide (core < 2304)
  | .preciseTrap ctx _ _ => decide (ctx < 9216)
  | .ringStall ctx _ => decide (ctx < 9216)
  | .pageWalk core _ part asid _ gen => decide (core < 2304 ∧ part < 32 ∧ asid < 65536 ∧ gen < 2 ^ 32)
  | .refreshWindowStart bank => decide (bank < 32)
  | .refreshWindowEnd bank => decide (bank < 32)
  | .launchArm win _ => decide (win < 96)
  | .prelaunch part _ => decide (part < 32)
  | .pwrshareWrite part _ => decide (part < 32)
  | .partcfg part _ _ => decide (part < 32)
  | .ctrsel part slot _ => decide (part < 32 ∧ slot < 8)
  | .sendlaunch part _ => decide (part < 32)
  | .bar4Access part _ _ _ => decide (part < 32)
  | .fabricLinkChange port _ => decide (port < 32)
  | .registerWrite part _ offset _ => decide (part < 32 ∧ offset < 0x10100 ∧ offset % 8 = 0)
  | .coefficientUpdate part _ _ _ _ _ => decide (part < 32)
  | .ptpSync port seqId _ _ _ => decide (port < 34 ∧ seqId < 65536)
  | .ptpFollowUp port seqId _ _ => decide (port < 34 ∧ seqId < 65536)
  | .ptpDelayReq port seqId _ _ => decide (port < 34 ∧ seqId < 65536)
  | .ptpDelayResp port seqId _ _ _ => decide (port < 34 ∧ seqId < 65536)
  | .ptpAnnounce port _ _ => decide (port < 34)
  | .fitnessExchange _ chip _ _ _ => decide (chip < 2 ^ 18)
  | .driftRequest _ chip _ loser parent => decide (chip < 2 ^ 18 ∧ loser < 65536 ∧ parent < 65536)
  | .driftReady _ _ loser _ => decide (loser < 65536)
  | .driftStream _ _ loser _ _ _ => decide (loser < 65536)
  | .launchWindowWrite win offset _ => decide (win < 96 ∧ offset < 0x10000 ∧ offset % 8 = 0)
  | .peerRequest chip kind part _ _ _ size _ _ _ => decide (chip < 2 ^ 18 ∧ kind ≤ 2 ∧ part < 32 ∧ (size = 1 ∨ size = 2 ∨ size = 4 ∨ size = 8))
  | .driftAcknowledgement _ _ loser _ _ => decide (loser < 65536)
  | .cxlLinkChange port _ => decide (port < 4)
  | _ => true

/-- An instruction or event that can be. -/
def Instr.wellFormed (i : Instr) : Bool := encodingOk i && agentsOk i

end Sys2Proof
end

