-- ==== Sys2Proof/Laws/PerInstr.lean ====
section
/-!
SUPPORT. Sys2Proof/Laws/PerInstr.lean: the per-instruction family Fits: the word that encodes an instruction fits in 32
bits. An event has no word.
-/

namespace Sys2Proof.Laws.Fits

open Sys2Proof

/-- The encoder gives no number of more than 32 bits. -/
def Statement (i : Instr) : Prop := ∀ w, encode i = some w → w < 2 ^ 32

theorem add (d : BitVec 5) (a : BitVec 5) (b : BitVec 5) : Statement (.add d a b) := by intro w h; cases h; simp only [put3]; omega
theorem sub (d : BitVec 5) (a : BitVec 5) (b : BitVec 5) : Statement (.sub d a b) := by intro w h; cases h; simp only [put3]; omega
theorem mul (d : BitVec 5) (a : BitVec 5) (b : BitVec 5) : Statement (.mul d a b) := by intro w h; cases h; simp only [put3]; omega
theorem mulh (d : BitVec 5) (a : BitVec 5) (b : BitVec 5) : Statement (.mulh d a b) := by intro w h; cases h; simp only [put3]; omega
theorem mulhu (d : BitVec 5) (a : BitVec 5) (b : BitVec 5) : Statement (.mulhu d a b) := by intro w h; cases h; simp only [put3]; omega
theorem div (d : BitVec 5) (a : BitVec 5) (b : BitVec 5) : Statement (.div d a b) := by intro w h; cases h; simp only [put3]; omega
theorem divu (d : BitVec 5) (a : BitVec 5) (b : BitVec 5) : Statement (.divu d a b) := by intro w h; cases h; simp only [put3]; omega
theorem rem (d : BitVec 5) (a : BitVec 5) (b : BitVec 5) : Statement (.rem d a b) := by intro w h; cases h; simp only [put3]; omega
theorem remu (d : BitVec 5) (a : BitVec 5) (b : BitVec 5) : Statement (.remu d a b) := by intro w h; cases h; simp only [put3]; omega
theorem and (d : BitVec 5) (a : BitVec 5) (b : BitVec 5) : Statement (.and d a b) := by intro w h; cases h; simp only [put3]; omega
theorem or (d : BitVec 5) (a : BitVec 5) (b : BitVec 5) : Statement (.or d a b) := by intro w h; cases h; simp only [put3]; omega
theorem xor (d : BitVec 5) (a : BitVec 5) (b : BitVec 5) : Statement (.xor d a b) := by intro w h; cases h; simp only [put3]; omega
theorem shl (d : BitVec 5) (a : BitVec 5) (b : BitVec 5) : Statement (.shl d a b) := by intro w h; cases h; simp only [put3]; omega
theorem shr (d : BitVec 5) (a : BitVec 5) (b : BitVec 5) : Statement (.shr d a b) := by intro w h; cases h; simp only [put3]; omega
theorem sra (d : BitVec 5) (a : BitVec 5) (b : BitVec 5) : Statement (.sra d a b) := by intro w h; cases h; simp only [put3]; omega
theorem slt (d : BitVec 5) (a : BitVec 5) (b : BitVec 5) : Statement (.slt d a b) := by intro w h; cases h; simp only [put3]; omega
theorem sltu (d : BitVec 5) (a : BitVec 5) (b : BitVec 5) : Statement (.sltu d a b) := by intro w h; cases h; simp only [put3]; omega
theorem min (d : BitVec 5) (a : BitVec 5) (b : BitVec 5) : Statement (.min d a b) := by intro w h; cases h; simp only [put3]; omega
theorem max (d : BitVec 5) (a : BitVec 5) (b : BitVec 5) : Statement (.max d a b) := by intro w h; cases h; simp only [put3]; omega
theorem minu (d : BitVec 5) (a : BitVec 5) (b : BitVec 5) : Statement (.minu d a b) := by intro w h; cases h; simp only [put3]; omega
theorem maxu (d : BitVec 5) (a : BitVec 5) (b : BitVec 5) : Statement (.maxu d a b) := by intro w h; cases h; simp only [put3]; omega
theorem clz (d : BitVec 5) (a : BitVec 5) : Statement (.clz d a) := by intro w h; cases h; simp only [put2]; omega
theorem popc (d : BitVec 5) (a : BitVec 5) : Statement (.popc d a) := by intro w h; cases h; simp only [put2]; omega
theorem sel (d : BitVec 5) (a : BitVec 5) (b : BitVec 5) (c : BitVec 5) : Statement (.sel d a b c) := by intro w h; cases h; simp only [put4]; omega
theorem bfx (d : BitVec 5) (a : BitVec 5) (w : BitVec 6) (p : BitVec 6) : Statement (.bfx d a w p) := by intro w h; cases h; simp only [put4]; omega
theorem bfi (d : BitVec 5) (a : BitVec 5) (w : BitVec 6) (p : BitVec 6) : Statement (.bfi d a w p) := by intro w h; cases h; simp only [put4]; omega
theorem addi (d : BitVec 5) (a : BitVec 5) (i : BitVec 14) : Statement (.addi d a i) := by intro w h; cases h; simp only [put3]; omega
theorem andi (d : BitVec 5) (a : BitVec 5) (i : BitVec 14) : Statement (.andi d a i) := by intro w h; cases h; simp only [put3]; omega
theorem ori (d : BitVec 5) (a : BitVec 5) (i : BitVec 14) : Statement (.ori d a i) := by intro w h; cases h; simp only [put3]; omega
theorem xori (d : BitVec 5) (a : BitVec 5) (i : BitVec 14) : Statement (.xori d a i) := by intro w h; cases h; simp only [put3]; omega
theorem shli (d : BitVec 5) (a : BitVec 5) (s : BitVec 6) : Statement (.shli d a s) := by intro w h; cases h; simp only [put3]; omega
theorem shri (d : BitVec 5) (a : BitVec 5) (s : BitVec 6) : Statement (.shri d a s) := by intro w h; cases h; simp only [put3]; omega
theorem srai (d : BitVec 5) (a : BitVec 5) (s : BitVec 6) : Statement (.srai d a s) := by intro w h; cases h; simp only [put3]; omega
theorem slti (d : BitVec 5) (a : BitVec 5) (i : BitVec 14) : Statement (.slti d a i) := by intro w h; cases h; simp only [put3]; omega
theorem sltiu (d : BitVec 5) (a : BitVec 5) (i : BitVec 14) : Statement (.sltiu d a i) := by intro w h; cases h; simp only [put3]; omega
theorem lih (d : BitVec 5) (i : BitVec 19) : Statement (.lih d i) := by intro w h; cases h; simp only [put2]; omega
theorem gadr (d : BitVec 5) (a : BitVec 5) (i : BitVec 14) : Statement (.gadr d a i) := by intro w h; cases h; simp only [put3]; omega
theorem ladr (d : BitVec 5) (a : BitVec 5) (i : BitVec 14) : Statement (.ladr d a i) := by intro w h; cases h; simp only [put3]; omega
theorem beq (a : BitVec 5) (b : BitVec 5) (i : BitVec 14) : Statement (.beq a b i) := by intro w h; cases h; simp only [put3]; omega
theorem bne (a : BitVec 5) (b : BitVec 5) (i : BitVec 14) : Statement (.bne a b i) := by intro w h; cases h; simp only [put3]; omega
theorem blt (a : BitVec 5) (b : BitVec 5) (i : BitVec 14) : Statement (.blt a b i) := by intro w h; cases h; simp only [put3]; omega
theorem bge (a : BitVec 5) (b : BitVec 5) (i : BitVec 14) : Statement (.bge a b i) := by intro w h; cases h; simp only [put3]; omega
theorem bltu (a : BitVec 5) (b : BitVec 5) (i : BitVec 14) : Statement (.bltu a b i) := by intro w h; cases h; simp only [put3]; omega
theorem bgeu (a : BitVec 5) (b : BitVec 5) (i : BitVec 14) : Statement (.bgeu a b i) := by intro w h; cases h; simp only [put3]; omega
theorem jal (d : BitVec 5) (i : BitVec 19) : Statement (.jal d i) := by intro w h; cases h; simp only [put2]; omega
theorem jalr (d : BitVec 5) (a : BitVec 5) (i : BitVec 14) : Statement (.jalr d a i) := by intro w h; cases h; simp only [put3]; omega
theorem wfe (d : BitVec 5) (a : BitVec 5) (b : BitVec 5) : Statement (.wfe d a b) := by intro w h; cases h; simp only [put3]; omega
theorem ldb (d : BitVec 5) (a : BitVec 5) (i : BitVec 14) : Statement (.ldb d a i) := by intro w h; cases h; simp only [put3]; omega
theorem ldbu (d : BitVec 5) (a : BitVec 5) (i : BitVec 14) : Statement (.ldbu d a i) := by intro w h; cases h; simp only [put3]; omega
theorem ldh (d : BitVec 5) (a : BitVec 5) (i : BitVec 14) : Statement (.ldh d a i) := by intro w h; cases h; simp only [put3]; omega
theorem ldhu (d : BitVec 5) (a : BitVec 5) (i : BitVec 14) : Statement (.ldhu d a i) := by intro w h; cases h; simp only [put3]; omega
theorem ldw (d : BitVec 5) (a : BitVec 5) (i : BitVec 14) : Statement (.ldw d a i) := by intro w h; cases h; simp only [put3]; omega
theorem ldwu (d : BitVec 5) (a : BitVec 5) (i : BitVec 14) : Statement (.ldwu d a i) := by intro w h; cases h; simp only [put3]; omega
theorem ldd (d : BitVec 5) (a : BitVec 5) (i : BitVec 14) : Statement (.ldd d a i) := by intro w h; cases h; simp only [put3]; omega
theorem ldacq (d : BitVec 5) (a : BitVec 5) (s : BitVec 2) (c : BitVec 3) : Statement (.ldacq d a s c) := by intro w h; cases h; simp only [put4]; omega
theorem stb (a : BitVec 5) (b : BitVec 5) (i : BitVec 14) : Statement (.stb a b i) := by intro w h; cases h; simp only [put3]; omega
theorem sth (a : BitVec 5) (b : BitVec 5) (i : BitVec 14) : Statement (.sth a b i) := by intro w h; cases h; simp only [put3]; omega
theorem stw (a : BitVec 5) (b : BitVec 5) (i : BitVec 14) : Statement (.stw a b i) := by intro w h; cases h; simp only [put3]; omega
theorem std (a : BitVec 5) (b : BitVec 5) (i : BitVec 14) : Statement (.std a b i) := by intro w h; cases h; simp only [put3]; omega
theorem strel (a : BitVec 5) (b : BitVec 5) (s : BitVec 2) (c : BitVec 3) : Statement (.strel a b s c) := by intro w h; cases h; simp only [put4]; omega
theorem fence (d : BitVec 5) (c : BitVec 3) : Statement (.fence d c) := by intro w h; cases h; simp only [put2]; omega
theorem fenceRel (d : BitVec 5) (c : BitVec 3) : Statement (.fenceRel d c) := by intro w h; cases h; simp only [put2]; omega
theorem fenceAcq (d : BitVec 5) (c : BitVec 3) : Statement (.fenceAcq d c) := by intro w h; cases h; simp only [put2]; omega
theorem atom (d : BitVec 5) (a : BitVec 5) (b : BitVec 5) (o : BitVec 4) (s : BitVec 2) (c : BitVec 3) : Statement (.atom d a b o s c) := by intro w h; cases h; simp only [put6]; omega
theorem atomCap (d : BitVec 5) (a : BitVec 5) (b : BitVec 5) (o : BitVec 4) (s : BitVec 2) : Statement (.atomCap d a b o s) := by intro w h; cases h; simp only [put5]; omega
theorem cas (d : BitVec 5) (a : BitVec 5) (b : BitVec 5) (s : BitVec 2) (c : BitVec 3) : Statement (.cas d a b s c) := by intro w h; cases h; simp only [put5]; omega
theorem casCap (d : BitVec 5) (a : BitVec 5) (b : BitVec 5) (s : BitVec 2) : Statement (.casCap d a b s) := by intro w h; cases h; simp only [put4]; omega
theorem ringenq (d : BitVec 5) (a : BitVec 5) (b : BitVec 5) : Statement (.ringenq d a b) := by intro w h; cases h; simp only [put3]; omega
theorem ringdeq (d : BitVec 5) (a : BitVec 5) : Statement (.ringdeq d a) := by intro w h; cases h; simp only [put2]; omega
theorem cld (d : BitVec 5) (a : BitVec 5) (i : BitVec 14) : Statement (.cld d a i) := by intro w h; cases h; simp only [put3]; omega
theorem cst (a : BitVec 5) (b : BitVec 5) (i : BitVec 14) : Statement (.cst a b i) := by intro w h; cases h; simp only [put3]; omega
theorem cbnd (d : BitVec 5) (a : BitVec 5) (b : BitVec 5) : Statement (.cbnd d a b) := by intro w h; cases h; simp only [put3]; omega
theorem cperm (d : BitVec 5) (a : BitVec 5) (b : BitVec 5) : Statement (.cperm d a b) := by intro w h; cases h; simp only [put3]; omega
theorem barinit (a : BitVec 5) (b : BitVec 5) : Statement (.barinit a b) := by intro w h; cases h; simp only [put2]; omega
theorem bararr (d : BitVec 5) (a : BitVec 5) : Statement (.bararr d a) := by intro w h; cases h; simp only [put2]; omega
theorem bardrop (d : BitVec 5) (a : BitVec 5) : Statement (.bardrop d a) := by intro w h; cases h; simp only [put2]; omega
theorem barjoin (d : BitVec 5) (a : BitVec 5) : Statement (.barjoin d a) := by intro w h; cases h; simp only [put2]; omega
theorem barwait (d : BitVec 5) (a : BitVec 5) (b : BitVec 5) : Statement (.barwait d a b) := by intro w h; cases h; simp only [put3]; omega
theorem gbarGroup (d : BitVec 5) (a : BitVec 5) : Statement (.gbarGroup d a) := by intro w h; cases h; simp only [put2]; omega
theorem gjoin (d : BitVec 5) (a : BitVec 5) : Statement (.gjoin d a) := by intro w h; cases h; simp only [put2]; omega
theorem gleave (d : BitVec 5) (a : BitVec 5) : Statement (.gleave d a) := by intro w h; cases h; simp only [put2]; omega
theorem gkill (d : BitVec 5) (a : BitVec 5) : Statement (.gkill d a) := by intro w h; cases h; simp only [put2]; omega
theorem send (a : BitVec 5) (b : BitVec 5) (n : BitVec 5) : Statement (.send a b n) := by intro w h; cases h; simp only [put3]; omega
theorem sendi (a : BitVec 5) (b : BitVec 5) : Statement (.sendi a b) := by intro w h; cases h; simp only [put2]; omega
theorem fwd (a : BitVec 5) (b : BitVec 5) (k : BitVec 4) (n : BitVec 5) : Statement (.fwd a b k n) := by intro w h; cases h; simp only [put4]; omega
theorem spawn (d : BitVec 5) (a : BitVec 5) (b : BitVec 5) (n : BitVec 5) : Statement (.spawn d a b n) := by intro w h; cases h; simp only [put4]; omega
theorem jcwait (d : BitVec 5) (a : BitVec 5) : Statement (.jcwait d a) := by intro w h; cases h; simp only [put2]; omega
theorem migrate (d : BitVec 5) (a : BitVec 5) (e : BitVec 1) : Statement (.migrate d a e) := by intro w h; cases h; simp only [put3]; omega
theorem qrd (d : BitVec 5) (a : BitVec 5) : Statement (.qrd d a) := by intro w h; cases h; simp only [put2]; omega
theorem qwr (d : BitVec 5) (a : BitVec 5) : Statement (.qwr d a) := by intro w h; cases h; simp only [put2]; omega
theorem qlen (d : BitVec 5) (a : BitVec 5) : Statement (.qlen d a) := by intro w h; cases h; simp only [put2]; omega
theorem cldd (d : BitVec 5) (a : BitVec 5) (i : BitVec 14) : Statement (.cldd d a i) := by intro w h; cases h; simp only [put3]; omega
theorem cstd (a : BitVec 5) (b : BitVec 5) (i : BitVec 14) : Statement (.cstd a b i) := by intro w h; cases h; simp only [put3]; omega
theorem srrd (d : BitVec 5) (n : BitVec 14) : Statement (.srrd d n) := by intro w h; cases h; simp only [put2]; omega
theorem srwr (a : BitVec 5) (n : BitVec 14) : Statement (.srwr a n) := by intro w h; cases h; simp only [put2]; omega
theorem srset (a : BitVec 5) (n : BitVec 14) : Statement (.srset a n) := by intro w h; cases h; simp only [put2]; omega
theorem srclr (a : BitVec 5) (n : BitVec 14) : Statement (.srclr a n) := by intro w h; cases h; simp only [put2]; omega
theorem svc (i : BitVec 14) : Statement (.svc i) := by intro w h; cases h; simp only [put1]; omega
theorem bkpt (i : BitVec 14) : Statement (.bkpt i) := by intro w h; cases h; simp only [put1]; omega
theorem tlbgen (d : BitVec 5) (a : BitVec 5) : Statement (.tlbgen d a) := by intro w h; cases h; simp only [put2]; omega
theorem ctxsave (d : BitVec 5) (a : BitVec 5) (b : BitVec 5) : Statement (.ctxsave d a b) := by intro w h; cases h; simp only [put3]; omega
theorem ctxload (d : BitVec 5) (a : BitVec 5) : Statement (.ctxload d a) := by intro w h; cases h; simp only [put2]; omega
theorem timerdTime (d : BitVec 5) : Statement (.timerdTime d) := by intro w h; cases h; simp only [put1]; omega
theorem timerdStatus (d : BitVec 5) : Statement (.timerdStatus d) := by intro w h; cases h; simp only [put1]; omega
theorem clkreq (a : BitVec 5) : Statement (.clkreq a) := by intro w h; cases h; simp only [put1]; omega
theorem pmrd (d : BitVec 5) (n : BitVec 14) : Statement (.pmrd d n) := by intro w h; cases h; simp only [put2]; omega
theorem rand (d : BitVec 5) : Statement (.rand d) := by intro w h; cases h; simp only [put1]; omega
theorem clkwait (d : BitVec 5) (a : BitVec 5) : Statement (.clkwait d a) := by intro w h; cases h; simp only [put2]; omega
theorem vclaim (d : BitVec 4) (a : BitVec 4) : Statement (.vclaim d a) := by intro w h; cases h; simp only [put2]; omega
theorem vsync (d : BitVec 4) : Statement (.vsync d) := by intro w h; cases h; simp only [put1]; omega
theorem vsetvl (d : BitVec 4) (a : BitVec 4) : Statement (.vsetvl d a) := by intro w h; cases h; simp only [put2]; omega
theorem vld (v : BitVec 5) (a : BitVec 5) (m : BitVec 3) (t : BitVec 3) (x : BitVec 3) : Statement (.vld v a m t x) := by intro w h; cases h; simp only [put5]; omega
theorem vlds (v : BitVec 5) (a : BitVec 5) (b : BitVec 5) (m : BitVec 3) (t : BitVec 3) (x : BitVec 3) : Statement (.vlds v a b m t x) := by intro w h; cases h; simp only [put6]; omega
theorem vldt (v : BitVec 1) (a : BitVec 5) (b : BitVec 5) (m : BitVec 3) (t : BitVec 3) (x : BitVec 3) : Statement (.vldt v a b m t x) := by intro w h; cases h; simp only [put6]; omega
theorem vgath (v : BitVec 5) (a : BitVec 5) (b : BitVec 4) (m : BitVec 3) (t : BitVec 3) (x : BitVec 3) : Statement (.vgath v a b m t x) := by intro w h; cases h; simp only [put6]; omega
theorem vst (v : BitVec 5) (a : BitVec 5) (m : BitVec 3) (t : BitVec 3) (x : BitVec 3) : Statement (.vst v a m t x) := by intro w h; cases h; simp only [put5]; omega
theorem vsts (v : BitVec 5) (a : BitVec 5) (b : BitVec 5) (m : BitVec 3) (t : BitVec 3) (x : BitVec 3) : Statement (.vsts v a b m t x) := by intro w h; cases h; simp only [put6]; omega
theorem vscat (v : BitVec 5) (a : BitVec 5) (b : BitVec 4) (m : BitVec 3) (t : BitVec 3) (x : BitVec 3) : Statement (.vscat v a b m t x) := by intro w h; cases h; simp only [put6]; omega
theorem vadd (v : BitVec 5) (a : BitVec 5) (b : BitVec 5) (m : BitVec 3) (t : BitVec 3) : Statement (.vadd v a b m t) := by intro w h; cases h; simp only [put5]; omega
theorem vsub (v : BitVec 5) (a : BitVec 5) (b : BitVec 5) (m : BitVec 3) (t : BitVec 3) : Statement (.vsub v a b m t) := by intro w h; cases h; simp only [put5]; omega
theorem vmul (v : BitVec 5) (a : BitVec 5) (b : BitVec 5) (m : BitVec 3) (t : BitVec 3) : Statement (.vmul v a b m t) := by intro w h; cases h; simp only [put5]; omega
theorem vfma (v : BitVec 5) (a : BitVec 5) (b : BitVec 5) (m : BitVec 3) (t : BitVec 3) : Statement (.vfma v a b m t) := by intro w h; cases h; simp only [put5]; omega
theorem vmax (v : BitVec 5) (a : BitVec 5) (b : BitVec 5) (m : BitVec 3) (t : BitVec 3) : Statement (.vmax v a b m t) := by intro w h; cases h; simp only [put5]; omega
theorem vmin (v : BitVec 5) (a : BitVec 5) (b : BitVec 5) (m : BitVec 3) (t : BitVec 3) : Statement (.vmin v a b m t) := by intro w h; cases h; simp only [put5]; omega
theorem vabs (v : BitVec 5) (a : BitVec 5) (m : BitVec 3) (t : BitVec 3) : Statement (.vabs v a m t) := by intro w h; cases h; simp only [put4]; omega
theorem vneg (v : BitVec 5) (a : BitVec 5) (m : BitVec 3) (t : BitVec 3) : Statement (.vneg v a m t) := by intro w h; cases h; simp only [put4]; omega
theorem vcvt (v : BitVec 5) (a : BitVec 5) (b : BitVec 5) (m : BitVec 3) (t : BitVec 3) (x : BitVec 3) : Statement (.vcvt v a b m t x) := by intro w h; cases h; simp only [put6]; omega
theorem vcmp (d : BitVec 3) (a : BitVec 5) (b : BitVec 5) (m : BitVec 3) (t : BitVec 3) (x : BitVec 3) : Statement (.vcmp d a b m t x) := by intro w h; cases h; simp only [put6]; omega
theorem vselm (v : BitVec 5) (a : BitVec 5) (b : BitVec 5) (m : BitVec 3) : Statement (.vselm v a b m) := by intro w h; cases h; simp only [put4]; omega
theorem vredsum (v : BitVec 5) (a : BitVec 5) (m : BitVec 3) (t : BitVec 3) : Statement (.vredsum v a m t) := by intro w h; cases h; simp only [put4]; omega
theorem vredmax (v : BitVec 5) (a : BitVec 5) (m : BitVec 3) (t : BitVec 3) : Statement (.vredmax v a m t) := by intro w h; cases h; simp only [put4]; omega
theorem vexp2 (v : BitVec 5) (a : BitVec 5) (m : BitVec 3) (t : BitVec 3) : Statement (.vexp2 v a m t) := by intro w h; cases h; simp only [put4]; omega
theorem vlog2 (v : BitVec 5) (a : BitVec 5) (m : BitVec 3) (t : BitVec 3) : Statement (.vlog2 v a m t) := by intro w h; cases h; simp only [put4]; omega
theorem vrcp (v : BitVec 5) (a : BitVec 5) (m : BitVec 3) (t : BitVec 3) : Statement (.vrcp v a m t) := by intro w h; cases h; simp only [put4]; omega
theorem vrsq (v : BitVec 5) (a : BitVec 5) (m : BitVec 3) (t : BitVec 3) : Statement (.vrsq v a m t) := by intro w h; cases h; simp only [put4]; omega
theorem vtanh (v : BitVec 5) (a : BitVec 5) (m : BitVec 3) (t : BitVec 3) : Statement (.vtanh v a m t) := by intro w h; cases h; simp only [put4]; omega
theorem vbcast (v : BitVec 4) (a : BitVec 5) (b : BitVec 4) (m : BitVec 3) : Statement (.vbcast v a b m) := by intro w h; cases h; simp only [put4]; omega
theorem vext (d : BitVec 4) (a : BitVec 4) (b : BitVec 4) : Statement (.vext d a b) := by intro w h; cases h; simp only [put3]; omega
theorem vins (v : BitVec 4) (a : BitVec 4) (b : BitVec 4) : Statement (.vins v a b) := by intro w h; cases h; simp only [put3]; omega
theorem vperm (v : BitVec 4) (a : BitVec 4) (b : BitVec 4) (m : BitVec 3) : Statement (.vperm v a b m) := by intro w h; cases h; simp only [put4]; omega
theorem vxall (v : BitVec 4) (a : BitVec 4) : Statement (.vxall v a) := by intro w h; cases h; simp only [put2]; omega
theorem vand (v : BitVec 5) (a : BitVec 5) (b : BitVec 5) (m : BitVec 3) (t : BitVec 3) : Statement (.vand v a b m t) := by intro w h; cases h; simp only [put5]; omega
theorem vor (v : BitVec 5) (a : BitVec 5) (b : BitVec 5) (m : BitVec 3) (t : BitVec 3) : Statement (.vor v a b m t) := by intro w h; cases h; simp only [put5]; omega
theorem vxor (v : BitVec 5) (a : BitVec 5) (b : BitVec 5) (m : BitVec 3) (t : BitVec 3) : Statement (.vxor v a b m t) := by intro w h; cases h; simp only [put5]; omega
theorem vshl (v : BitVec 5) (a : BitVec 5) (b : BitVec 5) (m : BitVec 3) (t : BitVec 3) : Statement (.vshl v a b m t) := by intro w h; cases h; simp only [put5]; omega
theorem vshr (v : BitVec 5) (a : BitVec 5) (b : BitVec 5) (m : BitVec 3) (t : BitVec 3) (x : BitVec 1) : Statement (.vshr v a b m t x) := by intro w h; cases h; simp only [put6]; omega
theorem viota (v : BitVec 5) (m : BitVec 3) (t : BitVec 3) : Statement (.viota v m t) := by intro w h; cases h; simp only [put3]; omega
theorem mops (d : BitVec 3) (a : BitVec 3) (b : BitVec 3) (x : BitVec 3) : Statement (.mops d a b x) := by intro w h; cases h; simp only [put4]; omega
theorem mpop (d : BitVec 4) (a : BitVec 3) (m : BitVec 3) (x : BitVec 3) : Statement (.mpop d a m x) := by intro w h; cases h; simp only [put4]; omega
theorem vldexp (v : BitVec 5) (a : BitVec 5) (b : BitVec 5) (m : BitVec 3) (t : BitVec 3) : Statement (.vldexp v a b m t) := by intro w h; cases h; simp only [put5]; omega
theorem job (d : BitVec 5) (a : BitVec 5) (n : BitVec 1) : Statement (.job d a n) := by intro w h; cases h; simp only [put3]; omega
theorem jobm (d : BitVec 5) (a : BitVec 5) (b : BitVec 5) (n : BitVec 1) : Statement (.jobm d a b n) := by intro w h; cases h; simp only [put4]; omega
theorem jobtest (d : BitVec 5) (a : BitVec 5) : Statement (.jobtest d a) := by intro w h; cases h; simp only [put2]; omega
theorem gissue (d : BitVec 5) (a : BitVec 5) : Statement (.gissue d a) := by intro w h; cases h; simp only [put2]; omega
theorem tswap (a : BitVec 5) (b : BitVec 5) : Statement (.tswap a b) := by intro w h; cases h; simp only [put2]; omega
theorem accrd (v : BitVec 4) (n : BitVec 1) (q : BitVec 4) (m : BitVec 3) : Statement (.accrd v n q m) := by intro w h; cases h; simp only [put4]; omega
theorem accwr (n : BitVec 1) (a : BitVec 4) (q : BitVec 4) (m : BitVec 3) : Statement (.accwr n a q m) := by intro w h; cases h; simp only [put4]; omega
theorem imx (i : BitVec 24) : Statement (.imx i) := by intro w h; cases h; simp only [put1]; omega
theorem unassignedOpcode (w : BitVec 32) : Statement (.unassignedOpcode w) := by intro w h; cases h; omega
theorem cutMarker (floe : Nat) (epoch : Nat) (cls : Nat) (chip : Nat) : Statement (.cutMarker floe epoch cls chip) := by intro w h; cases h
theorem uniformReport (floe : Nat) (epoch : Nat) (chip : Nat) (codes : BitVec 16) : Statement (.uniformReport floe epoch chip codes) := by intro w h; cases h
theorem uniformGrant (message : FloeFrom) (epoch : Nat) (codes : BitVec 16) (instant : Nat) : Statement (.uniformGrant message epoch codes instant) := by intro w h; cases h
theorem frozen (message : FloeFrom) (epoch : Nat) : Statement (.frozen message epoch) := by intro w h; cases h
theorem broken (message : FloeFrom) (epoch : Nat) (member : Nat) : Statement (.broken message epoch member) := by intro w h; cases h
theorem prepare (message : FloeFrom) (phase : FloePhase) : Statement (.prepare message phase) := by intro w h; cases h
theorem ready (floe : Nat) (phase : FloePhase) (chip : Nat) (acted : Bool) : Statement (.ready floe phase chip acted) := by intro w h; cases h
theorem commit (message : FloeFrom) (phase : FloePhase) (time : Nat) : Statement (.commit message phase time) := by intro w h; cases h
theorem ended (message : FloeFrom) (epoch : Nat) (time : Nat) : Statement (.ended message epoch time) := by intro w h; cases h
theorem done (message : FloeFrom × Nat) : Statement (.done message) := by intro w h; cases h
theorem cutCompleteReport (floe : Nat) (epoch : Nat) (chip : Nat) (time : Nat) : Statement (.cutCompleteReport floe epoch chip time) := by intro w h; cases h
theorem fallbackVoteArrival (floe : Nat) (phase : FloePhase) (chip : Nat) : Statement (.fallbackVoteArrival floe phase chip) := by intro w h; cases h
theorem mma (job : Nat) : Statement (.mma job) := by intro w h; cases h
theorem mmat (job : Nat) : Statement (.mmat job) := by intro w h; cases h
theorem accz (job : Nat) : Statement (.accz job) := by intro w h; cases h
theorem acccvt (job : Nat) : Statement (.acccvt job) := by intro w h; cases h
theorem accld (job : Nat) : Statement (.accld job) := by intro w h; cases h
theorem wbfill (job : Nat) : Statement (.wbfill job) := by intro w h; cases h
theorem copy (job : Nat) : Statement (.copy job) := by intro w h; cases h
theorem copy2d (job : Nat) : Statement (.copy2d job) := by intro w h; cases h
theorem deal (job : Nat) : Statement (.deal job) := by intro w h; cases h
theorem gathb (job : Nat) : Statement (.gathb job) := by intro w h; cases h
theorem redw (job : Nat) : Statement (.redw job) := by intro w h; cases h
theorem fill (job : Nat) : Statement (.fill job) := by intro w h; cases h
theorem selround (job : Nat) : Statement (.selround job) := by intro w h; cases h
theorem calve (job : Nat) : Statement (.calve job) := by intro w h; cases h
theorem drift (job : Nat) : Statement (.drift job) := by intro w h; cases h
theorem moraineSet (job : Nat) : Statement (.moraineSet job) := by intro w h; cases h
theorem moraineFlush (job : Nat) : Statement (.moraineFlush job) := by intro w h; cases h
theorem unassignedEngineOpcode (job : Nat) : Statement (.unassignedEngineOpcode job) := by intro w h; cases h
theorem jobCompletion (job : Nat) : Statement (.jobCompletion job) := by intro w h; cases h
theorem matrixJobBegin (job : Nat) : Statement (.matrixJobBegin job) := by intro w h; cases h
theorem copyJobBegin (job : Nat) : Statement (.copyJobBegin job) := by intro w h; cases h
theorem queueEntryFreed (ctx : Nat) : Statement (.queueEntryFreed ctx) := by intro w h; cases h
theorem mailboxAdvance (core : Nat) : Statement (.mailboxAdvance core) := by intro w h; cases h
theorem messageArrival (msg : Nat) : Statement (.messageArrival msg) := by intro w h; cases h
theorem meshHop (msg : Nat) : Statement (.meshHop msg) := by intro w h; cases h
theorem handlerFlakeStart (ctx : Nat) : Statement (.handlerFlakeStart ctx) := by intro w h; cases h
theorem threadMessageArrival (ctx : Nat) : Statement (.threadMessageArrival ctx) := by intro w h; cases h
theorem atomicFlake (core : Nat) : Statement (.atomicFlake core) := by intro w h; cases h
theorem completionFlake (ctx : Nat) : Statement (.completionFlake ctx) := by intro w h; cases h
theorem ratioNotice (ctx : Nat) : Statement (.ratioNotice ctx) := by intro w h; cases h
theorem runQueueTake (core : Nat) : Statement (.runQueueTake core) := by intro w h; cases h
theorem runQueueAging (core : Nat) : Statement (.runQueueAging core) := by intro w h; cases h
theorem postedStoreAck (store : Nat) : Statement (.postedStoreAck store) := by intro w h; cases h
theorem storeReject (store : Nat) (reason : BitVec 5) : Statement (.storeReject store reason) := by intro w h; cases h
theorem impreciseTrap (ctx : Nat) : Statement (.impreciseTrap ctx) := by intro w h; cases h
theorem loadDataReturn (ctx : Nat) : Statement (.loadDataReturn ctx) := by intro w h; cases h
theorem kill (ctx : Nat) : Statement (.kill ctx) := by intro w h; cases h
theorem groupDirectoryApply (part : Nat) : Statement (.groupDirectoryApply part) := by intro w h; cases h
theorem qdead (core : Nat) : Statement (.qdead core) := by intro w h; cases h
theorem barrierDeadline (core : Nat) (off : Nat) : Statement (.barrierDeadline core off) := by intro w h; cases h
theorem generationNotice (cluster : Nat) (asid : Nat) : Statement (.generationNotice cluster asid) := by intro w h; cases h
theorem glacierWriteReject (store : Nat) : Statement (.glacierWriteReject store) := by intro w h; cases h
theorem migrationBatch (part : Nat) : Statement (.migrationBatch part) := by intro w h; cases h
theorem launchCheckDone (win : Nat) (slot : Nat) : Statement (.launchCheckDone win slot) := by intro w h; cases h
theorem launchCounterPoll (launch : Nat) : Statement (.launchCounterPoll launch) := by intro w h; cases h
theorem launchLeaveWaiting (launch : Nat) : Statement (.launchLeaveWaiting launch) := by intro w h; cases h
theorem spawnDistribute (port : Nat) : Statement (.spawnDistribute port) := by intro w h; cases h
theorem launchEnd (launch : Nat) : Statement (.launchEnd launch) := by intro w h; cases h
theorem resumeRestore (launch : Nat) : Statement (.resumeRestore launch) := by intro w h; cases h
theorem preemptionComplete (launch : Nat) : Statement (.preemptionComplete launch) := by intro w h; cases h
theorem counterRotation (part : Nat) : Statement (.counterRotation part) := by intro w h; cases h
theorem refreshWindowEnd (bank : Nat) : Statement (.refreshWindowEnd bank) := by intro w h; cases h
theorem dieFence (die : Nat) : Statement (.dieFence die) := by intro w h; cases h
theorem dieResetComplete (die : Nat) : Statement (.dieResetComplete die) := by intro w h; cases h
theorem peerDeclaredDown (chip : Nat) : Statement (.peerDeclaredDown chip) := by intro w h; cases h
theorem arbiterEvaluation (part : Nat) : Statement (.arbiterEvaluation part) := by intro w h; cases h
theorem transitionEnd (part : Nat) : Statement (.transitionEnd part) := by intro w h; cases h
theorem uniformMinimum (floe : Nat) : Statement (.uniformMinimum floe) := by intro w h; cases h
theorem uniformApply (floe : Nat) : Statement (.uniformApply floe) := by intro w h; cases h
theorem floeAction (floe : Nat) : Statement (.floeAction floe) := by intro w h; cases h
theorem floeCut (floe : Nat) : Statement (.floeCut floe) := by intro w h; cases h
theorem cutComplete (floe : Nat) : Statement (.cutComplete floe) := by intro w h; cases h
theorem straggler (floe : Nat) : Statement (.straggler floe) := by intro w h; cases h
theorem fallbackVote (floe : Nat) : Statement (.fallbackVote floe) := by intro w h; cases h
theorem ptpIntervalTimer (port : Nat) (kind : Nat) : Statement (.ptpIntervalTimer port kind) := by intro w h; cases h
theorem selectionTimer (domain : Nat) : Statement (.selectionTimer domain) := by intro w h; cases h
theorem selectionRound (domain : Nat) : Statement (.selectionRound domain) := by intro w h; cases h
theorem moraineRingSpace (domain : Nat) : Statement (.moraineRingSpace domain) := by intro w h; cases h
theorem postedStoreLanding (store : Nat) : Statement (.postedStoreLanding store) := by intro w h; cases h
theorem yield : Statement .yield := by intro w h; cases h; decide
theorem fin : Statement .fin := by intro w h; cases h; decide
theorem drain : Statement .drain := by intro w h; cases h; decide
theorem gbarWired : Statement .gbarWired := by intro w h; cases h; decide
theorem tret : Statement .tret := by intro w h; cases h; decide
theorem gendrainCl : Statement .gendrainCl := by intro w h; cases h; decide
theorem gendrainPk : Statement .gendrainPk := by intro w h; cases h; decide
theorem vrel : Statement .vrel := by intro w h; cases h; decide
theorem flakeOverrun (core : Nat) : Statement (.flakeOverrun core) := by intro w h; cases h
theorem serviceFlakeTrap (core : Nat) (cause : BitVec 8) (addr : BitVec 64) : Statement (.serviceFlakeTrap core cause addr) := by intro w h; cases h
theorem atomicReply (core : Nat) (msg : Nat) : Statement (.atomicReply core msg) := by intro w h; cases h
theorem preciseTrap (ctx : Nat) (code : BitVec 8) (addr : BitVec 64) : Statement (.preciseTrap ctx code addr) := by intro w h; cases h
theorem joinCounterDecrement : Statement .joinCounterDecrement := by intro w h; cases h
theorem ringStall (ctx : Nat) (addr : BitVec 64) : Statement (.ringStall ctx addr) := by intro w h; cases h
theorem pageWalk (core : Nat) (fetch : Bool) (part : Nat) (asid : Nat) (va : BitVec 64) (gen : Nat) : Statement (.pageWalk core fetch part asid va gen) := by intro w h; cases h
theorem refreshWindowStart (bank : Nat) : Statement (.refreshWindowStart bank) := by intro w h; cases h
theorem pcSample (ctx : Nat) : Statement (.pcSample ctx) := by intro w h; cases h
theorem launchArm (win : Nat) (value : BitVec 64) : Statement (.launchArm win value) := by intro w h; cases h
theorem prelaunch (part : Nat) (value : BitVec 64) : Statement (.prelaunch part value) := by intro w h; cases h
theorem pwrcap (value : BitVec 64) : Statement (.pwrcap value) := by intro w h; cases h
theorem pwrshareWrite (part : Nat) (value : BitVec 64) : Statement (.pwrshareWrite part value) := by intro w h; cases h
theorem partcfg (part : Nat) (hiHalf : Bool) (value : BitVec 64) : Statement (.partcfg part hiHalf value) := by intro w h; cases h
theorem ctrsel (part : Nat) (slot : Nat) (value : BitVec 64) : Statement (.ctrsel part slot value) := by intro w h; cases h
theorem sendlaunch (part : Nat) (value : BitVec 64) : Statement (.sendlaunch part value) := by intro w h; cases h
theorem bar4Access (part : Nat) (offset : Nat) (write : Option (List (BitVec 8))) (len : Nat) : Statement (.bar4Access part offset write len) := by intro w h; cases h
theorem dierst (value : BitVec 64) : Statement (.dierst value) := by intro w h; cases h
theorem peerclr (value : BitVec 64) : Statement (.peerclr value) := by intro w h; cases h
theorem fabricLinkChange (port : Nat) (up : Bool) : Statement (.fabricLinkChange port up) := by intro w h; cases h
theorem attreq (value : BitVec 64) : Statement (.attreq value) := by intro w h; cases h
theorem attestationDone : Statement .attestationDone := by intro w h; cases h
theorem alarmlogRead : Statement .alarmlogRead := by intro w h; cases h
theorem securityAlarm (source : BitVec 2) : Statement (.securityAlarm source) := by intro w h; cases h
theorem boot (signatureOk : Bool) (version : Nat) : Statement (.boot signatureOk version) := by intro w h; cases h
theorem registerWrite (part : Nat) (pf : Bool) (offset : Nat) (value : BitVec 64) : Statement (.registerWrite part pf offset value) := by intro w h; cases h
theorem coefficientUpdate (part : Nat) (cM : Nat) (cV : Nat) (cN : Nat) (cB : Nat) (cS : Nat) : Statement (.coefficientUpdate part cM cV cN cB cS) := by intro w h; cases h
theorem ptpSync (port : Nat) (seqId : Nat) (twoStep : Bool) (correction : Int) (origin : Nat) : Statement (.ptpSync port seqId twoStep correction origin) := by intro w h; cases h
theorem ptpFollowUp (port : Nat) (seqId : Nat) (correction : Int) (origin : Nat) : Statement (.ptpFollowUp port seqId correction origin) := by intro w h; cases h
theorem ptpDelayReq (port : Nat) (seqId : Nat) (correction : Int) (requester : Nat) : Statement (.ptpDelayReq port seqId correction requester) := by intro w h; cases h
theorem ptpDelayResp (port : Nat) (seqId : Nat) (correction : Int) (receive : Nat) (requester : Nat) : Statement (.ptpDelayResp port seqId correction receive requester) := by intro w h; cases h
theorem ptpAnnounce (port : Nat) (quality : BitVec 64) (grandmaster : BitVec 64) : Statement (.ptpAnnounce port quality grandmaster) := by intro w h; cases h
theorem syncTimeout : Statement .syncTimeout := by intro w h; cases h
theorem holdoverTick : Statement .holdoverTick := by intro w h; cases h
theorem timeUnitFailover : Statement .timeUnitFailover := by intro w h; cases h
theorem fitnessExchange (domainId : Nat) (chip : Nat) (round : BitVec 64) (fitness : List (Nat × BitVec 32)) (registered : Bool) : Statement (.fitnessExchange domainId chip round fitness registered) := by intro w h; cases h
theorem driftRequest (domainId : Nat) (chip : Nat) (round : BitVec 64) (loser : Nat) (parent : Nat) : Statement (.driftRequest domainId chip round loser parent) := by intro w h; cases h
theorem driftReady (domainId : Nat) (round : BitVec 64) (loser : Nat) (ready : Bool) : Statement (.driftReady domainId round loser ready) := by intro w h; cases h
theorem driftStream (domainId : Nat) (round : BitVec 64) (loser : Nat) (bytes : List (BitVec 8)) (parentFit : BitVec 32) (parentStatus : BitVec 8) : Statement (.driftStream domainId round loser bytes parentFit parentStatus) := by intro w h; cases h
theorem launchWindowWrite (win : Nat) (offset : Nat) (value : BitVec 64) : Statement (.launchWindowWrite win offset value) := by intro w h; cases h
theorem imageDiscard (launch : Nat) : Statement (.imageDiscard launch) := by intro w h; cases h
theorem peerRequest (chip : Nat) (kind : Nat) (part : Nat) (asid : BitVec 16) (sup : Bool) (addr : BitVec 64) (size : Nat) (op : Nat) (data : BitVec 64) (data2 : BitVec 64) : Statement (.peerRequest chip kind part asid sup addr size op data data2) := by intro w h; cases h
theorem driftAcknowledgement (domainId : Nat) (round : BitVec 64) (loser : Nat) (status : BitVec 8) (bytes : Nat) : Statement (.driftAcknowledgement domainId round loser status bytes) := by intro w h; cases h
theorem cxlLinkChange (port : Nat) (up : Bool) : Statement (.cxlLinkChange port up) := by intro w h; cases h

end Sys2Proof.Laws.Fits
end

