-- ==== Sys2Proof/Laws/Shared.lean ====
section
/-!
SUPPORT. Sys2Proof/Laws/Shared.lean: what each shared operation of the meanings can do, said once: operands that may be
tokens, completion, sleeping, taking a trap, releases, and the encoding and privilege checks.
-/

namespace Sys2Proof.Machine

open Sys2Proof

/-! ## Operands -/

theorem TokenFree.pending {s : State} {rs : List Nat} (h : TokenFree s rs) : s.th.firstPending rs = none := by
  unfold Thread.firstPending
  rw [List.find?_eq_none]
  intro r hr
  simp [Thread.pending, h.1 r hr]

theorem TokenFree.unread {s : State} {rs : List Nat} (h : TokenFree s rs) : rs.any s.th.unread = false := by
  rw [List.any_eq_false]
  intro r hr
  simp [Thread.unread, h.1 r hr]

theorem TokenFree.left {s : State} {xs ys : List Nat} (h : TokenFree s (xs ++ ys)) : TokenFree s xs :=
  ⟨fun r hr => h.1 r (List.mem_append_left _ hr), h.2⟩

/-- Registers without tokens are read as they stand. -/
theorem State.consumeTokens_of_free {s : State} {rs : List Nat} (h : TokenFree s rs) : s.consumeTokens rs = s := by
  simp [State.consumeTokens, h.unread, h.2]

/-- An instruction whose registers hold no token runs its body at once. -/
theorem State.withRegs_of_free {s : State} {reads writes : List Nat} (body : State → State)
    (h : TokenFree s (reads ++ writes)) : s.withRegs reads writes body = body s := by
  unfold State.withRegs
  rw [h.pending]
  have hf : reads.find? s.th.failedToken = none := by
    rw [List.find?_eq_none]
    intro r hr
    simp [Thread.failedToken, Thread.unread, h.1 r (List.mem_append_left _ hr)]
  simp only [hf, State.consumeTokens_of_free h.left]

/-- The whole of what reading operands can do: sleep on a pending token, trap JOB_FAULT on a failed one, or run the
body with the tokens read. -/
theorem State.withRegs_cases (s : State) (reads writes : List Nat) (body : State → State) :
    (∃ r, s.th.firstPending (reads ++ writes) = some r ∧ s.withRegs reads writes body = s.sleep (.token r)) ∨
    (∃ r, reads.find? s.th.failedToken = some r ∧
      s.withRegs reads writes body = (s.consumeTokens [r]).readFault (s.th.tokenAddr r)) ∨
    s.withRegs reads writes body = body (s.consumeTokens reads) := by
  unfold State.withRegs
  cases hp : s.th.firstPending (reads ++ writes) with
  | some r => exact .inl ⟨r, rfl, rfl⟩
  | none =>
    cases hf : reads.find? s.th.failedToken with
    | some r => exact .inr (.inl ⟨r, rfl, rfl⟩)
    | none => exact .inr (.inr rfl)

/-! ## Checks -/

theorem State.checked_ok {s : State} {i : Instr} (body : State → State) (h : encodingOk i = true) :
    s.checked i body = body s := by simp [State.checked, h]

theorem State.checked_bad {s : State} {i : Instr} (body : State → State) (h : encodingOk i = false) :
    s.checked i body = s.illegal := by simp [State.checked, h]

theorem State.supervisor_ok {s : State} (body : State → State) (h : s.th.lev = true) : s.supervisor body = body s := by
  simp [State.supervisor, h]

theorem State.supervisor_user {s : State} (body : State → State) (h : s.th.lev = false) :
    s.supervisor body = s.trap Cause.priv 0 := by simp [State.supervisor, h]

theorem State.whenReleased_settled {s : State} (sys : Bool) (body : State → State) (h : s.unacked sys = false) :
    s.whenReleased sys body = body s := by simp [State.whenReleased, h]

/-! ## Completion -/

/-- Writing one register and completing is an outcome of that register alone. -/
theorem ScalarOutcome.finishS (s : State) (d : Nat) (v : Word) :
    ScalarOutcome s (s.finishS d v) [(d, v)] (following s) := by
  refine ⟨?_, ?_, ?_⟩
  · intro r
    simp only [State.finishS, State.th_setTh, Thread.retire, Thread.S_retireTo, Thread.S_setS]
    by_cases hr : r = 0
    · subst hr
      rw [if_neg (fun h => h.2 h.1.symm)]
      simp
    · by_cases hd : r = d
      · subst hd; simp [hr, Tbl.look?]
      · simp [hr, hd, Tbl.look?]
  · intro r hr
    simp only [Tbl.look?] at hr
    have hd : r ≠ d := by intro h; simp [h] at hr
    simp [State.finishS, Thread.retire, Thread.token_setS, hd]
  · refine ⟨(s.th.setS d v).s, (s.th.setS d v).tok, (s.th.setS d v).dirty, ?_⟩
    unfold State.finishS Thread.retire Thread.retireTo Thread.setS following
    by_cases hd : d = 0
    · simp [hd]
    · simp [hd, Thread.at_]

/-- Completing without a write. -/
theorem ScalarOutcome.retireTo (s : State) (pc : Word) : ScalarOutcome s (s.setTh (s.th.retireTo pc)) [] pc := by
  refine ⟨?_, ?_, ⟨s.th.s, s.th.tok, s.th.dirty, rfl⟩⟩
  · intro r
    by_cases hr : r = 0
    · subst hr; simp
    · simp [hr, Tbl.look?]
  · intro r _; simp

theorem ScalarOutcome.retire (s : State) : ScalarOutcome s s.retire [] (following s) := ScalarOutcome.retireTo s _

/-- A write of one register and a jump. -/
theorem ScalarOutcome.jump (s : State) (d : Nat) (pc : Word) : ScalarOutcome s (s.jump d pc) [(d, following s)] pc := by
  refine ⟨?_, ?_, ?_⟩
  · intro r
    simp only [State.jump, State.th_setTh, Thread.S_retireTo, Thread.S_setS]
    by_cases hr : r = 0
    · subst hr
      rw [if_neg (fun h => h.2 h.1.symm)]
      simp
    · by_cases hd : r = d
      · subst hd; simp [hr, Tbl.look?, following]
      · simp [hr, hd, Tbl.look?]
  · intro r hr
    simp only [Tbl.look?] at hr
    have hd : r ≠ d := by intro h; simp [h] at hr
    simp [State.jump, Thread.token_setS, hd]
  · refine ⟨(s.th.setS d (s.th.at_ + 4)).s, (s.th.setS d (s.th.at_ + 4)).tok, (s.th.setS d (s.th.at_ + 4)).dirty, ?_⟩
    unfold State.jump Thread.retireTo Thread.setS
    by_cases hd : d = 0 <;> simp [hd]

/-! ## Sleeping and traps -/

@[simp] theorem State.thAt_undone (s : State) (k : Nat) : s.undone.thAt k = s.thAt k := by
  simp [State.thAt, State.ctx]
@[simp] theorem State.th_undone (s : State) : s.undone.th = s.th := by simp [State.th, State.thAt, State.ctx]

/-- An instruction that has acquired nothing has nothing to put back. -/
theorem State.undone_of_none {s : State} (h : s.undo = none) : s.undone = s := by simp [State.undone, h]

/-- A precise trap of a thread with no handler running and a vector enters the handler (R233). -/
theorem State.trap_enters {s : State} {code : BitVec 8} {addr : Word} (hf : s.th.flake = none) (hn : s.th.nest = false)
    (hv : s.vector s.th.asid ≠ 0) :
    s.trap code addr = s.undone.setTh (s.th.enterTrap (s.vector s.th.asid) code addr s.th.pc false false) := by
  have e : s.thAt s.cur = s.th := rfl
  simp only [State.trap, State.trapAt, State.takeTrap, State.thAt_undone, e, hf, State.vector, State.undone_tvec]
  rw [if_neg (by simpa [hn, State.vector] using hv)]
  simp [State.setTh]

/-- A trap under a handler, or without a vector, ends the thread as failed (R233, R236). -/
theorem State.trap_ends {s : State} {code : BitVec 8} {addr : Word} (hf : s.th.flake = none)
    (h : s.th.nest = true ∨ s.vector s.th.asid = 0) :
    s.trap code addr = s.undone.endFailed s.cur code addr s.th.pc := by
  have e : s.thAt s.cur = s.th := rfl
  simp only [State.trap, State.trapAt, State.takeTrap, State.thAt_undone, e, hf, State.vector, State.undone_tvec]
  rw [if_pos]
  simpa [State.vector] using h

/-- A trap in inline code ends the flake (R60). -/
theorem State.trap_flake {s : State} {code : BitVec 8} {addr : Word} {f : Flake} (hf : s.th.flake = some f) :
    s.trap code addr = s.undone.endFlake s.cur code addr := by
  have e : s.thAt s.cur = s.th := rfl
  simp [State.trap, State.trapAt, e, hf]

end Sys2Proof.Machine
end

