-- ==== Sys2Proof/Laws/Step.lean ====
section
/-!
SUPPORT. Sys2Proof/Laws/Step.lean: what stands around a meaning in a step: every meaning answers a next state, and the
accounting of R268 changes the performance counters alone.
-/

namespace Sys2Proof.Machine

open Sys2Proof

/-- Every meaning answers a next state. -/
theorem exec_next (i : Instr) (s : State) : ∃ t, exec i s = .next t := by cases i <;> exact ⟨_, rfl⟩

/-- The counters of partitions and the free-value counter may differ; nothing else. -/
def OnlyCounts (s t : State) : Prop := ∃ parts free, t = { s with parts := parts, free := free }

theorem OnlyCounts.refl (s : State) : OnlyCounts s s := ⟨_, _, rfl⟩

theorem OnlyCounts.trans {s t u : State} (h : OnlyCounts s t) (g : OnlyCounts t u) : OnlyCounts s u := by
  obtain ⟨_, _, rfl⟩ := h; obtain ⟨_, _, rfl⟩ := g; exact ⟨_, _, rfl⟩

theorem State.countIf_onlyCounts (s : State) (p c n : Nat) : OnlyCounts s (s.countIf p c n) := by
  unfold State.countIf
  split
  · exact .refl _
  · exact ⟨_, _, rfl⟩

theorem State.countFlits_onlyCounts (s : State) (f : Fabric) : OnlyCounts s (s.countFlits f) := by
  unfold State.countFlits
  split
  · exact .refl _
  · exact State.countIf_onlyCounts ..
  · split
    · exact .refl _
    · exact OnlyCounts.trans (t := s.takeFree.2) ⟨_, _, rfl⟩ (State.countIf_onlyCounts ..)

theorem State.countJob_onlyCounts (s : State) (j : Job) : OnlyCounts s (s.countJob j) := by
  unfold State.countJob
  dsimp only
  split
  · exact .trans (.trans (State.countIf_onlyCounts ..) (State.countIf_onlyCounts ..)) (State.countIf_onlyCounts ..)
  · split
    · exact .trans (State.countIf_onlyCounts ..) (State.countIf_onlyCounts ..)
    · exact State.countIf_onlyCounts ..

theorem OnlyCounts.foldl {α : Type} (f : State → α → State) (h : ∀ s a, OnlyCounts s (f s a)) (l : List α) (s : State) :
    OnlyCounts s (l.foldl f s) := by
  induction l generalizing s with
  | nil => exact .refl _
  | cons a l ih => exact .trans (h s a) (ih _)

theorem State.account_onlyCounts (s s' : State) (i : Instr) : OnlyCounts s' (s.account s' i) := by
  unfold State.account
  split
  · exact .refl _
  · dsimp only
    refine .trans ?_ (.foldl _ (fun s a => .trans ?_ (State.countFlits_onlyCounts ..)) _ _)
    · refine .trans ?_ (.foldl _ (fun s a => State.countIf_onlyCounts ..) _ _)
      have : OnlyCounts s' (((match i with
        | .jobCompletion n => (match s.jobs.look? n, s'.jobs.look? n with
          | some j, none => s'.countJob j
          | _, _ => s')
        | _ => s').countIf ((s.partOfCore (s.missCore i)).getD 0) 6 (s.misses s' (s.missCore i))).countIf
          ((s.partOfCore (s.missCore i)).getD 0) 10 (s.bulkReads s' i)) := by
        refine .trans (.trans ?_ (State.countIf_onlyCounts ..)) (State.countIf_onlyCounts ..)
        split
        · split
          · exact State.countJob_onlyCounts ..
          · exact .refl _
        · exact .refl _
      split
      · exact .trans this (State.countIf_onlyCounts ..)
      · exact this
    · split
      · split
        · exact State.countIf_onlyCounts ..
        · exact .refl _
      · exact .refl _

/-- Accounting is as Accounted says. -/
theorem State.account_accounted (s s' : State) (i : Instr) : Accounted s' (s.account s' i) := by
  refine ⟨State.account_onlyCounts s s' i, fun h => ?_⟩
  unfold State.account
  rw [if_pos]
  rw [List.all_eq_true]
  intro p hp
  simp [h p hp]

end Sys2Proof.Machine
end

