-- ==== Sys2Proof/Tests/Slice0.lean ====
section
/-!
SUPPORT. Sys2Proof/Tests/Slice0.lean: the model's own tests: terms that WellFormed refuses, a word of every encoded
instruction from the tables of spec/15 and the fields of spec/opcode_table.json, single steps on small states with
results from the spec's pages, and states that meet the hypotheses of the statements.
-/

namespace Sys2Proof.Tests

-- one theorem after another: the stacks of many tests at once pass the memory limit
set_option Elab.async false

open Sys2Proof Sys2Proof.Machine

/-! ## WellFormed refuses -/

theorem test_illformed_scopes_and_registers :
    [Instr.ldacq 1 2 3 5, .strel 1 2 3 5, .fence 1 5, .fenceRel 1 6, .fenceAcq 1 7, .atom 2 3 4 0 3 5, .cas 2 3 4 3 5,
      .cas 3 4 5 3 0, .casCap 3 1 5 3, .casCap 2 8 5 3, .atomCap 2 8 5 0 3, .ringenq 3 4 5, .ringdeq 3 4, .cld 8 1 0,
      .cst 1 8 0, .cbnd 8 1 2, .cbnd 1 8 2, .cbnd 1 2 3, .cperm 8 1 2, .cperm 1 8 2, .qrd 1 8, .qwr 8 1, .qlen 1 8,
      .cldd 1 8 0, .cstd 8 1 0, .timerdTime 3, .timerdStatus 0, .pmrd 3 0, .pmrd 2 33, .jobtest 4 4].all
      fun i => !i.wellFormed := by decide

theorem test_illformed_operations :
    [Instr.atom 2 3 4 12 2 0, .atom 2 3 4 9 3 0, .atomCap 2 1 4 12 1, .bfx 1 2 32 32, .bfi 1 2 63 1, .send 1 4 29, .send 1 4 0, .send 1 30 3,
      .fwd 1 4 12 1, .fwd 1 1 0 31, .fwd 1 4 0 0, .fwd 1 30 0 3, .spawn 1 2 4 29, .spawn 1 2 4 0, .spawn 1 2 30 3,
      .srrd 1 0x004, .srwr 1 0x018, .srset 1 0x022, .srclr 1 0x072, .vcmp 0 1 2 0 0 0, .vcmp 1 1 2 0 0 6,
      .mops 0 1 2 0, .mops 1 1 2 7, .mops 1 1 2 4, .mops 1 1 0 5, .mpop 1 1 0 2, .vcvt 1 2 8 0 0 0, .vcvt 1 2 31 0 0 0].all
      fun i => !i.wellFormed := by decide

theorem test_illformed_vectors :
    [Instr.vld 16 1 0 0 0, .vlds 16 1 2 0 0 0, .vgath 16 1 2 0 0 0, .vst 16 1 0 0 0, .vsts 16 1 2 0 0 0,
      .vscat 16 1 2 0 0 0, .vadd 16 1 2 0 0, .vsub 16 1 2 0 0, .vmul 16 1 2 0 0, .vmax 16 1 2 0 0, .vmin 16 1 2 0 0,
      .vabs 16 1 0 0, .vneg 16 1 0 0, .vselm 16 1 2 0, .vcvt 16 1 0 0 0 0, .vfma 16 1 2 0 0, .vfma 1 2 3 0 6,
      .vredsum 1 2 0 6, .vredmax 1 2 0 7, .vexp2 16 1 0 0, .vexp2 1 2 0 3, .vlog2 1 2 0 3, .vrcp 1 2 0 4, .vrsq 1 2 0 5,
      .vtanh 1 2 0 6, .vlog2 16 2 0 0, .vrcp 16 2 0 0, .vrsq 16 2 0 0, .vtanh 16 2 0 0, .vand 1 2 3 0 5,
      .vor 1 2 3 0 0, .vxor 1 2 3 0 1, .vshl 1 2 3 0 2, .vshr 1 2 3 0 3 0, .viota 1 0 4, .vand 16 2 3 0 6,
      .vor 16 2 3 0 6, .vxor 16 2 3 0 6, .vshl 16 2 3 0 6, .vshr 16 2 3 0 6 0, .viota 16 0 6, .vldexp 1 2 3 0 6,
      .vldexp 16 2 3 0 0, .unassignedOpcode 0].all fun i => !i.wellFormed := by decide

theorem test_illformed_events :
    [Instr.cutMarker 0 0 2 0, .cutMarker 0 0 0 262144, .uniformReport 0 0 262144 0, .ready 0 ⟨0, 0⟩ 262144 true,
      .ready 0 ⟨0, 3⟩ 0 true, .prepare ⟨0, 0⟩ ⟨0, 3⟩, .commit ⟨0, 0⟩ ⟨0, 3⟩ 0, .done (⟨0, 262144⟩, 0), .broken ⟨0, 262144⟩ 0 0, .ended ⟨0, 262144⟩ 0 0, .cutCompleteReport 0 0 262144 0, .fallbackVoteArrival 0 ⟨0, 0⟩ 262144, .fallbackVoteArrival 0 ⟨0, 3⟩ 0, .queueEntryFreed 9216,
      .mailboxAdvance 2304, .handlerFlakeStart 9216, .threadMessageArrival 9216, .atomicFlake 2304,
      .completionFlake 9216, .ratioNotice 9216, .runQueueTake 2304, .runQueueAging 2304, .impreciseTrap 9216,
      .loadDataReturn 9216, .kill 9216, .groupDirectoryApply 32, .qdead 2304, .barrierDeadline 2304 0,
      .barrierDeadline 0 0x1FFF0, .generationNotice 96 0, .generationNotice 0 65536, .migrationBatch 32,
      .launchCheckDone 96 0, .launchCheckDone 0 64, .spawnDistribute 2, .counterRotation 32, .pcSample 9216,
      .dieFence 4, .dieResetComplete 4, .peerDeclaredDown 262144, .arbiterEvaluation 32, .transitionEnd 32].all
      fun i => !i.wellFormed := by decide +kernel

theorem test_illformed_host_events :
    [Instr.ptpIntervalTimer 34 0, .ptpIntervalTimer 0 2, .flakeOverrun 2304, .serviceFlakeTrap 2304 0 0,
      .atomicReply 2304 0, .preciseTrap 9216 0 0, .ringStall 9216 0, .pageWalk 2304 false 0 0 0 0,
      .pageWalk 0 false 32 0 0 0, .pageWalk 0 false 0 65536 0 0, .pageWalk 0 false 0 0 0 (2 ^ 32), .refreshWindowStart 32,
      .refreshWindowEnd 32, .launchArm 96 0, .prelaunch 32 0, .pwrshareWrite 32 0, .partcfg 32 false 0, .ctrsel 32 0 0,
      .ctrsel 0 8 0, .sendlaunch 32 0, .bar4Access 32 0 none 0, .fabricLinkChange 32 true, .registerWrite 32 true 0 0,
      .registerWrite 0 true 0x10100 0, .registerWrite 0 true 4 0, .coefficientUpdate 32 0 0 0 0 0,
      .ptpSync 34 0 false 0 0, .ptpSync 0 65536 false 0 0, .ptpFollowUp 34 0 0 0, .ptpFollowUp 0 65536 0 0,
      .ptpDelayReq 34 0 0 0, .ptpDelayReq 0 65536 0 0, .ptpDelayResp 34 0 0 0 0, .ptpDelayResp 0 65536 0 0 0,
      .ptpAnnounce 34 0 0, .fitnessExchange 0 262144 0 [] true, .driftRequest 0 262144 0 0 0,
      .driftRequest 0 0 0 65536 0, .driftRequest 0 0 0 0 65536, .driftReady 0 0 65536 true, .driftStream 0 0 65536 [] 0 0,
      .driftAcknowledgement 0 0 65536 0 0, .launchWindowWrite 96 0 0, .launchWindowWrite 0 0x10000 0,
      .launchWindowWrite 0 4 0, .peerRequest 262144 0 0 0 false 0 8 0 0 0, .peerRequest 0 3 0 0 false 0 8 0 0 0,
      .peerRequest 0 0 32 0 false 0 8 0 0 0, .peerRequest 0 0 0 0 false 0 3 0 0 0, .cxlLinkChange 4 true].all
      fun i => !i.wellFormed := by decide +kernel

theorem test_wellformed_bounds :
    [Instr.bfx 1 2 31 32, .fence 1 4, .atom 2 3 4 11 2 4, .send 1 4 28, .send 1 0 0, .fwd 1 1 11 1, .pmrd 2 32,
      .srrd 1 0x071, .vcmp 1 1 2 0 0 5, .mops 1 0 0 6, .vcvt 1 2 23 0 0 7, .vredsum 31 2 0 5, .vtanh 15 2 0 2,
      .vshr 15 2 3 0 7 1, .jobtest 4 5, .cutMarker 0 0 3 262143, .kill 9215, .barrierDeadline 2303 0x1FFE8,
      .pageWalk 2303 true 31 65535 0 (2 ^ 32 - 1), .registerWrite 31 true 0x100F8 0, .ptpIntervalTimer 33 0xB].all
      Instr.wellFormed := by decide +kernel

/-! ## Decoding

Words written out from the match bits and fields of spec/opcode_table.json: D 6, A 9, B 18 and so on. -/

theorem test_decode_1 :
    decode 0x01326400 = .ok (.add 6 9 18) ∧
    decode 0x02326400 = .ok (.sub 6 9 18) ∧
    decode 0x03326400 = .ok (.mul 6 9 18) ∧
    decode 0x04326400 = .ok (.mulh 6 9 18) ∧
    decode 0x05326400 = .ok (.mulhu 6 9 18) ∧
    decode 0x06326400 = .ok (.div 6 9 18) ∧
    decode 0x07326400 = .ok (.divu 6 9 18) ∧
    decode 0x08326400 = .ok (.rem 6 9 18) ∧
    decode 0x09326400 = .ok (.remu 6 9 18) ∧
    decode 0x0A326400 = .ok (.and 6 9 18) ∧
    decode 0x0B326400 = .ok (.or 6 9 18) ∧
    decode 0x0C326400 = .ok (.xor 6 9 18) :=
  ⟨rfl, rfl, rfl, rfl, rfl, rfl, rfl, rfl, rfl, rfl, rfl, rfl⟩

theorem test_decode_2 :
    decode 0x0D326400 = .ok (.shl 6 9 18) ∧
    decode 0x0E326400 = .ok (.shr 6 9 18) ∧
    decode 0x0F326400 = .ok (.sra 6 9 18) ∧
    decode 0x10326400 = .ok (.slt 6 9 18) ∧
    decode 0x11326400 = .ok (.sltu 6 9 18) ∧
    decode 0x12326400 = .ok (.min 6 9 18) ∧
    decode 0x13326400 = .ok (.max 6 9 18) ∧
    decode 0x14326400 = .ok (.minu 6 9 18) ∧
    decode 0x15326400 = .ok (.maxu 6 9 18) ∧
    decode 0x16324000 = .ok (.clz 6 9) ∧
    decode 0x17324000 = .ok (.popc 6 9) ∧
    decode 0x18326430 = .ok (.sel 6 9 18 3) :=
  ⟨rfl, rfl, rfl, rfl, rfl, rfl, rfl, rfl, rfl, rfl, rfl, rfl⟩

theorem test_decode_3 :
    decode 0x19324714 = .ok (.bfx 6 9 7 20) ∧
    decode 0x1A324714 = .ok (.bfi 6 9 7 20) ∧
    decode 0x20325234 = .ok (.addi 6 9 4660) ∧
    decode 0x21325234 = .ok (.andi 6 9 4660) ∧
    decode 0x22325234 = .ok (.ori 6 9 4660) ∧
    decode 0x23325234 = .ok (.xori 6 9 4660) ∧
    decode 0x24324002 = .ok (.shli 6 9 2) ∧
    decode 0x25324002 = .ok (.shri 6 9 2) ∧
    decode 0x26324002 = .ok (.srai 6 9 2) ∧
    decode 0x27325234 = .ok (.slti 6 9 4660) ∧
    decode 0x28325234 = .ok (.sltiu 6 9 4660) ∧
    decode 0x29301234 = .ok (.lih 6 4660) :=
  ⟨rfl, rfl, rfl, rfl, rfl, rfl, rfl, rfl, rfl, rfl, rfl, rfl⟩

theorem test_decode_4 :
    decode 0x2A325234 = .ok (.gadr 6 9 4660) ∧
    decode 0x2B325234 = .ok (.ladr 6 9 4660) ∧
    decode 0x304C9234 = .ok (.beq 9 18 4660) ∧
    decode 0x314C9234 = .ok (.bne 9 18 4660) ∧
    decode 0x324C9234 = .ok (.blt 9 18 4660) ∧
    decode 0x334C9234 = .ok (.bge 9 18 4660) ∧
    decode 0x344C9234 = .ok (.bltu 9 18 4660) ∧
    decode 0x354C9234 = .ok (.bgeu 9 18 4660) ∧
    decode 0x36301234 = .ok (.jal 6 4660) ∧
    decode 0x37325234 = .ok (.jalr 6 9 4660) ∧
    decode 0x39326400 = .ok (.wfe 6 9 18) ∧
    decode 0x40325234 = .ok (.ldb 6 9 4660) :=
  ⟨rfl, rfl, rfl, rfl, rfl, rfl, rfl, rfl, rfl, rfl, rfl, rfl⟩

theorem test_decode_5 :
    decode 0x41325234 = .ok (.ldbu 6 9 4660) ∧
    decode 0x42325234 = .ok (.ldh 6 9 4660) ∧
    decode 0x43325234 = .ok (.ldhu 6 9 4660) ∧
    decode 0x44325234 = .ok (.ldw 6 9 4660) ∧
    decode 0x45325234 = .ok (.ldwu 6 9 4660) ∧
    decode 0x46325234 = .ok (.ldd 6 9 4660) ∧
    decode 0x47324013 = .ok (.ldacq 6 9 2 3) ∧
    decode 0x484C9234 = .ok (.stb 9 18 4660) ∧
    decode 0x494C9234 = .ok (.sth 9 18 4660) ∧
    decode 0x4A4C9234 = .ok (.stw 9 18 4660) ∧
    decode 0x4B4C9234 = .ok (.std 9 18 4660) ∧
    decode 0x4C026414 = .ok (.strel 9 18 2 4) :=
  ⟨rfl, rfl, rfl, rfl, rfl, rfl, rfl, rfl, rfl, rfl, rfl, rfl⟩

theorem test_decode_6 :
    decode 0x4D300003 = .ok (.fence 6 3) ∧
    decode 0x4D300023 = .ok (.fenceRel 6 3) ∧
    decode 0x4D300043 = .ok (.fenceAcq 6 3) ∧
    decode 0x4F326473 = .ok (.atom 6 9 18 3 2 3) ∧
    decode 0x4F30E477 = .ok (.atomCap 6 3 18 3 2) ∧
    decode 0x50326413 = .ok (.cas 6 9 18 2 3) ∧
    decode 0x5030E417 = .ok (.casCap 6 3 18 2) ∧
    decode 0x51326400 = .ok (.ringenq 6 9 18) ∧
    decode 0x52324000 = .ok (.ringdeq 6 9) ∧
    decode 0x54325234 = .ok (.cld 6 9 4660) ∧
    decode 0x55495234 = .ok (.cst 9 5 4660) ∧
    decode 0x5630E400 = .ok (.cbnd 6 3 18) :=
  ⟨rfl, rfl, rfl, rfl, rfl, rfl, rfl, rfl, rfl, rfl, rfl, rfl⟩

theorem test_decode_7 :
    decode 0x5730E400 = .ok (.cperm 6 3 18) ∧
    decode 0x58026400 = .ok (.barinit 9 18) ∧
    decode 0x59324000 = .ok (.bararr 6 9) ∧
    decode 0x5A324000 = .ok (.bardrop 6 9) ∧
    decode 0x5B324000 = .ok (.barjoin 6 9) ∧
    decode 0x5C326400 = .ok (.barwait 6 9 18) ∧
    decode 0x5D324001 = .ok (.gbarGroup 6 9) ∧
    decode 0x5E324000 = .ok (.gjoin 6 9) ∧
    decode 0x5F324000 = .ok (.gleave 6 9) ∧
    decode 0x60324000 = .ok (.gkill 6 9) ∧
    decode 0x6102640B = .ok (.send 9 18 11) ∧
    decode 0x62026400 = .ok (.sendi 9 18) :=
  ⟨rfl, rfl, rfl, rfl, rfl, rfl, rfl, rfl, rfl, rfl, rfl, rfl⟩

theorem test_decode_8 :
    decode 0x630264AB = .ok (.fwd 9 18 5 11) ∧
    decode 0x6432640B = .ok (.spawn 6 9 18 11) ∧
    decode 0x65324000 = .ok (.jcwait 6 9) ∧
    decode 0x66324001 = .ok (.migrate 6 9 1) ∧
    decode 0x6730C000 = .ok (.qrd 6 3) ∧
    decode 0x68124000 = .ok (.qwr 2 9) ∧
    decode 0x6930C000 = .ok (.qlen 6 3) ∧
    decode 0x6A30D234 = .ok (.cldd 6 3 4660) ∧
    decode 0x6B1C9234 = .ok (.cstd 3 18 4660) ∧
    decode 0x70300021 = .ok (.srrd 6 33) ∧
    decode 0x71024036 = .ok (.srwr 9 54) ∧
    decode 0x72024014 = .ok (.srset 9 20) :=
  ⟨rfl, rfl, rfl, rfl, rfl, rfl, rfl, rfl, rfl, rfl, rfl, rfl⟩

theorem test_decode_9 :
    decode 0x73024042 = .ok (.srclr 9 66) ∧
    decode 0x74001234 = .ok (.svc 4660) ∧
    decode 0x75001234 = .ok (.bkpt 4660) ∧
    decode 0x77324000 = .ok (.tlbgen 6 9) ∧
    decode 0x79326400 = .ok (.ctxsave 6 9 18) ∧
    decode 0x7A324000 = .ok (.ctxload 6 9) ∧
    decode 0x7B300000 = .ok (.timerdTime 6) ∧
    decode 0x7B300001 = .ok (.timerdStatus 6) ∧
    decode 0x7C024000 = .ok (.clkreq 9) ∧
    decode 0x7D30000B = .ok (.pmrd 6 11) ∧
    decode 0x7E300000 = .ok (.rand 6) ∧
    decode 0x7F324000 = .ok (.clkwait 6 9) :=
  ⟨rfl, rfl, rfl, rfl, rfl, rfl, rfl, rfl, rfl, rfl, rfl, rfl⟩

theorem test_decode_10 :
    decode 0x80B64000 = .ok (.vclaim 6 9) ∧
    decode 0x81B00000 = .ok (.vsync 6) ∧
    decode 0x83B64000 = .ok (.vsetvl 6 9) ∧
    decode 0x8452414C = .ok (.vld 10 9 5 1 4) ∧
    decode 0x8552654C = .ok (.vlds 10 9 18 5 1 4) ∧
    decode 0x8602654C = .ok (.vldt 0 9 18 5 1 4) ∧
    decode 0x8752454C = .ok (.vgath 10 9 2 5 1 4) ∧
    decode 0x8852414C = .ok (.vst 10 9 5 1 4) ∧
    decode 0x8952654C = .ok (.vsts 10 9 18 5 1 4) ∧
    decode 0x8A52454C = .ok (.vscat 10 9 2 5 1 4) ∧
    decode 0x8B526548 = .ok (.vadd 10 9 18 5 1) ∧
    decode 0x8C526548 = .ok (.vsub 10 9 18 5 1) :=
  ⟨rfl, rfl, rfl, rfl, rfl, rfl, rfl, rfl, rfl, rfl, rfl, rfl⟩

theorem test_decode_11 :
    decode 0x8D526548 = .ok (.vmul 10 9 18 5 1) ∧
    decode 0x8E526548 = .ok (.vfma 10 9 18 5 1) ∧
    decode 0x8F526548 = .ok (.vmax 10 9 18 5 1) ∧
    decode 0x90526548 = .ok (.vmin 10 9 18 5 1) ∧
    decode 0x91524148 = .ok (.vabs 10 9 5 1) ∧
    decode 0x92524148 = .ok (.vneg 10 9 5 1) ∧
    decode 0x9352654C = .ok (.vcvt 10 9 18 5 1 4) ∧
    decode 0x9432654C = .ok (.vcmp 6 9 18 5 1 4) ∧
    decode 0x95526540 = .ok (.vselm 10 9 18 5) ∧
    decode 0x96524148 = .ok (.vredsum 10 9 5 1) ∧
    decode 0x97524148 = .ok (.vredmax 10 9 5 1) ∧
    decode 0x98524148 = .ok (.vexp2 10 9 5 1) :=
  ⟨rfl, rfl, rfl, rfl, rfl, rfl, rfl, rfl, rfl, rfl, rfl, rfl⟩

theorem test_decode_12 :
    decode 0x99524148 = .ok (.vlog2 10 9 5 1) ∧
    decode 0x9A524148 = .ok (.vrcp 10 9 5 1) ∧
    decode 0x9B524148 = .ok (.vrsq 10 9 5 1) ∧
    decode 0x9C524148 = .ok (.vtanh 10 9 5 1) ∧
    decode 0x9D526540 = .ok (.vbcast 10 9 2 5) ∧
    decode 0x9EB26400 = .ok (.vext 6 9 2) ∧
    decode 0x9F566400 = .ok (.vins 10 9 2) ∧
    decode 0xA0524540 = .ok (.vperm 10 9 2 5) ∧
    decode 0xA1524000 = .ok (.vxall 10 9) ∧
    decode 0xA2526570 = .ok (.vand 10 9 18 5 6) ∧
    decode 0xA3526570 = .ok (.vor 10 9 18 5 6) ∧
    decode 0xA4526570 = .ok (.vxor 10 9 18 5 6) :=
  ⟨rfl, rfl, rfl, rfl, rfl, rfl, rfl, rfl, rfl, rfl, rfl, rfl⟩

theorem test_decode_13 :
    decode 0xA5526570 = .ok (.vshl 10 9 18 5 6) ∧
    decode 0xA6526579 = .ok (.vshr 10 9 18 5 7 1) ∧
    decode 0xA7500170 = .ok (.viota 10 5 6) ∧
    decode 0xA8304403 = .ok (.mops 6 1 2 3) ∧
    decode 0xA9B04141 = .ok (.mpop 6 1 5 1) ∧
    decode 0xAA526548 = .ok (.vldexp 10 9 18 5 1) ∧
    decode 0xC0324001 = .ok (.job 6 9 1) ∧
    decode 0xC1326401 = .ok (.jobm 6 9 18 1) ∧
    decode 0xC2324000 = .ok (.jobtest 6 9) ∧
    decode 0xC3324000 = .ok (.gissue 6 9) ∧
    decode 0xC4026400 = .ok (.tswap 9 18) ∧
    decode 0xC5506940 = .ok (.accrd 10 1 4 5) :=
  ⟨rfl, rfl, rfl, rfl, rfl, rfl, rfl, rfl, rfl, rfl, rfl, rfl⟩

theorem test_decode_14 :
    decode 0xC60A6940 = .ok (.accwr 1 9 4 5) ∧
    decode 0xF0001234 = .ok (.imx 4660) ∧
    decode 0x38000000 = .ok .yield ∧
    decode 0x3A000000 = .ok .fin ∧
    decode 0x4E000000 = .ok .drain ∧
    decode 0x5D000000 = .ok .gbarWired ∧
    decode 0x76000000 = .ok .tret ∧
    decode 0x78000001 = .ok .gendrainCl ∧
    decode 0x78000003 = .ok .gendrainPk ∧
    decode 0x82000000 = .ok .vrel :=
  ⟨rfl, rfl, rfl, rfl, rfl, rfl, rfl, rfl, rfl, rfl⟩

/-- Reserved fields, sub-codes that are not assigned and short formats (R279, R295). -/
theorem test_decode_rejects :
    Rejected 0x01326401 ∧ Rejected 0x16324200 ∧ Rejected 0x18326431 ∧ Rejected 0x4D300008 ∧ Rejected 0x5D324002 ∧
    Rejected 0x78000002 ∧ Rejected 0x7B300002 ∧ Rejected 0x80C00000 ∧ Rejected 0x7E280001 ∧ Rejected 0x38000001 :=
  ⟨⟨_, rfl⟩, ⟨_, rfl⟩, ⟨_, rfl⟩, ⟨_, rfl⟩, ⟨_, rfl⟩, ⟨_, rfl⟩, ⟨_, rfl⟩, ⟨_, rfl⟩, ⟨_, rfl⟩, ⟨_, rfl⟩⟩

/-- An OP that the map of R295 leaves unassigned. -/
theorem test_decode_unassigned : decode 0x00000000 = .ok (.unassignedOpcode 0) ∧
    decode 0xFF123456 = .ok (.unassignedOpcode 0xFF123456) := ⟨rfl, rfl⟩

/-- One bit of each field moves one operand: ADDI s5, s6, -4 of R312 and its neighbours. -/
theorem test_decode_fields : decode 0x2029BFFC = .ok (.addi 5 6 (-4)) ∧ decode 0x2029BFFD = .ok (.addi 5 6 (-3)) ∧
    decode 0x2029FFFC = .ok (.addi 5 7 (-4)) ∧ decode 0x2021BFFC = .ok (.addi 4 6 (-4)) := ⟨rfl, rfl, rfl, rfl⟩

/-! The words that spec/14 to 19 print, with the instructions beside them; each is also what its instruction encodes. -/

theorem test_printed_words_1 :
    StandsFor 0x473A4014 (.ldacq 7 9 2 4) ∧
    StandsFor 0xF0001009 (.imx 0x001009) ∧
    StandsFor 0x20282CC0 (.addi 5 0 0x2CC0) ∧
    StandsFor 0x2429401A (.shli 5 5 26) ∧
    StandsFor 0x22295230 (.ori 5 5 0x1230) ∧
    StandsFor 0x2428C002 (.shli 5 3 2) ∧
    StandsFor 0x4A28C000 (.stw 5 3 0) ∧
    StandsFor 0x3A000000 .fin ∧
    StandsFor 0x70280010 (.srrd 5 0x010) ∧
    StandsFor 0x4F310F53 (.atom 6 4 7 10 2 3) ∧
    StandsFor 0x93104606 (.vcvt 2 1 3 0 0 6) ∧
    StandsFor 0xC5186A00 (.accrd 3 1 5 0) ∧
    StandsFor 0x01298E00 (.add 5 6 7) ∧
    StandsFor 0x2029BFFC (.addi 5 6 (-4)) ∧
    StandsFor 0x59310000 (.bararr 6 4) ∧
    StandsFor 0x3129BFFD (.bne 5 6 (-3)) :=
  ⟨⟨rfl, rfl⟩, ⟨rfl, rfl⟩, ⟨rfl, rfl⟩, ⟨rfl, rfl⟩, ⟨rfl, rfl⟩, ⟨rfl, rfl⟩, ⟨rfl, rfl⟩, ⟨rfl, rfl⟩, ⟨rfl, rfl⟩, ⟨rfl, rfl⟩, ⟨rfl, rfl⟩, ⟨rfl, rfl⟩, ⟨rfl, rfl⟩, ⟨rfl, rfl⟩, ⟨rfl, rfl⟩, ⟨rfl, rfl⟩⟩

theorem test_printed_words_2 :
    StandsFor 0x19298308 (.bfx 5 6 3 8) ∧
    StandsFor 0x50411413 (.cas 8 4 10 2 3) ∧
    StandsFor 0x54190020 (.cld 3 4 32) ∧
    StandsFor 0x6B124008 (.cstd 2 9 8) ∧
    StandsFor 0x56189400 (.cbnd 3 2 10) ∧
    StandsFor 0x5720D800 (.cperm 4 3 12) ∧
    StandsFor 0x7C014000 (.clkreq 5) ∧
    StandsFor 0x7F314000 (.clkwait 6 5) ∧
    StandsFor 0x16298000 (.clz 5 6) ∧
    StandsFor 0x06298E00 (.div 5 6 7) ∧
    StandsFor 0x4E000000 .drain ∧
    StandsFor 0x4D000041 (.fenceAcq 0 1) ∧
    StandsFor 0x4D000023 (.fenceRel 0 3) ∧
    StandsFor 0x4D280004 (.fence 5 4) ∧
    StandsFor 0x46490000 (.ldd 9 4 0) ∧
    StandsFor 0x4B224000 (.std 4 9 0) :=
  ⟨⟨rfl, rfl⟩, ⟨rfl, rfl⟩, ⟨rfl, rfl⟩, ⟨rfl, rfl⟩, ⟨rfl, rfl⟩, ⟨rfl, rfl⟩, ⟨rfl, rfl⟩, ⟨rfl, rfl⟩, ⟨rfl, rfl⟩, ⟨rfl, rfl⟩, ⟨rfl, rfl⟩, ⟨rfl, rfl⟩, ⟨rfl, rfl⟩, ⟨rfl, rfl⟩, ⟨rfl, rfl⟩, ⟨rfl, rfl⟩⟩

theorem test_printed_words_3 :
    StandsFor 0x30400003 (.beq 8 0 3) ∧
    StandsFor 0x63018805 (.fwd 6 4 0 5) ∧
    StandsFor 0x2A28BFF0 (.gadr 5 2 (-16)) ∧
    StandsFor 0x5D000000 .gbarWired ∧
    StandsFor 0x5D298001 (.gbarGroup 5 6) ∧
    StandsFor 0x78000001 .gendrainCl ∧
    StandsFor 0x78000003 .gendrainPk ∧
    StandsFor 0xC3410000 (.gissue 8 4) ∧
    StandsFor 0x5E298000 (.gjoin 5 6) ∧
    StandsFor 0x60394000 (.gkill 7 5) ∧
    StandsFor 0x37004000 (.jalr 0 1 0) ∧
    StandsFor 0x3608000A (.jal 1 10) ∧
    StandsFor 0x6531C000 (.jcwait 6 7) ∧
    StandsFor 0xC0410000 (.job 8 4 0) ∧
    StandsFor 0xC0410001 (.job 8 4 1) ∧
    StandsFor 0xC1411200 (.jobm 8 4 9 0) :=
  ⟨⟨rfl, rfl⟩, ⟨rfl, rfl⟩, ⟨rfl, rfl⟩, ⟨rfl, rfl⟩, ⟨rfl, rfl⟩, ⟨rfl, rfl⟩, ⟨rfl, rfl⟩, ⟨rfl, rfl⟩, ⟨rfl, rfl⟩, ⟨rfl, rfl⟩, ⟨rfl, rfl⟩, ⟨rfl, rfl⟩, ⟨rfl, rfl⟩, ⟨rfl, rfl⟩, ⟨rfl, rfl⟩, ⟨rfl, rfl⟩⟩

theorem test_printed_words_4 :
    StandsFor 0xC24A0000 (.jobtest 9 8) ∧
    StandsFor 0x2B298010 (.ladr 5 6 0x10) ∧
    StandsFor 0x44290008 (.ldw 5 4 8) ∧
    StandsFor 0x29280402 (.lih 5 0x402) ∧
    StandsFor 0x292FFFFF (.lih 5 (-1)) ∧
    StandsFor 0x15298E00 (.maxu 5 6 7) ∧
    StandsFor 0x66298001 (.migrate 5 6 1) ∧
    StandsFor 0xA8184403 (.mops 3 1 2 3) ∧
    StandsFor 0xA9A88000 (.mpop 5 2 0 0) ∧
    StandsFor 0x05298E00 (.mulhu 5 6 7) ∧
    StandsFor 0x7D400000 (.pmrd 8 0) ∧
    StandsFor 0x7D400005 (.pmrd 8 5) ∧
    StandsFor 0x17298000 (.popc 5 6) ∧
    StandsFor 0x67288000 (.qrd 5 2) ∧
    StandsFor 0x68218000 (.qwr 4 6) ∧
    StandsFor 0x69290000 (.qlen 5 4) :=
  ⟨⟨rfl, rfl⟩, ⟨rfl, rfl⟩, ⟨rfl, rfl⟩, ⟨rfl, rfl⟩, ⟨rfl, rfl⟩, ⟨rfl, rfl⟩, ⟨rfl, rfl⟩, ⟨rfl, rfl⟩, ⟨rfl, rfl⟩, ⟨rfl, rfl⟩, ⟨rfl, rfl⟩, ⟨rfl, rfl⟩, ⟨rfl, rfl⟩, ⟨rfl, rfl⟩, ⟨rfl, rfl⟩, ⟨rfl, rfl⟩⟩

theorem test_printed_words_5 :
    StandsFor 0x7E280000 (.rand 5) ∧
    StandsFor 0x08298E00 (.rem 5 6 7) ∧
    StandsFor 0x51411200 (.ringenq 8 4 9) ∧
    StandsFor 0x52510000 (.ringdeq 10 4) ∧
    StandsFor 0x18298E80 (.sel 5 6 7 8) ∧
    StandsFor 0x61018803 (.send 6 4 3) ∧
    StandsFor 0x62019400 (.sendi 6 10) ∧
    StandsFor 0x0F298E00 (.sra 5 6 7) ∧
    StandsFor 0x28298001 (.sltiu 5 6 1) ∧
    StandsFor 0x64398802 (.spawn 7 6 4 2) ∧
    StandsFor 0x71018036 (.srwr 6 0x036) ∧
    StandsFor 0x4C010E13 (.strel 4 7 2 3) ∧
    StandsFor 0x02298E00 (.sub 5 6 7) ∧
    StandsFor 0x74000007 (.svc 7) ∧
    StandsFor 0x7B300000 (.timerdTime 6) ∧
    StandsFor 0x7B280001 (.timerdStatus 5) :=
  ⟨⟨rfl, rfl⟩, ⟨rfl, rfl⟩, ⟨rfl, rfl⟩, ⟨rfl, rfl⟩, ⟨rfl, rfl⟩, ⟨rfl, rfl⟩, ⟨rfl, rfl⟩, ⟨rfl, rfl⟩, ⟨rfl, rfl⟩, ⟨rfl, rfl⟩, ⟨rfl, rfl⟩, ⟨rfl, rfl⟩, ⟨rfl, rfl⟩, ⟨rfl, rfl⟩, ⟨rfl, rfl⟩, ⟨rfl, rfl⟩⟩

theorem test_printed_words_6 :
    StandsFor 0x77298000 (.tlbgen 5 6) ∧
    StandsFor 0x76000000 .tret ∧
    StandsFor 0xC4010A00 (.tswap 4 5) ∧
    StandsFor 0x8B104600 (.vadd 2 1 3 0 0) ∧
    StandsFor 0x8B104680 (.vadd 2 1 3 2 0) ∧
    StandsFor 0x8B106A00 (.vadd 2 1 21 0 0) ∧
    StandsFor 0x91104008 (.vabs 2 1 0 1) ∧
    StandsFor 0xA2104630 (.vand 2 1 3 0 6) ∧
    StandsFor 0xA6106A31 (.vshr 2 1 21 0 6 1) ∧
    StandsFor 0x9EA8AC00 (.vext 5 2 6) ∧
    StandsFor 0x9F156C00 (.vins 2 5 6) ∧
    StandsFor 0x9D186A00 (.vbcast 3 1 5 0) ∧
    StandsFor 0xA0184400 (.vperm 3 1 2 0) ∧
    StandsFor 0x80AD8000 (.vclaim 5 6) ∧
    StandsFor 0x81A80000 (.vsync 5) ∧
    StandsFor 0x82000000 .vrel :=
  ⟨⟨rfl, rfl⟩, ⟨rfl, rfl⟩, ⟨rfl, rfl⟩, ⟨rfl, rfl⟩, ⟨rfl, rfl⟩, ⟨rfl, rfl⟩, ⟨rfl, rfl⟩, ⟨rfl, rfl⟩, ⟨rfl, rfl⟩, ⟨rfl, rfl⟩, ⟨rfl, rfl⟩, ⟨rfl, rfl⟩, ⟨rfl, rfl⟩, ⟨rfl, rfl⟩, ⟨rfl, rfl⟩, ⟨rfl, rfl⟩⟩

theorem test_printed_words_7 :
    StandsFor 0x83AD8000 (.vsetvl 5 6) ∧
    StandsFor 0x94088602 (.vcmp 1 2 3 0 0 2) ∧
    StandsFor 0x9818C000 (.vexp2 3 3 0 0) ∧
    StandsFor 0x8E204400 (.vfma 4 1 2 0 0) ∧
    StandsFor 0x84090002 (.vld 1 4 0 0 2) ∧
    StandsFor 0x85090A00 (.vlds 1 4 5 0 0 0) ∧
    StandsFor 0x88090001 (.vst 1 4 0 0 1) ∧
    StandsFor 0x87190A00 (.vgath 3 4 5 0 0 0) ∧
    StandsFor 0xA7100070 (.viota 2 1 6) ∧
    StandsFor 0xAA106A00 (.vldexp 2 1 21 0 0) ∧
    StandsFor 0x86010A08 (.vldt 0 4 5 0 1 0) ∧
    StandsFor 0x96A88000 (.vredsum 21 2 0 0) ∧
    StandsFor 0x97A88000 (.vredmax 21 2 0 0) ∧
    StandsFor 0x952044C0 (.vselm 4 1 2 3) ∧
    StandsFor 0xA1208000 (.vxall 4 2) ∧
    StandsFor 0x39298E00 (.wfe 5 6 7) :=
  ⟨⟨rfl, rfl⟩, ⟨rfl, rfl⟩, ⟨rfl, rfl⟩, ⟨rfl, rfl⟩, ⟨rfl, rfl⟩, ⟨rfl, rfl⟩, ⟨rfl, rfl⟩, ⟨rfl, rfl⟩, ⟨rfl, rfl⟩, ⟨rfl, rfl⟩, ⟨rfl, rfl⟩, ⟨rfl, rfl⟩, ⟨rfl, rfl⟩, ⟨rfl, rfl⟩, ⟨rfl, rfl⟩, ⟨rfl, rfl⟩⟩

theorem test_printed_words_8 :
    StandsFor 0x0C298E00 (.xor 5 6 7) ∧
    StandsFor 0x2329BFFF (.xori 5 6 (-1)) ∧
    StandsFor 0x38000000 .yield :=
  ⟨⟨rfl, rfl⟩, ⟨rfl, rfl⟩, ⟨rfl, rfl⟩⟩

/-! ## Small states -/

/-- The state an instruction leaves, or its own where it answers none. -/
def ran (i : Instr) (s : State) : State := match exec i s with | .next t => t | _ => s

def tThread : Thread := { tid := 1, launch := 1, asid := 3, part := 0, pc := 0x100000000, done := 7, srseed := 99 }

/-- One running thread on core 0, context 0, with a trap vector and a few bytes of its scratchpad. -/
def tState : State := { State.reset with
  ctxs := [(0, { mode := .running, th := tThread })]
  parts := [(0, { clusters := 7, glshare := 1, bulkLimit := 0x100000 })]
  tvec := [(3, 0x200000000)], nextId := 100,
  mem := [(spadKey 0 0x100, 0x80), (spadKey 0 0x101, 0xFF), (spadKey 0 0x107, 7)] }

def tThen (s : State) (f : Thread → Thread) : State := s.setTh (f s.th)
def tRegs (rs : Tbl Word) : State := tThen tState fun t => { t with s := rs }

def tTlb : TlbEntry :=
  { asid := 3, part := 0, gen := 0, va := 0x100000000, size := 4096, frame := 0x20000, perm := 0b1111 }

/-- The same with a page of bulk memory in the TLB and a line in the remote read cache. -/
def tB : State :=
  { tState with cores := [(0, { dtlb := [tTlb], rrc := [{ key := spadKey 1 0, bytes := List.replicate 64 5 }] })] }
def tBRegs (rs : Tbl Word) : State := tThen tB fun t => { t with s := rs }

/-- Translation tables that put VA 0x1_0000_0000 + x at PA x, for ASIDs 0 and 3. -/
def tPages (m : List Host.Cell) : List Host.Cell :=
  Memory.writeLE (Memory.writeLE (Memory.writeLE (Memory.writeLE m 0x8000 8 0x10001) 0x8018 8 0x10001) 0x10000 8
    0x20001) 0x20020 8 0xC0000000000003F
def tP : State := { tB with
  mem := tPages tB.mem, parts := [(0, { clusters := 7, glshare := 1, bulkLimit := 0x100000, asdir := 0x8000 })],
  cores := [(0, {})] }
def tPRegs (rs : Tbl Word) : State := tThen tP fun t => { t with s := rs }
def tPut (s : State) (key n x : Nat) : State := { s with mem := Memory.writeLE s.mem key n x }
def tPart (s : State) (f : Part → Part) : State := s.setPart 0 (f (s.part 0))
def tRing (s : State) (producer : Word) : State :=
  tPart s fun p => p.setRing { base := 0x100100004, producer := producer, consumer := 3 } .fault
def tPosted : Posted := { id := 9, tid := 1, part := 0, ctx := 0, addr := 0, key := 0x20010, peer := none, bytes := [1],
                          tag := none, posted := 0, asid := 3, gen := 0 }
def tFlake : Flake := { msg := 44, header := 0, chain := 0, code := [], spent := 0, sender := 0 }

def tCap (peer kind base len perms : Nat) : Cap :=
  { bits := BitVec.ofNat 128 (peer * 2 ^ 110 + perms * 2 ^ 104 + kind * 2 ^ 102 + base * 2 ^ 50 + len * 2 ^ 10), tag := true }
def tHolds (a : Word) (x : Cap) : State :=
  tThen tP fun t => { t with s := [(6, a), (7, 0x77), (10, 0x80)], c := [(2, x)] }

def tInline : State := tThen tState fun t => { t with flake := some tFlake, pc := 0 }

theorem eq_ok_of {ε α : Type} {e : Except ε α} {a : α} (h : e.toOption = some a) : e = .ok a := by
  cases e with
  | error => simp [Except.toOption] at h
  | ok => simpa [Except.toOption] using h

/-- A thread's message of priority 2 on the way from core 0. -/
def tMsg : Msg :=
  { id := 50, header := mkHeader 0 2 5 30 false 0 0x12, payload := [], sender := 0, part := 0, launch := 1,
    origin := .send, lev := false, asid := 3, thread := none, at_ := 0, entered := false, taker := none, blocked := false }

def tLaunch : Launch := { lid := 1, part := 0, port := 0, state := .running, block := [], trusted := false, order := 0,
                          clock := 0x1234567811112222 }
def tDomain : Domain :=
  { addr := 0x100001000, desc := [1, 2, 3, 0x100002000],
    slots := [{ chip := 7, core := 0, base := 0 }, { chip := 0, core := 0, base := 0 }], ranges := [], domainId := 4,
    asid := 3, part := 0, launches := [1] }

/-- A supervisor thread of a running launch with a population, translation tables and a device time. -/
def tSup (rs : Tbl Word) : State :=
  { tThen tP fun t => { t with lev := true, s := rs, slabs := 1 } with
    launches := [(1, { tLaunch with domain := some 0x1000 }), (2, { tLaunch with lid := 2 })],
    domains := [(0x1000, tDomain)],
    parts := [(0, { clusters := 7, glshare := 1, bulkLimit := 0x100000, asdir := 0x8000, clkgen := 6, pmSince := 10 })],
    time := { ns := 1000, frac := 0x1FFFF, u := 77, servo := .locked, source := some 3 } }
def tCtx (t : Thread) : Ctx := { mode := .running, th := t }

/-! ## States that meet the hypotheses of the statements -/

theorem met_ClzRule : TokenFree (tRegs [(6, 0)]) [6, 5] ∧ (tRegs [(6, 0)]).th.S 6 = 0 ∧
    TokenFree (tRegs [(31, 0x10000)]) [31, 31] ∧ (tRegs [(31, 0x10000)]).th.S 31 = 0x10000 ∧
    0x16000001 / 2 ^ 24 = 0x16 ∧ 0x16000001 % 2 ^ 14 ≠ 0 := by unfold TokenFree; decide +kernel

theorem met_PopcRule : TokenFree (tRegs [(6, -1)]) [6, 0] ∧
    0x17003FFF / 2 ^ 24 = 0x17 ∧ 0x17003FFF % 2 ^ 14 ≠ 0 := by unfold TokenFree; decide +kernel

theorem met_SelRule : TokenFree (tRegs [(8, 1)]) [6, 7, 8, 5] ∧ (tRegs [(8, 1)]).th.S 8 ≠ 0 ∧
    (tRegs [(8, 1)]).th.S 0 = 0 ∧ 0x18000001 / 2 ^ 24 = 0x18 ∧ 0x18000001 % 2 ^ 4 ≠ 0 := by
  unfold TokenFree; decide +kernel

theorem met_SubRule : TokenFree (tRegs [(7, 1)]) [6, 7, 0] ∧ 0x020001FF / 2 ^ 24 = 0x02 ∧ 0x020001FF % 2 ^ 9 ≠ 0 := by
  unfold TokenFree; decide +kernel

def tImx : State := tThen (tRegs [(6, -1)]) fun t => { t with imx := some 0xFFFFFF }

theorem met_OrRule_XorRule : TokenFree (tRegs [(6, -1)]) [6, 7, 5] ∧ (tRegs []).th.imx = none ∧
    TokenFree tImx [6, 5] ∧ tImx.th.imx = some 0xFFFFFF ∧
    0x0B000001 / 2 ^ 24 = 0x0B ∧ 0x0B000001 % 2 ^ 9 ≠ 0 ∧ 0x0C000100 / 2 ^ 24 = 0x0C ∧ 0x0C000100 % 2 ^ 9 ≠ 0 := by
  unfold TokenFree; decide +kernel

theorem met_RandRule : TokenFree tState [0, 31] ∧ tState.th.S 0 = 0 ∧ 0x7E000001 / 2 ^ 24 = 0x7E ∧
    0x7E000001 % 2 ^ 19 ≠ 0 := by unfold TokenFree; decide +kernel

theorem met_RegisterArithmetic_ImmediateArithmetic :
    TokenFree (tRegs [(6, 0x8000000000000000), (7, -1)]) [6, 7, 5] ∧ TokenFree tImx [6, 0] := by
  unfold TokenFree; decide +kernel

theorem met_FieldsAndAddresses :
    let at' (v : Word) : State := tRegs [(6, v)]
    TokenFree (at' 5) [6, 5] ∧ (63 + 0 < 64) ∧ 64 ≤ 63 + 1 ∧ tState.cur < 9216 ∧
    (at' 0x1FFFF).th.S 6 + (at' 0x1FFFF).th.imm14 0 = 0x1FFFF ∧ tState.me = 0 ∧
    (at' 0x001000000001FFFF).th.S 6 + (at' 0x001000000001FFFF).th.imm14 0 = 0x001000000001FFFF ∧
    (at' 0x20000).th.S 6 + (at' 0x20000).th.imm14 0 = 0x20000 := by unfold TokenFree; decide +kernel

theorem met_Branches : TokenFree tState [6, 7] ∧ tState.th.inlineTarget (tState.th.imm14 (-1)) = true ∧
    tInline.th.inlineTarget (tInline.th.imm14 (-1)) = false ∧ tInline.th.inlineTarget (tInline.th.imm14 5) = false := by
  unfold TokenFree; decide +kernel

theorem met_Jumps : TokenFree (tRegs [(6, 4)]) [6, 5] ∧
    ((tRegs [(6, 4)]).th.S 6 + (tRegs [(6, 4)]).th.imm14 (-4)).toNat % 4 = 0 ∧
    ((tRegs [(6, 4)]).th.S 6 + (tRegs [(6, 4)]).th.imm14 (-1)).toNat % 4 ≠ 0 := by unfold TokenFree; decide +kernel

theorem met_TakingTraps :
    let h := tThen tState fun t => { t with nest := true, join := 0x100 }
    tState.th.flake = none ∧ tState.th.nest = false ∧ tState.tvec.get 0 tState.th.asid.toNat ≠ 0 ∧
    h.th.flake = none ∧ h.th.nest = true ∧ h.th.join ≠ 0 ∧
    ({ tState with tvec := [] } : State).tvec.get 0 tState.th.asid.toNat = 0 := by decide +kernel

theorem met_RingRecords :
    let r (p : Word) := ((tRing tP p).part 0).ring .fault
    ((r 19).size? = some 4 ∧ 2 ^ 4 ≤ ((r 19).producer - (r 19).consumer).toNat) ∧
    ((r 18).size? = some 4 ∧ ((r 18).producer - (r 18).consumer).toNat < 2 ^ 4) ∧
    (tRing tP 18).resolve (unitIssuer 0 0)
      (BitVec.ofNat 64 ((r 18).addr + (r 18).producer.toNat % 2 ^ 4 * (8 * [1, 2, 3, 4].length))) .write =
        .ok (.bulk .hbm 0x100040) :=
  ⟨by decide +kernel, by decide +kernel, eq_ok_of (by decide +kernel)⟩

def tHandler : State := tThen tState fun t => { t with lev := true, nest := true, epc := 0x1003 }

theorem met_TrapReturn :
    let waiting := tThen tHandler fun t => { t with sfrq := [(0x1234, 3)] }
    tHandler.th.lev = true ∧ tHandler.th.sfrq = [] ∧ tHandler.th.ringNote = none ∧ tHandler.th.joinNote = none ∧
    waiting.th.lev = true ∧ waiting.th.sfrq ≠ [] ∧ waiting.tvec.get 0 waiting.th.asid.toNat ≠ 0 ∧
    tState.th.lev = false := by decide +kernel

theorem met_Privilege : tState.th.lev = false ∧ 0x010 ≤ (0x010#14).toNat ∧ (0x017#14).toNat ≤ 0x017 := by
  decide +kernel

theorem met_TokenReads :
    let p (r : Nat) (k : Tok) (v : Word) := tThen tState fun t => { t with tok := [(r, k)], s := [(6, v)] }
    (p 6 (.pending 4) 0).th.token 6 = .pending 4 ∧
    TokenFree (p 5 (.pending 4) 0) [6, 7] ∧ (p 5 (.pending 4) 0).th.token 5 = .pending 4 ∧
    (p 6 (.done 8) 0x0600000000000000).th.token 6 = .done 8 ∧ TokenFree (p 6 (.done 8) 0x0600000000000000) [7, 5] ∧
    1 ≤ ((p 6 (.done 8) 0x0100000000000000).th.S 6).toNat / 2 ^ 56 ∧
    ((p 6 (.done 8) 0x0600000000000000).th.S 6).toNat / 2 ^ 56 ≤ 6 ∧
    ((p 6 (.done 8) 0x00FFFFFFFFFFFFFF).th.S 6).toNat < 2 ^ 56 := by unfold TokenFree; decide +kernel

theorem met_AliasLoads_AliasStores :
    let at' (v : Word) : State := tBRegs [(6, v), (7, 5)]
    TokenFree (at' 0x1FFF8) [6, 5] ∧ TokenFree (at' 0x1FFF8) [6, 7] ∧
    (at' 0x1FFF8).pkg.fenced.getLsbD (dieOf (at' 0x1FFF8).me) = false ∧
    (at' 0x1FFFF).th.S 6 + (at' 0x1FFFF).th.imm14 0 = 0x1FFFF ∧ (0x1FFFF#64).toNat % 8 ≠ 0 ∧
    (at' 0x1FFF8).th.S 6 + (at' 0x1FFF8).th.imm14 0 = 0x1FFF8 ∧ (0x1FFF8#64).toNat < 0x20000 ∧
    (0x1FFF8#64).toNat % 8 = 0 ∧ (at' 0x1FFF8).storePending true (spadKey (at' 0x1FFF8).me 0x1FFF8) 8 = false ∧
    (at' 0x1FFF8).badGranule? (spadKey (at' 0x1FFF8).me 0x1FFF8) 8 = none ∧
    (at' 0x1FFF8).acquire.storePending true (spadKey (at' 0x1FFF8).me 0x1FFF8) 8 = false ∧
    ({ at' 0x1FFF8 with stores := [tPosted] } : State).unacked false = true ∧
    (at' 0x1FFF8).unacked (true) = false := by unfold TokenFree; decide +kernel

def tBulk : State := tBRegs [(6, 0x100000010), (7, 0x1122334455667788)]

theorem met_FarLoads :
    let s := ran (.ldw 5 6 0) tBulk
    TokenFree tBulk [6, 5] ∧ tBulk.th.S 6 + tBulk.th.imm14 0 = 0x100000010 ∧
    tBulk.dataPlace 0x100000010 8 .read = some (.bulk .hbm 0x20010) ∧ tBulk.unreachable (.bulk .hbm 0x20010) = false ∧
    tBulk.storePending false (tBulk.physKey tBulk.th.part 0x20010) 8 = false ∧
    (s.ctx 0).isRunning = true ∧ (s.thAt 0).wait = .load 5 4 true 0x20010 0x100000010 false 0 0x100000004 false ∧
    isControlKey 0x20010 = false ∧ s.keyRefreshing 0x20010 = false ∧ s.loadLost 0x20010 = false ∧
    s.badGranule? 0x20010 4 = none := by unfold TokenFree; decide +kernel

theorem met_FarLoads_line :
    let s : State := tThen tState fun t => { t with wait := .load 5 4 true (spadKey 1 8) 0x0010000000020008 true 0 0x100000004 false }
    let bad : State := { s with errors := [spadKey 1 16] }
    (s.ctx 0).isRunning = true ∧ s.portHolds (spadKey 1 8) none = false ∧ s.pendingOf 0 (lineOf (spadKey 1 8)) 64 = false ∧
    s.loadLost (spadKey 1 8) = false ∧ isControlKey (spadKey 1 8) = false ∧ s.badGranule? (spadKey 1 8) 4 = none ∧
    spadKey 1 8 % 64 + 4 ≤ 64 ∧ s.badGranule? (lineOf (spadKey 1 8)) 64 = none ∧
    bad.badGranule? (spadKey 1 8) 4 = none ∧ (bad.badGranule? (lineOf (spadKey 1 8)) 64).isSome = true ∧
    bad.loadLost (spadKey 1 8) = false ∧ (s.thAt 0).wait = .load 5 4 true (spadKey 1 8) 0x0010000000020008 true 0 0x100000004 false ∧
    rrcLookup ((ran (.loadDataReturn 0) s).core 0) (spadKey 1 8) = some (s.fetchLine (spadKey 1 8)) ∧
    ((ran (.loadDataReturn 0) bad).core 0).rrc = [] := by decide +kernel

theorem met_PostedStores :
    let s : State := { tBulk with stores := [tPosted] }
    let far : Posted := { tPosted with key := glacierKey 0 0x10, addr := 0x0020000000000010 }
    let bound : State := { s with stores := [far],
                                  bindings := [{ launch := some 1, domain := none, die := 0, first := 0, count := 1 }] }
    (TokenFree tBulk [6, 7] ∧ tBulk.dataPlace 0x100000010 8 .write = some (.bulk .hbm 0x20010)) ∧
    (tPosted.landed = false ∧ tPosted.rejected = none ∧ tPosted.lost = false ∧ tPosted.peer = none ∧
      tPosted.tag = none ∧ s.storeRefused tPosted = false ∧ s.storeBound tPosted = false ∧
      s.keyRefreshing tPosted.key = false ∧ isControlKey tPosted.key = false) ∧
    (far.landed = false ∧ far.rejected = none ∧ bound.storeRefused far = false ∧ bound.storeBound far = true) ∧
    ({ tPosted with landed := true }.peer = none ∧ { tPosted with rejected := some 9 }.peer = none ∧ 1 ≤ tPosted.tid) ∧
    (s.thAt 0).isTid tPosted.part tPosted.tid = true ∧ (s.thAt 0).sfrq.length < 8 := by unfold TokenFree; decide +kernel

theorem met_Fences :
    let near : State := { tB with stores := [tPosted] }
    let far : State := { tB with stores := [{ tPosted with peer := some 5 }] }
    let lost : State := { tB with stores := [{ tPosted with peer := some 5, lost := true }] }
    TokenFree near [5] ∧ (3#3) ≠ 4 ∧ (4#3).toNat ≤ 4 ∧ near.unacked false = true ∧ far.unacked false = false ∧
    far.unacked true = true ∧ lost.unacked true = false ∧ lost.lostPeers.length = 1 := by unfold TokenFree; decide +kernel

theorem met_Waiting :
    let s (a v : Word) := tBRegs [(6, a), (7, v)]
    let hit := tThen tB fun t => { t with wait := .wfeHit 9 }
    let asleep := tThen tB fun t => { t with wait := .wfe (spadKey 0 0x100) }
    let two : State := { tB with ctxs := [(0, { mode := .running, th := tThread }), (1, { mode := .running, th := tThread })] }
    (TokenFree (s 0x100 5) [6, 7, 5] ∧ (s 0x100 5).th.wait = .ready ∧
      (s 0x100 5).dataPlace 0x100 8 .read = some (.spad 0 0x100 true) ∧
      (s 0x100 5).storePending true (spadKey 0 0x100) 8 = false ∧ (s 0x100 5).badGranule? (spadKey 0 0x100) 8 = none ∧
      BitVec.ofNat 64 (Memory.readLE (s 0x100 5).mem (spadKey 0 0x100) 8) ≠ (s 0x100 5).th.S 7 ∧
      BitVec.ofNat 64 (Memory.readLE (s 0x108 0).mem (spadKey 0 0x108) 8) = (s 0x108 0).th.S 7) ∧
    ((0x0010000000000100#64).toNat / 2 ^ 52 = 1 ∧ (0x104#64).toNat % 8 ≠ 0 ∧
      (s 0x0010000000000100 5).dataPlace 0x0010000000000100 8 .read = some (.spad 0 0x100 false)) ∧
    hit.th.wait = .wfeHit 9 ∧ (asleep.thAt 0).wait = .wfe (spadKey 0 0x100) ∧
    ((userCtxs tB.me).filter fun k => k != tB.cur && tB.isReady k) = [] ∧
    ((userCtxs two.me).filter fun k => k != two.cur && two.isReady k) ≠ [] := by unfold TokenFree; decide +kernel

/-- A landing write at the last and first byte that overlap a waiting word, and at the bytes beside it. -/
theorem met_Waiting_bytes :
    let j := spadKey 0 0x100
    (j + 7 < j + 8 ∧ j < j + 7 + 1) ∧ (j - 3 < j + 8 ∧ j < j - 3 + 4) ∧ j + 8 ≤ j + 8 ∧ j - 1 + 1 ≤ j := by
  decide +kernel

theorem met_Finish :
    let nested := tThen tB fun t => { t with nest := true, join := 8 }
    tInline.th.flake = some tFlake ∧ tB.th.flake = none ∧ ({ tB with stores := [tPosted] } : State).unacked true = true ∧
    tB.unacked true = false ∧ tB.th.nest = false ∧ nested.th.flake = none ∧ nested.unacked true = false ∧
    nested.th.nest = true ∧ nested.th.join ≠ 0 := by decide +kernel

/-- ATOM and CAS at the alias' last doubleword, at an address of the own core, in bulk memory, and for another core. -/
theorem met_Atomics_places :
    let s := tHolds 0x1FFF8 {}
    s.resolve (s.th.issuer 0) 0x1FFF8 .atomic = .ok (.spad 0 0x1FFF8 true) ∧
    s.resolve (s.th.issuer 0) 0x0010000000000100 .atomic = .ok (.spad 0 0x100 false) ∧
    s.resolve (s.th.issuer 0) 0x100000010 .atomic = .ok (.bulk .hbm 0x10) ∧
    s.resolve (s.th.issuer 0) 0x0010000100000100 .atomic = .ok (.spad 1 0x100 false) :=
  ⟨eq_ok_of (by decide +kernel), eq_ok_of (by decide +kernel), eq_ok_of (by decide +kernel),
    eq_ok_of (by decide +kernel)⟩

theorem met_Atomics :
    let s := tHolds 0x1FFF8 (tCap 0 0 0x100 0x100 0x3F)
    (s.th.flake = none ∧ s.storePending true (spadKey 0 0x1FFF8) 8 = false ∧
      s.badGranule? (spadKey 0 0x1FFF8) 8 = none ∧ encodingOk (.atom 5 6 7 8 3 0) = true ∧ s.th.S 6 = 0x1FFF8 ∧ inScope s.me (.spad 0 0x1FFF8 true) 0 = true ∧
      TokenFree s [6, 7, 5] ∧ carries (.spad 0 0x1FFF8 true) (.rmw 0 8 0x77) = true) ∧
    (encodingOk (.atomCap 5 2 7 0 3) = true ∧ (s.th.cap 2).addr 0 = 0x0010000000000100 ∧
      s.capOk (s.th.cap 2) 0 8 [107] = true ∧ s.localPeer (s.th.cap 2) = true ∧
      inScope s.me (.spad 0 0x100 false) 7 = true) ∧
    (encodingOk (.cas 10 6 7 3 0) = true ∧ encodingOk (.casCap 10 2 7 3) = true ∧ TokenFree s [6, 7, 10, 11] ∧
      carries (.spad 0 0x100 false) (.cas 8 0x0700000000000080 0x77) = true ∧
      Memory.readLE s.mem (spadKey 0 0x1FFF8) 8 = 0 ∧ Memory.readLE s.mem (spadKey 0 0x100) 1 = 0x80 ∧
      (s.th.S 10).toNat % 256 ^ 1 = 0x80) ∧
    carries (.bulk .cxl 0x10000000010) (.rmw 0 8 0x77) = false ∧ carries (.bulk .cxl 0x10000000010) (.cas 8 0 0x77) = false ∧
    inScope s.me (.bulk .cxl 0x10000000010) 3 = true := by
  unfold TokenFree; decide +kernel

/-- A page of CXL memory, which carries no atomic. -/
theorem met_Atomics_uncarried :
    let s : State := { tBRegs [(6, 0x100000010)] with
      cores := [(0, { dtlb := [{ tTlb with frame := 0x10000000000 }] })],
      pkg := { State.reset.pkg with cxlCap := [(0, 0x1000)] } }
    s.resolve (s.th.issuer 0) 0x100000010 .atomic = .ok (.bulk .cxl 0x10000000010) := eq_ok_of (by decide +kernel)

theorem met_AtomicChecks :
    let s := tHolds 0x0010000100000100 {}
    s.th.flake = none ∧ encodingOk (.atom 5 6 7 0 2 0) = true ∧ TokenFree s [6, 7, 5] ∧ (0x102#64).toNat % 4 ≠ 0 ∧
    s.th.S 6 = 0x0010000100000100 ∧ inScope s.me (.spad 1 0x100 false) 0 = false ∧
    inScope s.me (.spad 1 0x100 false) 1 = true ∧ s.storePending false (spadKey 1 0x100) 4 = false ∧
    s.egressBlocked s.me 2 = false ∧ s.capOk (s.th.cap 7) 0 4 [107] = false := by unfold TokenFree; decide +kernel

/-- A barrier of the own core with this word, at offset 0x1FFE8, the last that has room for one. -/
def tBarrier (w : Nat) (b : Word) : State :=
  tPut (tPut (tBRegs [(6, 0x1FFE8), (7, b)]) (spadKey 0 0x1FFE8) 8 w) (spadKey 0 0x1FFF0) 8 0x33

theorem met_Barriers_place : (tBarrier 0 0).barrierAt ((tBarrier 0 0).th.S 6) = .ok ((tBarrier 0 0).me, 0x1FFE8) :=
  eq_ok_of (by decide +kernel)

theorem met_Barriers :
    let w (phase expected arrived error : Nat) := phase * 2 ^ 48 + expected * 2 ^ 32 + arrived * 2 ^ 16 + error * 2 ^ 8
    let ready (n : Nat) := (tBarrier n 9).unacked true = false ∧ (tBarrier n 9).barrierLate 0 0x1FFE8 = false ∧ barStage n = 0
    let sleeper := (tBarrier (w 9 5 2 0) 0x20005).setThAt 1 { tThread with wait := .barrier 0x1FFE8 9 }
    (TokenFree (tBarrier 0 0) [6, 7, 5] ∧ ((tBarrier 0 0x10000).th.S 7).toNat % 65536 = 0 ∧
      ((tBarrier 0 0x1FFFF).th.S 7).toNat % 65536 ≠ 0 ∧ (tBarrier 0 5).storePending true (spadKey 0 0x1FFE8) 24 = false ∧
      1 / 4 = sleeper.me ∧ (sleeper.thAt 1).wait = .barrier 0x1FFE8 9 ∧
      Memory.readLE sleeper.mem (spadKey 0 0x1FFE8) 8 / 2 ^ 48 % 65536 = 9) ∧
    (Memory.readLE (tBarrier (w 9 5 3 0) 9).mem (spadKey 0 0x1FFE8) 8 = w 9 5 3 0 ∧ barError (w 9 5 3 0) = 0 ∧
      ready (w 9 5 3 0) ∧ barArrived (w 9 5 3 0) + 1 < barExpected (w 9 5 3 0) ∧
      ready (w 65535 5 4 0) ∧ barArrived (w 65535 5 4 0) + 1 = barExpected (w 65535 5 4 0) ∧
      ready (w 9 5 5 0) ∧ barExpected (w 9 5 5 0) < barArrived (w 9 5 5 0) + 1) ∧
    ({ tBarrier (w 9 5 3 0) 9 with stores := [tPosted] } : State).unacked true = true ∧
    (barPhase (w 9 5 2 0) = ((tBarrier 0 9).th.S 7).toNat % 65536 ∧
      barPhase (w 9 5 2 0) ≠ ((tBarrier 0 10).th.S 7).toNat % 65536) ∧
    barError (w 9 5 2 1) ≠ 0 ∧ barExpected (w 9 65535 2 0) = 65535 ∧ barExpected (w 9 65534 2 0) ≠ 65535 ∧
    barExpected (w 9 1 0 0) = 1 ∧ barArrived (w 9 2 0 0) + 1 < barExpected (w 9 2 0 0) := by
  unfold TokenFree; decide +kernel

/-- A ring of four words at 0x1000, its header at 0x200. -/
def tQueue (enq deq w1 : Nat) : State :=
  tPut (tPut (tBRegs [(6, 0x0010000000000200), (7, 0xAABB)]) (spadKey 0 0x200) 8 (enq * 2 ^ 32 + deq)) (spadKey 0 0x208) 8 w1

theorem met_Rings_place : (tQueue 5 3 0).resolve ((tQueue 5 3 0).th.issuer 0) 0x0010000000000200 .atomic =
    .ok (.spad (tQueue 5 3 0).me 0x200 false) := eq_ok_of (by decide +kernel)

theorem met_Rings :
    let s := tQueue 6 3 0x02001000
    let header (s : State) := ringHeader (Memory.readLE s.mem (spadKey 0 0x200) 8) (Memory.readLE s.mem (spadKey 0 0x208) 8)
    encodingOk (.ringdeq 10 6) = true ∧ TokenFree s [6, 7, 10, 11] ∧ s.th.S 6 = 0x0010000000000200 ∧
    s.storePending false (spadKey 0 0x200) 16 = false ∧ s.th.ringFails + 1 < 65536 ∧
    header s = some (6, 3, 2, 0x1000) := by unfold TokenFree; decide +kernel

theorem met_Rings_headers :
    let header (s : State) := ringHeader (Memory.readLE s.mem (spadKey 0 0x200) 8) (Memory.readLE s.mem (spadKey 0 0x208) 8)
    header (tQueue 7 3 0x02001000) = some (7, 3, 2, 0x1000) ∧
    header (tQueue 3 3 0x02001000) = some (3, 3, 2, 0x1000) ∧ header (tQueue 8 3 0x02001000) = none ∧
    header (tQueue 5 3 0x02000210) = some (5, 3, 2, 0x210) ∧ 0x200 + 16 ≤ 0x210 ∧
    header (tQueue 5 3 0x020001E0) = some (5, 3, 2, 0x1E0) ∧ 0x1E0 + 8 * 2 ^ 2 ≤ 0x200 ∧
    (6 + 2 ^ 32 - 3) % 2 ^ 32 < 2 ^ 2 ∧ (7 + 2 ^ 32 - 3) % 2 ^ 32 = 2 ^ 2 ∧ (3 + 2 ^ 32 - 3) % 2 ^ 32 = 0 := by decide +kernel

theorem met_JoinCounters :
    let s (w : Nat) := tPut (tBRegs [(6, 0x0010000000000200)]) (spadKey 0 0x200) 8 w
    let noted := tThen (s 0x0001000000000000) fun t => { t with jn := true }
    TokenFree (s 0) [6, 5] ∧ (0x0010000000000204#64).toNat % 8 ≠ 0 ∧ (0x0010000000000200#64).toNat / 2 ^ 52 = 1 ∧
    (s 0).dataPlace 0x0010000000000200 8 .read = some (.spad 0 0x200 false) ∧
    (s 0).storePending false (spadKey 0 0x200) 8 = false ∧
    Memory.readLE (s 1).mem (spadKey 0 0x200) 8 % 2 ^ 48 ≠ 0 ∧ Memory.readLE (s 0).mem (spadKey 0 0x200) 8 / 2 ^ 48 = 0 ∧
    (s 0x0001000000000000).th.jn = false ∧ Memory.readLE noted.mem (spadKey 0 0x200) 8 / 2 ^ 48 ≠ 0 ∧
    noted.th.jn = true ∧ noted.th.nest = false ∧ noted.tvec.get 0 noted.th.asid.toNat ≠ 0 ∧
    isSpadKey (0x0010000000000200#64).toNat = true := by unfold TokenFree; decide +kernel

theorem met_Capabilities_place :
    let s := tHolds 0x0010000100000200 {}
    s.capPlace (s.th.S 6 + s.th.imm14 0) .read Cause.loadFault = .ok (.spad 1 0x200 false) := eq_ok_of (by decide +kernel)

theorem met_Capabilities :
    let s (x : Cap) := tHolds 0x1FFF0 x
    let own := s (tCap 0 0 0x200 0x100 0x3F)
    let range (off len : Word) (x : Cap) := tThen (s x) fun t => { t with s := [(6, off), (7, len)] }
    (TokenFree own [6] ∧ clusterOf 1 = clusterOf own.me ∧ own.storePending false (spadKey 1 0x200) 16 = false ∧
      own.badGranule? (spadKey 1 0x200) 16 = none ∧ (0x1FFF8#64).toNat % 16 ≠ 0 ∧ (0x1FFF0#64).toNat % 16 = 0 ∧
      own.storePending true (spadKey own.me 0x1FFF0) 16 = false ∧ own.th.flake = none) ∧
    (TokenFree own [6, 7] ∧ ((s {}).th.cap 2).tag = false ∧ ((range 0xC1 0x40 (tCap 0 0 0 0x100 0)).th.cap 2).length < 0xC1 + 0x40 ∧
      ((range 0xC0 0x40 (tCap 0 0 0 0x100 0)).th.cap 2).tag = true ∧
      0xC0 + 0x40 ≤ ((range 0xC0 0x40 (tCap 0 0 0 0x100 0)).th.cap 2).length) ∧
    (own.localPeer (own.th.cap 2) = true ∧ own.capOk (own.th.cap 2) 0xF9 8 [109] = false ∧
      own.capOk (own.th.cap 2) 0xF8 8 [109] = true ∧ own.capOk (own.th.cap 2) 4 8 [109] = true ∧
      ((own.th.cap 2).addr 4).toNat % 8 ≠ 0 ∧ ((own.th.cap 2).addr 0xF8).toNat % 8 = 0 ∧
      own.dataPlace ((own.th.cap 2).addr 0xF8) 8 .read = some (.spad own.me 0x2F8 false) ∧
      own.pkg.fenced.getLsbD (dieOf own.me) = false ∧ own.storePending false (spadKey own.me 0x2F8) 8 = false ∧
      own.badGranule? (spadKey own.me 0x2F8) 8 = none) ∧
    (own.capOk (own.th.cap 2) 0xF8 8 [108] = true ∧ own.capOk (own.th.cap 2) 0xF8 8 [108, 104] = true ∧
      own.dataPlace ((own.th.cap 2).addr 0xF8) 8 .write = some (.spad 0 0x2F8 false) ∧
      (s (tCap 0 0 0x200 0x100 0x20)).capOk (tCap 0 0 0x200 0x100 0x20) 0 8 [108] = false ∧
      (s (tCap 9 0 0x200 0x100 0x3F)).capOk (tCap 9 0 0x200 0x100 0x3F) 0 8 [108] = true ∧
      (s (tCap 9 0 0x200 0x100 0x3F)).localPeer (tCap 9 0 0x200 0x100 0x3F) = false) := by
  unfold TokenFree; decide +kernel

/-- A header in s6, a join counter's address in s5 and a buffer's in s7. -/
def tHeader (h j : Word) : State := tBRegs [(6, h), (5, j), (7, 0x1FF10)]

theorem met_Sending :
    let s := tHeader (mkHeader 0 2 5 30 false 77 0x12) 0x0010000000000300
    let i := tHeader (mkHeader 1 2 5 30 false 31 12) 0
    let f := { tFlake with code := [1, 2, 3, 4, 5] }
    let flake := tThen i fun t => { t with flake := some f }
    (TokenFree s [6, 28, 29, 30, 31] ∧ (28#5).toNat + 4 ≤ 32 ∧ hKind (i.th.S 6) ≠ 0 ∧ hKind (s.th.S 6) = 0 ∧
      ({ s with stores := [tPosted] } : State).unacked true = true ∧ s.unacked true = false ∧
      s.egressBlocked s.me 2 = false) ∧
    (TokenFree i [6, 7] ∧ hKind (i.th.S 6) = 1 ∧ hEntry (i.th.S 6) = 12 ∧ hCount (i.th.S 6) = 31 ∧
      1 + (12 + 1) / 2 ≤ 31 ∧ (i.th.S 7).toNat % 8 = 0 ∧ (i.th.S 7).toNat + 8 * 30 = 0x20000 ∧
      i.storePending true (spadKey i.me 0x1FF10) (8 * 30) = false ∧
      i.badGranule? (spadKey i.me 0x1FF10) (8 * 30) = none ∧ i.egressBlocked i.me (hPrio (i.th.S 6)) = false) ∧
    (flake.th.flake = some f ∧ (4#4).toNat < f.code.length ∧ 1 + (5 - 0 + 1) / 2 + 27 ≤ 31 ∧ (5#5).toNat + 27 ≤ 32 ∧
      flake.stopAt flake.me = false) ∧
    (TokenFree s [6, 5, 30, 31] ∧ (0x300#64).toNat / 2 ^ 52 ≠ 1 ∧ (0x0010000000000300#64).toNat / 2 ^ 52 = 1 ∧
      s.dataPlace 0x0010000000000300 8 .atomic ≠ none ∧ s.egressBlocked s.me s.th.level = false) := by
  unfold TokenFree; decide +kernel

/-- A message of the same priority that waits for the mesh keeps the next one waiting. -/
theorem met_Sending_egress :
    let s : State := { tHeader (mkHeader 0 2 5 30 false 77 0x12) 0 with mesh := [{ tMsg with blocked := true }] }
    s.egressBlocked s.me (hPrio (s.th.S 6)) = true := by decide +kernel

theorem met_Migration :
    let s := tBRegs [(6, 0x0010000100000200)]
    TokenFree s [6, 5] ∧ s.th.level < 4 ∧ (s.th.S 6).toNat / 2 ^ 52 = 1 ∧
    s.dataPlace 0x0010000100000200 1 .read = some (.spad 1 0x200 false) ∧ s.me = 0 ∧
    ({ s with stores := [tPosted] } : State).unsettled s.cur = true ∧ s.unsettled s.cur = false ∧
    clusterOf 1 = clusterOf s.me ∧ s.th.grant = 0 ∧ s.egressBlocked s.me s.th.level = false ∧
    (tThen s fun t => { t with slabs := 3 }).th.grant ≠ 0 := by unfold TokenFree; decide +kernel

theorem met_QueueRegisters :
    let s (r n : Nat) : State := { tBRegs [(6, 0x77)] with cores := [(0, { queues := [(r, List.replicate n 4)] })] }
    let with' (s : State) (w : Wait) : State := s.setThAt 1 { tThread with tid := 2, wait := w }
    TokenFree (s 2 0) [5] ∧ ((s 2 0).core 0).queue 2 = [] ∧ ((s 2 8).core 0).queue 2 = 4 :: List.replicate 7 4 ∧
    (s 2 8).queueSleeper 0 2 false = none ∧
    ({ with' (s 2 8) (.queueWrite 2 0x99 3) with
        ctxs := [(0, tCtx tThread), (1, tCtx { tThread with tid := 2, wait := .queueWrite 2 0x99 3 })] } : State).queueSleeper
        0 2 false = some 1 ∧
    TokenFree (s 3 8) [6] ∧ (s 3 8).queueSleeper 0 3 true = none ∧ 8 ≤ (((s 3 8).core 0).queue 3).length ∧
    (((s 3 7).core 0).queue 3).length < 8 ∧ 32 ≤ (((s 4 32).core 0).queue 4).length ∧
    (((s 4 31).core 0).queue 4).length < 32 ∧
    ({ s 4 0 with
        ctxs := [(0, tCtx tThread), (1, tCtx { tThread with tid := 2, wait := .queueRead 4 7 3 })] } : State).queueSleeper
        0 4 true = some 1 := by unfold TokenFree; decide +kernel

theorem met_StateRegisters_SpecialFields :
    let s := tSup [(6, 0xA5A5F0F03C3C9669)]
    let queued := tThen s fun t => { t with sfrq := List.replicate 8 (0x55, 1) }
    s.th.lev = true ∧ TokenFree s [6] ∧ TokenFree s [5] ∧ tB.mirrorOf = none ∧ s.mirrorOf = some (0x100002010, 3) ∧
    queued.th.lev = true ∧ queued.th.sfrq.length ≤ 8 ∧ (0x015#14).toNat = 0x015 := by unfold TokenFree; decide +kernel

theorem met_StateRegisters_mirror :
    (tSup []).resolve ⟨some 0, 0, 3, true, false⟩ 0x100002010 .write = .ok (.bulk .hbm 0x2010) := eq_ok_of (by decide +kernel)

theorem met_TimeReads :
    let s := tSup [(6, 5), (7, 6)]
    (30#5).toNat % 2 = 0 ∧ TokenFree s [30, 31] ∧ (31#14).toNat < 32 ∧ (32#14).toNat = 32 ∧ TokenFree s [6, 5] ∧
    TokenFree s [7, 5] ∧ s.launches.look? s.th.launch = some { tLaunch with domain := some 0x1000 } ∧
    (s.th.S 6).toNat < (s.part s.th.part).clkgen.toNat ∧ (s.part s.th.part).clkgen.toNat ≤ (s.th.S 7).toNat := by
  unfold TokenFree; decide +kernel

theorem met_Generations :
    let s := tSup [(6, 0xFFFF0003)]
    let asked := tThen s fun t => { t with wait := .tlbgen 5 3 5 }
    let stored (k : Nat) (g : BitVec 32) : State :=
      { s with stores := [{ tPosted with ctx := k, addr := 0x100000010, gen := g }] }
    let old (k : Nat) : State := stored k 0xFFFFFFFF
    s.th.lev = true ∧ TokenFree s [6, 5] ∧ s.th.wait = .ready ∧ s.unacked true = false ∧ (old 0).unacked true = true ∧
    asked.th.wait = .tlbgen 5 3 5 ∧ asked.generationPending 3 5 = false ∧
    s.olderAccess (some 0) s.th.asid 0 = false ∧ s.olderAccess none s.th.asid 0 = false ∧
    (old 95).olderAccess (some 0) s.th.asid 0 = true ∧ (old 96).olderAccess none s.th.asid 0 = true ∧
    (old 96).olderAccess (some 0) s.th.asid 0 = false ∧ (stored 0 7).olderAccess none s.th.asid 0 = false ∧
    s.walk 0 3 ((0x100001234#64).toNat % 2 ^ 52) = some { size := 2 ^ 30, frame := 0, perm := 15 } := by
  unfold TokenFree; decide +kernel

theorem met_ContextInstructions :
    let s := tSup [(6, 1), (7, 0x100010000), (8, 2), (9, 3)]
    let image := s.imageAddr s.th.part s.th.asid (s.th.S 7)
    (s.th.lev = true ∧ TokenFree s [6, 7, 5] ∧ s.th.part * 2 ^ 32 + (s.th.S 6).toNat % 2 ^ 32 = s.th.launch) ∧
    (2 ≠ s.th.launch ∧ s.stopRefused 0 3 image ≠ none ∧ s.launches.look? 2 = some { tLaunch with lid := 2 } ∧
      ({ tLaunch with lid := 2 } : Launch).isFloe = false ∧ image = some 0x10000 ∧ s.requestStopping 0 = false) ∧
    (0x100010020#64).toNat % 64 ≠ 0 ∧ (s.th.S 7).toNat % 64 = 0 ∧ s.unacked true = false := by
  unfold TokenFree; decide +kernel

/-- A group of three threads at two cores: thread 1 in context 0 runs an operation, 2 and 3 have arrived. -/
def tGroup (k : GroupOpKind) (g : Group) (w : Wait) : State :=
  { tPart tP fun p => { p with ops := [⟨k, 1, 0, 17, 5, 0⟩], groups := [(17, g)] } with
    nTime := 160 * 65536
    ctxs := [(0, tCtx { tThread with wait := w }), (1, tCtx { tThread with tid := 2, wait := .groupBar 17 6 true false }),
             (8, tCtx { tThread with tid := 3, wait := .groupBar 17 6 true false })] }

theorem met_Groups :
    let s := tPRegs [(6, 4095), (7, 4096)]
    let full := tGroup .arrive { members := [1, 2, 3], opened := true, count := 3, arrived := [3, 2] } (.groupBar 17 5 false false)
    (TokenFree s [6, 5] ∧ TokenFree s [7, 5] ∧ s.th.wait = .ready ∧ 4095 < (s.th.S 7).toNat ∧ (s.th.S 6).toNat ≤ 4095) ∧
    (tThen s fun t => { t with wait := .gkill 5 3 [] }).th.wait = .gkill 5 3 [] ∧
    (let j := tGroup .join { members := [2, 3] } .directory
     directoryNext j.nCycle (j.part 0).ops = some (⟨.join, 1, 0, 17, 5, 0⟩, []) ∧ (j.thAt 0).isTid 0 1 = true ∧
       1 ∉ ((j.part 0).groups.get {} 17).members ∧ (j.groupsOf 0 1).length < 8 ∧ (j.thAt 0).wait = .directory) ∧
    (let l := tGroup .leave { members := [1, 2] } .directory
     directoryNext l.nCycle (l.part 0).ops = some (⟨.leave, 1, 0, 17, 5, 0⟩, []) ∧ 1 ∈ ((l.part 0).groups.get {} 17).members ∧ ((l.part 0).groups.get {} 17).opened = false) ∧
    (let x := (full.part 0).groups.get {} 17
     1 ∈ x.members ∧ x.opened = true ∧ x.count = x.arrived.length + 1 ∧ x.held = [] ∧ 1 ∉ x.late ∧
       3 ∈ x.arrived ++ [1] ∧ (full.thAt 8).isTid 0 3 = true ∧ (full.thAt 8).wait = .groupBar 17 6 true false) ∧
    (let k := tGroup .kill { members := [1, 2, 3] } .directory
     (k.thAt 0).killed = false ∧ k.parkedThreads 0 ([1, 2, 3].erase 1) = [] ∧ 1 ∉ [1, 2, 3].erase 1 ∧
       (k.thAt 8).isTid 0 3 = true) := by unfold TokenFree; decide +kernel

/-- Cell 0 with positions 0, 1 and 5 in the mask; the contexts of positions 1 and 5 wait at these. -/
def tCell (w0 w1 : Wait) : State :=
  let th : Thread := { tThread with cellmask := 0b100011, slabs := 1, vl := 6, s := [(7, 0x400)] }
  { tBRegs [] with
    ctxs := [(0, tCtx th), (5, tCtx { th with tid := 5, wait := w0 }), (22, tCtx { th with tid := 6, wait := w1 })] }

/-- A join before a kill of its group in one cycle, before one of another cycle, and alone. -/
theorem met_Groups_order :
    let o (k : GroupOpKind) (cycle : Nat) : GroupOp := ⟨k, 1, 0, 17, 5, cycle⟩
    (o .leave 3).kind ≠ .join ∧ (o .join 3).kind = .join ∧
    (∀ x ∈ [o .leave 3, o .kill 4], ¬ (x.kind = .kill ∧ x.g = (o .join 3).g ∧ x.cycle = (o .join 3).cycle)) ∧
    ((o .kill 3).kind = .kill ∧ (o .kill 3).g = (o .join 3).g ∧ (o .kill 3).cycle = (o .join 3).cycle) ∧
    (∃ x ∈ [o .leave 3, o .kill 3], x.kind = .kill ∧ x.g = (o .join 3).g ∧ x.cycle = (o .join 3).cycle) ∧
    directoryNext 1 (tGroup .join {} .ready |>.part 0).ops ≠ none ∧
    directoryNext tP.nCycle (tP.part 0).ops = none := by decide +kernel

theorem met_WiredOperations :
    let m : BitVec 8 := 0b100011
    let s := tCell (.wired .gbar m) (.wired .gbar m)
    let one := tCell (.wired .gbar m) .ready
    let x := tCell (.wired (.vxall 3 2 6) m) (.wired (.vxall 4 2 6) m)
    let w : CmdWord := BitVec.ofNat 256 (2 ^ 248 + 77)
    let g := tPut (tCell (.wired (.gissue w 4) m) (.wired (.gissue w 3) m)) (spadKey 0 0x400) 32 (2 ^ 248 + 77)
    let alone (s : State) (k : WKind) : State := s.sleep (.wired k m)
    ((s.ctx s.cur).isRunning = true ∧ s.cur % 4 ≠ 3 ∧ s.th.imx = none ∧ s.th.flake = none ∧
      m.getLsbD (posOf s.me) = true ∧ s.arrivalOf s.me = none ∧
      (∀ k ∈ cellCtxs 0, (s.thAt k).arrival ≠ none → s.arrivalOf (coreOfCtx k) = some k ∧
        m.getLsbD (posOf (coreOfCtx k)) = true) ∧
      (alone s .gbar).wiredSet 0 m = some [0, 5, 22] ∧ (alone one .gbar).wiredSet 0 m = none) ∧
    (x.th.grant ≠ 0 ∧ (alone x (.vxall 7 1 6)).wiredSet 0 m = some [0, 5, 22] ∧ x.th.vl ≤ 256 ∧
      x.th.vl % ((alone x (.vxall 7 1 6)).vxallMembers [0, 5, 22]).length = 0 ∧
      countOnes (m.setWidth 64) 8 = ((alone x (.vxall 7 1 6)).vxallMembers [0, 5, 22]).length) ∧
    (TokenFree g [5, 7] ∧ g.pkg.fenced.getLsbD (dieOf g.me) = false ∧ g.storePending true (spadKey 0 0x400) 32 = false ∧
      g.badGranule? (spadKey 0 0x400) 32 = none ∧ BitVec.ofNat 256 (Memory.readLE g.mem (spadKey 0 0x400) 32) = w ∧
      w.cls = 0 ∧ g.reservedHeld g.me = false ∧ g.unacked true = false ∧
      (alone g (.gissue w 5)).wiredSet 0 m = some [0, 5, 22]) := by unfold TokenFree; decide +kernel

theorem met_WiredOperations_waiting :
    let m : BitVec 8 := 0b100011
    let s := tCell (.wired .gbar m) .ready
    ∀ k ∈ cellCtxs 0, ∀ x ∈ (s.thAt k).arrival, x.2 = m := by decide +kernel

/-- A thread of core 1, whose mirror is core 24, with an offset and a length. -/
def tSwap (off len : Word) (others : Tbl Ctx) : State :=
  { tState with cur := 4, ctxs := (4, tCtx { tThread with s := [(6, off), (7, len)] }) :: others }

theorem met_MirrorSwap :
    let fits (off len : Nat) := off % 64 = 0 ∧ len % 64 = 0 ∧ 64 ≤ len ∧ len ≤ 65536 ∧ off + len ≤ 0x20000
    let s := tSwap 0x1FFC0 64 []
    let arrived (off len : Nat) := tSwap 0x1FFC0 64 [(98, tCtx { tThread with tid := 4, wait := .tswap off len })]
    (TokenFree s [6, 7] ∧ s.cur < 9216 ∧ fits 0x1FFC0 64 ∧ fits 0x10000 65536 ∧ ¬ fits 0x1FFC0 128 ∧ ¬ fits 0x20 64 ∧
      ¬ fits 0x40 0 ∧ ¬ fits 0x40 65600) ∧
    (coreAt (dieOf s.me) (colOf s.me) (rowOf s.me) = 24 ∧ s.hasCore 0 24 = true ∧
      (tPart s fun p => { p with clusters := 1 }).hasCore 0 24 = false ∧ coreAt 0 (colOf 0) (rowOf 0) = 0) ∧
    s.storePending true (spadKey 1 0x1FFC0) 64 = false ∧ s.tswapOf 1 = none ∧ s.tswapOf 24 = none ∧
    (arrived 0x1FFC0 64).tswapOf 24 = some (98, 0x1FFC0, 64) ∧ s.badGranule? (spadKey 1 0x1FFC0) 64 = none ∧
    s.badGranule? (spadKey 24 0x1FFC0) 64 = none ∧ (arrived 0x1FF80 64).tswapOf 24 = some (98, 0x1FF80, 64) := by
  unfold TokenFree; decide +kernel

/-- A command word of this class and mode at the alias' last 32 bytes. -/
def tKick (cls mode : Nat) : State :=
  tPut (tBRegs [(6, 0x1FFE0), (7, 3)]) (spadKey 0 0x1FFE0) 32 (2 ^ 248 + cls * 2 ^ 244 + mode * 2 ^ 232)

def tJob (word : Nat) : Job :=
  (tThread.newJob 0 (BitVec.ofNat 256 word) false [⟨0, 1, 5, 0, 8⟩] 0)

theorem met_Kicks :
    let s := tKick 2 0
    let w (cls mode : Nat) : CmdWord := BitVec.ofNat 256 (Memory.readLE (tKick cls mode).mem (spadKey 0 0x1FFE0) 32)
    let full : State := { s with jobs := (upFrom 200 24).map fun n => (n, tJob (2 ^ 248 + 2 * 2 ^ 244)) }
    let asleep := full.setThAt 0 { full.thAt 0 with wait := .jobQueue 2 }
    TokenFree s [5, 6, 7] ∧ s.th.flake = none ∧ s.pkg.fenced.getLsbD (dieOf s.me) = false ∧ (0x1FFF0#64).toNat % 32 ≠ 0 ∧
    (s.th.S 6).toNat % 32 = 0 ∧ s.storePending true (spadKey 0 0x1FFE0) 32 = false ∧
    s.badGranule? (spadKey 0 0x1FFE0) 32 = none ∧ 3 ≤ (w 3 0).cls ∧ (w 2 0).mode = 0 ∧ (w 2 0).cls ≤ 2 ∧
    (w 2 1).mode ≠ 0 ∧ s.unacked true = false ∧ s.jobQueueFull 2 0 0 = false ∧ full.jobQueueFull 2 0 0 = true ∧
    (asleep.thAt 0).wait = .jobQueue 2 ∧ asleep.jobQueueFull 2 (coreOfCtx 0) (asleep.thAt 0).part = true ∧
    ((s.setThAt 0 (asleep.thAt 0)).thAt 0).wait = .jobQueue 2 ∧ (5#5) ≠ 6 := by unfold TokenFree; decide +kernel

theorem met_Lanes :
    let s := tThen (tBRegs [(6, 257), (7, 16), (8, 15)]) fun t => { t with request := 1, slabs := 1, vl := 32 }
    let busy : State := { s with
      jobs := [(90, { tJob (2 ^ 248) with mask := 1 })] }
    TokenFree s [6, 5] ∧ TokenFree s [8] ∧ s.th.request ≠ 0 ∧ tB.th.request = 0 ∧ s.th.grant ≠ 0 ∧ tB.th.grant = 0 ∧
    15 < (s.th.S 7).toNat ∧ (s.th.S 8).toNat ≤ 15 ∧ s.th.wait = .ready ∧ s.th.vl ≤ s.th.grant ∧
    s.sliceBusy s.me s.nextId = false ∧ busy.sliceBusy busy.me busy.nextId = true := by unfold TokenFree; decide +kernel

/-! ### Launches, floes and time -/

/-- A block of one thread for ASID 3 of partition 0, accepted by the check. -/
def tBlock : Block := [(1, 0x100000001), (11, 3)]

def tSlot (x : Slot) : State := (tSup []).setSlot 0 5 x

/-- The supervisor's state with one launch alone, as entry 1 of the table. -/
def tOne (l : Launch) : State := { tSup [] with launches := [(1, l)], domains := [] }

theorem met_LaunchControl :
    let armed (b : Block) (bad : Bool) := tSlot { state := 1, block := b, badArm := bad }
    let waiting := { tLaunch with state := .waiting, block := tBlock, met := 0xF }
    let sending := { tLaunch with state := .distributing, block := tBlock }
    let idle : State := { tOne tLaunch with ctxs := [] }
    (0x7FF8 < 0x8000 ∧ 0x7FF8 % 8 = 0 ∧ ((tSup []).slot 0 63).state ≠ 1 ∧ ((armed tBlock false).slot 0 5).state = 1) ∧
    ((armed tBlock true).rejectReason 0 true false tBlock = some 1 ∧
      (armed tBlock false).rejectReason 0 false false tBlock = none ∧ Block.action tBlock ≠ 1) ∧
    ((tOne waiting).launches.look? 1 = some waiting ∧ waiting.lid = 1 ∧
      (tOne waiting).waitOverFor waiting = true ∧ waiting.isFloe = false ∧
      (tOne sending).nextSpawner 0 = some sending ∧ idle.launches.look? 1 = some tLaunch ∧ tLaunch.state = .running ∧
      tLaunch.resume = none ∧ idle.launchLives 1 = false) := by decide +kernel

theorem met_LaunchesTabled (l : Launch) (h : l.lid = 1) : LaunchesTabled (tOne l) := by
  simp [LaunchesTabled, tOne, tSup, h]

theorem met_ImageSets :
    let s := tSup []
    let saved : State := { s with parts := [(0, { s.part 0 with preimage := 0x30000 })] }
    let stopping := { tLaunch with stopping := true, image := 0x10000 }
    let restoring := { tLaunch with stopping := true, resume := some 0x10000 }
    let swapped := { tLaunch with state := .swapped }
    let i : Image := { launch := 1, name := 0x100010000, previous := none }
    let f (st : FloeState) : Floe := { id := 9, coordinator := 0, members := [0], launch := 1, part := 0, state := st }
    let gone (st : FloeState) : State := { tOne swapped with floes := [(9, f st)] }
    (s.stopRefused 0 9 none = some 2 ∧ saved.launches.look? 2 = some { tLaunch with lid := 2 } ∧
      tLaunch.isFloe = false ∧ saved.physImage 0 (saved.part 0).preimage = some 0x30000 ∧
      saved.requestStopping 0 = false) ∧
    ((tOne stopping).requestSettled stopping = true ∧ stopping.depth ≤ 15) ∧
    (restoring.state = .running ∧ restoring.stopping = true ∧ restoring.resume = some 0x10000 ∧
      ({ tOne restoring with images := [(0x10000, i)] } : State).images.look? 0x10000 = some i) ∧
    (restoring.refilling = false ∧ (tOne restoring).jobs.any (fun j => j.2.refills 1) = false) ∧
    (let ends := { swapped with discarded := true }
     let alone : State := { tOne ends with ctxs := [] }
     ends.state = .swapped ∧ ends.discarded = true ∧ alone.launchLives 1 = false ∧ (tOne ends).launchLives 1 = true) ∧
    ((gone .frozen).floeOf 1 = some (f .frozen) ∧ (gone .broken).floeOf 1 = some (f .broken)) := by decide +kernel

def tShare (st : Steps) : Part := { pwrshare := 1000, evalDue := true, steps := st }
def tDue (st : Steps) : State := { tOne tLaunch with parts := [(0, tShare st)] }

theorem met_Clocks_feasible : ∃ t ∈ allTuples, (tShare {}).feasible t = true :=
  ⟨lowestSteps, by simp only [allTuples, List.mem_flatMap, List.mem_map]
                   exact ⟨4, by decide, 4, by decide, 4, by decide, 7, by decide, rfl⟩, by decide⟩

theorem met_Clocks_evaluation (st : Steps) :
    (tDue st).mayEvaluate 0 = true ∧ (tDue st).governing 0 = some tLaunch ∧ tLaunch.uniform = false ∧
    ((tDue st).part 0).moving = none ∧ (tDue st).cutting 0 = false := ⟨rfl, rfl, rfl, rfl, rfl⟩

theorem constant_differs {f : Steps → Steps} (g : Steps) (h : ∀ st, f st = g) : ∃ st, f st ≠ st :=
  ⟨{ g with m := g.m + 1 }, fun e => absurd (congrArg Steps.m ((h _).symm.trans e)) (Nat.ne_of_lt (Nat.lt_succ_self _))⟩

theorem grantFor_of_feasible {p q : Part} (h : p.feasible = q.feasible) (w : Word) : p.grantFor w = q.grantFor w := by
  unfold Part.grantFor
  rw [h]

theorem grantFor_tDue (w : Word) (st : Steps) : ((tDue st).part 0).grantFor w = (tShare {}).grantFor w :=
  grantFor_of_feasible rfl w

/-- A grant that differs from the target. -/
theorem met_Clocks_target (w : Word) : ∃ st, ((tDue st).part 0).grantFor w ≠ ((tDue st).part 0).target :=
  constant_differs _ (grantFor_tDue w)

theorem met_Clocks :
    let moving : State := { tDue {} with parts := [(0, { moving := some { steps := lowestSteps } })] }
    (moving.part 0).moving = some { steps := lowestSteps } ∧ (moving.part 0).waiting = none ∧
    ({ tDue {} with launches := [] } : State).governing 0 = none ∧
    min 3000 (max 1000 (0 % 65536)) ≠ moving.pkg.pwrcap.toNat ∧
    min 3000 (max 1000 (moving.pkg.pwrcap.toNat % 65536)) = moving.pkg.pwrcap.toNat := by decide +kernel

/-- A floe of this chip and chip 7, coordinated here, and its launch. -/
def tFloe (f : Floe) (l : Launch) : State := { tOne l with floes := [(9, f)], pkg := { State.reset.pkg with chip := 0 } }
def tMember : Floe := { id := 9, coordinator := 0, members := [0, 7], launch := 1, part := 0, state := .running, epoch := 4 }

/-- The hypotheses on a floe of this chip that every clause has. -/
def tFloeOk (f : Floe) : Bool :=
  decide ((tFloe f tLaunch).floes.look? 9 = some f) && f.id == 9 && f.state != .done &&
    decide ((tFloe f tLaunch).launches.look? f.launch = some tLaunch) && tLaunch.lid == f.launch &&
    f.coordinator == (tFloe f tLaunch).pkg.chip

theorem met_FloeMessages_epoch :
    let ended : Launch := { tLaunch with state := .ended }
    let past : Floe := { tMember with unscheduled := true }
    let waits : Floe := { tMember with state := .frozen }
    let full (n : Nat) : State :=
      { tFloe tMember tLaunch with heldFloe := List.replicate n ⟨11, .cut, 8, 0, 7, 0, false, 0⟩ }
    tFloeOk tMember = true ∧ tMember.lawful 4 = true ∧ tMember.lawful 5 = true ∧ tMember.lawful 6 = false ∧
    tMember.lawful 3 = true ∧ tMember.lawful 2 = false ∧ waits.lawful 6 = true ∧ waits.lawful 7 = false ∧
    tLaunch.state ≠ .ended ∧ (7, 3, 5) ∉ tMember.markers ∧ tMember.unscheduled = false ∧ past.unscheduled = true ∧
    past.state = .running ∧ 5 = past.epochOf .cut ∧ past.lawful 5 = true ∧ tMember.actedFor .cut 4 = true ∧
    tMember.actedFor .cut 5 = false ∧ tMember.actedFor .launch 4 = true ∧
    ({ tMember with state := .armed } : Floe).actedFor .launch 4 = false ∧ tMember.preparing = none ∧
    tMember.state.breakable = true ∧ tMember.minimum = none ∧
    (ended.state = .ended ∧ (tFloe waits ended).floes.look? 9 = some waits ∧ waits.state = .frozen ∧ waits.epoch < 5 ∧
      waits.lawful 5 = true ∧ (tFloe waits ended).launches.look? waits.launch = some ended) ∧
    (tFloe tMember tLaunch).floes.look? 8 = none ∧ (full 63).heldFloe.length < 64 := by decide +kernel

theorem met_FloeMessages_replies :
    let ready (cs : List Nat) : Floe := { tMember with preparing := some (.cut, 5), readies := cs }
    let back (b : FloeState) (a : FloeAction) : Floe := { tMember with state := .fallback, back := b, action := a, votedFor := a }
    (tFloeOk (ready [0]) = true ∧ (ready [0]).preparing = some (.cut, 5) ∧
      ∀ c ∈ tMember.members, c = 7 ∨ c ∈ (ready [0]).readies) ∧
    (tFloeOk (ready []) = true ∧ 0 ∈ tMember.members ∧ 0 ∉ (ready []).readies ∧ 7 ∉ (ready []).readies) ∧
    (tFloeOk (back .armed .resume) = true ∧ (back .armed .resume).votedFor = .resume ∧
      5 = (back .armed .resume).epochOf .resume ∧ (back .armed .resume).action = .resume ∧
      (back .armed .resume).lawful 5 = true ∧ tFloeOk (back .running .cut) = true ∧
      5 = (back .running .cut).epochOf .cut ∧ (back .running .cut).lawful 5 = true) := by decide +kernel

theorem met_FloeMessages_ends :
    let cutting (cs : List (Nat × Nat)) : Floe :=
      { tMember with state := .cutting, reports := cs, deadline := some 1000, imaged := true }
    let ending : Floe := { tMember with endeds := [0] }
    let granted : Floe := { tMember with minimum := some tMember.minimumNow }
    let lower : Floe := { tMember with minimum := some lowestSteps }
    (tFloeOk (cutting [(0, 4)]) = true ∧ (tFloe (cutting [(0, 4)]) tLaunch).time.ns ≤ 1000 ∧
      (∀ c ∈ tMember.members, c = 7 ∨ (c, 4) ∈ (cutting [(0, 4)]).reports) ∧ tFloeOk (cutting []) = true ∧
      (0, 4) ∉ (cutting []).reports ∧ (7, 4) ∉ (cutting []).reports ∧ (cutting []).state = .cutting ∧
      (cutting []).imaged = true ∧ 4 = (cutting []).epoch ∧ tLaunch.state ≠ .ended) ∧
    (tFloeOk granted = true ∧ granted.minimum ≠ none ∧ tFloeOk lower = true ∧
      lower.minimum ≠ some ({ lower with feas := lower.feas.insert 7 (Steps.ofCodes 0) } : Floe).minimumNow) ∧
    tFloeOk ending = true ∧ (∀ c ∈ tMember.members, c = 7 ∨ c ∈ ending.endeds) ∧ 0 ∉ tMember.endeds := by
  decide +kernel

theorem met_FloeActions :
    let l : Launch := { tLaunch with block := [(0, 0x400000000000000), (24, 1000), (25, 1000), (27, 0x100000000)] ++ tBlock,
                                     clock := 0x100000000 }
    let waiting : Launch := { l with state := .waiting, met := 0xF }
    let near : Floe := { tMember with grants := [({}, 1000), ({}, 1001)] }
    let armed : Floe := { tMember with state := .armed }
    let ready : Floe := { tMember with state := .fallback, back := .armed, prepared := true, votedFor := .launch }
    let s (f : Floe) (l : Launch) : State := { tFloe f l with time := { ns := 1000, u := 0 } }
    let l' : Launch := { l with block := [(0, 0x400000000000000), (24, 201000), (25, 1000), (49, 0x100010000)] ++ tBlock }
    let done : Floe := { tMember with state := .cutting, recorded := false, markers := [(7, 0, 4), (7, 1, 4), (7, 3, 4)] }
    let quiet : State := { s done l' with ctxs := [] }
    ((s tMember l).minimumDue tMember l = true ∧ (s tMember l').minimumDue tMember l' = true) ∧
    ((s near l).grantDue near = some ({}, 1000) ∧ ((s near l).part 0).moving = none ∧ (s near l).cutting 0 = false) ∧
    (armed.state = .armed ∧ (s armed waiting).waitOverFor waiting = true ∧ (s armed waiting).voteDue armed waiting = false) ∧
    (ready.state = .fallback ∧ ready.prepared = true ∧ ready.votedFor ≠ .cut ∧ ready.readySent = false ∧ (s ready waiting).waitOverFor waiting = true) ∧
    (s tMember l).cutDue tMember l = true ∧
    (done.state = .cutting ∧ quiet.cutSettled done = true ∧
      quiet.imageAddr l'.part (Block.asid l'.block) (Block.cutImage l'.block) = some 0x10000) ∧
    (let late : Floe := { done with deadline := some 999 }
     late.state = .cutting ∧ late.deadline = some 999 ∧ late.coordinator = (s late l).pkg.chip ∧ 999 < (s late l).time.ns) ∧
    ({ s tMember l with time := { ns := 1000, u := 1 } } : State).voteDue tMember l = true := by decide +kernel

theorem met_DeviceTime :
    let s : State := { tSup [] with time := { ns := 1000, frac := 65535, source := some 3 } }
    let t (u : TimeUnit) : State := { s with time := u }
    let role : State := { s with pkg := { s.pkg with ptprole := 0x9 } }
    (s.time.frac < 65536 ∧ s.time.source = some 3) ∧
    ((t { s.time with sync := some (9, 5, 6) }).time.sync = some (9, 5, 6)) ∧
    ((t { s.time with request := some (9, 5), last := some (1, 2) }).time.request = some (9, 5)) ∧
    (role.isMaster 2 = true ∧ role.pkg.mayFollow 3 = true ∧ role.pkg.mayFollow 1 = true ∧
      role.intervalDue 2 typeSync = true ∧ role.intervalDue 2 typeAnnounce = true ∧
      role.intervalDue 3 typeDelayReq = true) ∧
    (t { s.time with servo := .locked, ns := 3000000000 }).syncLost = true ∧
    (t { s.time with servo := .holdover }).time.servo = .holdover ∧ s.time.unit = false ∧ s.time.permitted = false ∧
    (t { s.time with servo := .acquiring }).time.servo ≠ .locked ∧ s.stepForbidden = false ∧
    (t { s.time with permitted := true, source := none }).isMaster 1 = true := by decide +kernel

/-! ### Vectors -/

/-- Two elements of one granted slab, operands in v1 and v2, s3 to broadcast, and masks m1 (element 1) and m2. -/
def tVec (vl : Nat) (rs : Tbl Word) : State :=
  tThen tB fun t => { t with
    slabs := 1, vl := vl, s := rs, m := [(1, 2), (2, 0)],
    v := [(256, 0x3F800000), (257, 0x40000000), (512, 0x40400000), (513, 0)] }

theorem active_lt {t : Thread} {m : BitVec 3} {e : Nat} (h : t.active m e = true) : e < t.vl := by
  simp only [Thread.active, Bool.and_eq_true, decide_eq_true_eq] at h; exact h.1

theorem met_LanesReady : LanesReady (tVec 2 []) [1, 2] ∧ LanesReady (tVec 32 []) [31, 16] ∧ LanesReady (tVec 1 []) [] := by
  unfold LanesReady TokenFree; decide +kernel

theorem met_VectorPreamble :
    tB.th.grant = 0 ∧ (tVec 0 []).th.grant ≠ 0 ∧ (tVec 0 []).th.vl = 0 ∧ (15#5).toNat < 16 ∧ (5#3).toNat ≤ 5 ∧
    (2#3).toNat ≤ 2 ∧ 6 ≤ (6#3).toNat ∧ (1#3) ≠ 0 ∧ (23#5).toNat % 16 ≤ 7 := by decide +kernel

theorem met_VectorFloats_VectorIntegers_VectorConversion :
    (15#5).toNat < 16 ∧ (5#3).toNat ≤ 5 ∧ (2#3).toNat ≤ 2 ∧ 6 ≤ (7#3).toNat ∧ (7#5).toNat % 16 ≤ 7 ∧ (16#5).toNat % 16 ≤ 7 := by
  decide +kernel

theorem met_Masks :
    let s := tVec 2 []
    (7#3) ≠ 0 ∧ (5#3).toNat ≤ 5 ∧ (3#3).toNat ≤ 3 ∧ s.th.grant ≠ 0 ∧ s.th.vl ≤ 256 ∧ TokenFree s [9] ∧
    (s.th.active 0 1 && (s.th.M 1).getLsbD 1) = true ∧ (∀ n, n < 1 → (s.th.active 0 n && (s.th.M 1).getLsbD n) = false) ∧
    tB.th.grant = 0 := by unfold TokenFree; decide +kernel

theorem met_Masks_empty (e : Nat) : ((tVec 2 []).th.active 0 e && ((tVec 2 []).th.M 2).getLsbD e) = false := by
  have : (tVec 2 []).th.M 2 = 0 := by decide +kernel
  simp [this]

theorem met_MovesAndReductions :
    let s := tVec 2 [(9, 31), (10, 32)]
    TokenFree s [9] ∧ TokenFree s [10, 5] ∧ s.th.grant ≠ 0 ∧ s.th.grant ≤ (s.th.S 10).toNat ∧ (s.th.S 9).toNat < s.th.grant ∧
    (5#3).toNat ≤ 5 ∧ 16 ≤ (16#5).toNat ∧ TokenFree s [(16#5).toNat - 16] ∧ (15#5).toNat < 16 := by
  unfold TokenFree; decide +kernel

/-- Addresses of two elements in the alias' last bytes, in bulk memory, and across the alias' end. -/
def tElems (base : Word) : State := tVec 2 [(9, base), (10, 8)]

theorem met_VectorMemory_places :
    let place (s : State) (a : Word) (acc : Acc) := s.resolve (s.th.issuer s.me) a acc
    place (tElems 0x1FFF8) 0x1FFF8 .read = .ok (.spad 0 0x1FFF8 true) ∧
    place (tElems 0x1FFF8) 0x1FFFC .read = .ok (.spad 0 0x1FFFC true) ∧
    place (tElems 0x100000FF8) 0x100000FF8 .write = .ok (.bulk .hbm 0x20FF8) ∧
    place (tElems 0x100000FF8) 0x100000FFC .write = .ok (.bulk .hbm 0x20FFC) ∧
    place (tElems 0) 0x0010002000000100 .read = .ok (.spad 24 0x100 false) :=
  ⟨eq_ok_of (by decide +kernel), eq_ok_of (by decide +kernel), eq_ok_of (by decide +kernel), eq_ok_of (by decide +kernel),
    eq_ok_of (by decide +kernel)⟩

theorem met_VectorMemory :
    let s := tElems 0x1FFF8
    LanesReady s [] ∧ TokenFree s [9, 10] ∧ s.th.active 0 1 = true ∧ (∀ e, s.th.active 0 e = true → e < 2) ∧
    (∀ e, e < 2 → (0x1FFF8 + 4 * e) % 4 = 0 ∧ 0x1FFF8 + 4 * e < 0x20000 ∧
      s.storePending true (s.keyOf 0 (.spad 0 (0x1FFF8 + 4 * e) true)) 4 = false ∧
      s.badGranule? (s.keyOf 0 (.spad 0 (0x1FFF8 + 4 * e) true)) 4 = none) ∧
    s.pkg.fenced.getLsbD (dieOf s.me) = false := by
  refine ⟨?_, ?_, by decide +kernel, fun e h => active_lt h, by decide +kernel, by decide +kernel⟩
  · unfold LanesReady TokenFree; decide +kernel
  · unfold TokenFree; decide +kernel

/-- An element that traps after one that does not: the second lies past the alias' end, or is misaligned. -/
theorem met_VectorMemory_traps :
    (∃ p, (tElems 0x1FFFC).elemPlace .read 4 0x1FFFC = .ok p) ∧
    (tElems 0x1FFFC).elemPlace .read 4 0x20000 = .error Cause.loadFault ∧
    (tElems 0x1FFFC).elemPlace .write 4 0x20000 = .error Cause.storeFault ∧
    (tElems 0x1FFFC).elemPlace .read 4 0x1FFFE = .error Cause.misalign :=
  ⟨⟨.spad 0 0x1FFFC true, eq_ok_of (by decide +kernel)⟩, rfl, rfl, rfl⟩

/-! ### Engines -/

def tWord (op cls flags ops : Nat) : Nat := op * 2 ^ 248 + cls * 2 ^ 244 + flags * 2 ^ 236 + ops

/-- A running job of core 0, alone or as a gang of positions 0 and 2. -/
def tBody (gang : Bool) (word : Nat) : Job :=
  { tJob word with
    state := .running, fmtA := 3, fmtB := 3, fmtC := 3, sclC := 0x182, gang := gang, mask := if gang then 5 else 1,
    members := if gang then [⟨0, 1, 5, 0x180, 8⟩, ⟨8, 2, 5, 0x180, 8⟩] else [⟨0, 1, 5, 0x180, 8⟩] }
def tRuns (j : Job) : State := { tState with jobs := [(9, j)] }

/-- The job is ready to run as the obligations on bodies ask. -/
def tReady (gang : Bool) (op cls flags ops : Nat) (l : Layout) : Prop :=
  BodyReady (tRuns (tBody gang (tWord op cls flags ops))) 9 (tBody gang (tWord op cls flags ops)) cls op l

theorem met_EngineChecks :
    let j (op cls flags ops : Nat) : Job := tBody false (tWord op cls flags ops)
    let queued : Job := { j 1 1 0 0 with state := .queued }
    (queued.state ≠ .running ∧ CmdWord.cls (j 1 2 0 0).word ≠ 1 ∧ CmdWord.opcode (j 2 1 0 0).word ≠ 1) ∧
    ((mmaFields (j 1 0 0 (3 * 2 ^ 72))).bad (j 1 0 0 (3 * 2 ^ 72)) = true ∧ CmdWord.bits (j 3 0 0 0).word 0 2 = 0 ∧
      64 < CmdWord.bits (j 4 0 0 (63 * 2 ^ 114 + 2 ^ 108)).word 114 6 + CmdWord.bits (j 4 0 0 (63 * 2 ^ 114 + 2 ^ 108)).word 108 6 + 1 ∧
      CmdWord.bits (j 1 1 0 0).word 24 48 = 0 ∧ Layout.bad ⟨0, 24⟩ (j 1 1 0 (2 ^ 23)).word = true ∧
      Layout.bad ⟨0, 24⟩ (j 1 1 1 (2 ^ 24)).word = true) ∧
    CmdWord.assigned (j 7 1 0 0).word = false ∧ CmdWord.assigned (j 6 1 0 0).word = true := by decide +kernel

theorem met_JobBeginnings :
    let q (cls : Nat) : Job := { tBody false (tWord 1 cls 0 0) with state := .queued }
    let two (cls : Nat) (e : Job) : State := { tState with jobs := [(8, e), (9, q cls)] }
    let eight : State := { tState with jobs := (upFrom 1 8).map (fun n => (n, tBody false (tWord 1 1 0 0))) ++ [(9, q 1)] }
    ((q 0).state = .queued ∧ (q 0).cls = 0 ∧ (two 0 (q 1)).stopping (q 0).launch = false ∧
      (∀ e ∈ (two 0 (q 1)).jobs, e.1 < 9 → e.2.cls ≠ 0 ∨ cellOf e.2.core ≠ cellOf (q 0).core)) ∧
    ((∃ c ∈ (q 0).cores, (q 0).mask.getLsbD (posOf c) = true ∧ cellOf c = cellOf (q 0).core)) ∧
    ((q 1).cls = 1 ∧ (∀ e ∈ (two 1 (q 0)).jobs, e.1 < 9 → e.2.cls = 1 → e.2.state = .queued → cellOf e.2.core ≠ cellOf 0) ∧
      ¬(∀ e ∈ (two 1 (q 1)).jobs, e.1 < 9 → e.2.cls = 1 → e.2.state = .queued → cellOf e.2.core ≠ cellOf 0) ∧
      8 ≤ (eight.jobs.filter fun e => e.2.cls == 1 && e.2.state != .queued && clusterOf e.2.core == 0).length) := by
  decide +kernel

theorem met_JobBeginnings_slices (k u : Nat) : (tState.thAt k).wait ≠ .slice u := by
  have : (tState.thAt k).wait = .ready := by cases k <;> rfl
  simp [this]

/-- COPY of the alias' last 64 bytes, COPY2D of two rows upward and downward, DEAL to two cores at its own core's end,
GATHB of one block, REDW of BF16 elements and FILL of the last byte. -/
theorem met_CopyBodies :
    tReady false 1 1 0 (0x1FFC0 * 2 ^ 136 + 0 * 2 ^ 72 + 64 * 2 ^ 24) ⟨0, 24⟩ ∧ 0x1FFC0 + 64 ≤ 0x20000 ∧ 0 + 64 ≤ 0x1FFC0 ∧
    tReady false 2 1 0 (0x400 * 2 ^ 136 + 0x800 * 2 ^ 72 + 7 * 2 ^ 56 + 1 * 2 ^ 44 + 16 * 2 ^ 22 + (2 ^ 22 - 32)) ⟨0, 0⟩ ∧
    tReady false 3 1 0 (0x400 * 2 ^ 136 + 0x1FFC0 * 2 ^ 119 + 63 * 2 ^ 103 + 0 * 2 ^ 93 + 1 * 2 ^ 83 + 1 * 2 ^ 73) ⟨0, 61⟩ ∧
    (tRuns (tBody false 0)).hasCore 0 0 = true ∧ (tRuns (tBody false 0)).hasCore 0 1 = true ∧ 0x400 + 2 * 64 ≤ 0x1FFC0 ∧
    tReady false 4 1 0 (0x800 * 2 ^ 136 + 0x1000 * 2 ^ 72 + 63 * 2 ^ 56) ⟨0, 36⟩ ∧ 0x800 + 8 ≤ 0x1000 ∧
    Memory.readLE (tRuns (tBody false 0)).mem (spadKey 0 0x800) 8 + 64 ≤ 0x1000 ∧
    tReady false 5 1 0 (0x402 * 2 ^ 136 + 0x1002 * 2 ^ 72 + 8 * 2 ^ 48 + 1 * 2 ^ 44) ⟨0, 44⟩ ∧ 0x402 + 2 * 9 ≤ 0x1002 ∧
    tReady false 6 1 0 (0x1FFFF * 2 ^ 136 + 1 * 2 ^ 24) ⟨0, 24⟩ ∧ 0x1FFFF + 1 ≤ 0x20000 := by
  unfold tReady BodyReady; decide +kernel

/-- Both rows of that COPY2D, from 0x400 upward and to 0x800 downward, lie apart. -/
theorem met_CopyBodies_rows :
    let src (k : Nat) : Nat := (0x400#64 + BitVec.ofNat 64 k * (BitVec.ofNat 22 16).signExtend 64).toNat
    let dst (k : Nat) : Nat := (0x800#64 + BitVec.ofNat 64 k * (BitVec.ofNat 22 (2 ^ 22 - 32)).signExtend 64).toNat
    ∀ k, k < 2 → src k + 8 ≤ 0x20000 ∧ dst k + 8 ≤ 0x20000 ∧
      ∀ m, m < 2 → (src m + 8 ≤ dst k ∨ dst k + 8 ≤ src m) ∧ (m ≠ k → dst m + 8 ≤ dst k ∨ dst k + 8 ≤ dst m) := by
  decide +kernel

/-- No granule of these states is in error. -/
theorem met_good (j : Job) (k n : Nat) : (tRuns j).badGranule? k n = none := rfl

/-- ACCZ, ACCLD of the tile's last row, ACCCVT to E4M3, E2M1 and FP32, and WBFILL of the own partition's end and of a
gang across two partitions. -/
theorem met_MatrixBodies :
    tReady false 3 0 0 3 ⟨0, 0⟩ ∧ tReady true 3 0 0 1 ⟨0, 0⟩ ∧
    tReady true 5 0 0 (0x1FF00 * 2 ^ 136 + 256 * 2 ^ 120 + 63 * 2 ^ 114 + 63 * 2 ^ 96) ⟨0, 95⟩ ∧ 63 + 1 ≤ 64 ∧
    0x1FF00 + (1 - 1) * 256 + 4 * 64 ≤ 0x20000 ∧
    tReady true 4 0 1 (0x1FFC0 * 2 ^ 136 + 64 * 2 ^ 120 + 63 * 2 ^ 114 + 63 * 2 ^ 96) ⟨1, 95⟩ ∧
    Fmt.ofCode 3 = some .e4m3 ∧ Fmt.ofCode 6 = some .e2m1 ∧ Fmt.ofCode 0 = some .fp32 ∧ 64 * (8 / 4) ≤ 2 * 64 ∧
    tReady false 6 0 0 (0x400 * 2 ^ 136 + 0x1FFE0 * 2 ^ 116 + 32 * 2 ^ 95) ⟨1, 95⟩ ∧
    0x1FFE0 / 131072 = posOf 0 ∧ (0x1FFE0 + 32 - 1) / 131072 = posOf 0 ∧
    tReady true 6 0 1 (0x400 * 2 ^ 136 + 0xFFFE0 * 2 ^ 116 + 32 * 2 ^ 95) ⟨1, 95⟩ ∧ 0xFFFE0 + 32 ≤ 1048576 := by
  unfold tReady BodyReady; decide +kernel

theorem met_MatrixBodies_cores :
    (tBody true 0).cores = [0, 2] ∧ (tBody false 0).cores = [0] ∧
    ∀ c ∈ (tBody true 0).cores, tState.pkg.fenced.getLsbD (dieOf c) = false := by decide +kernel

/-- MMA and MMAT of one output of 32 E4M3 steps. -/
theorem met_MatrixBodies_products :
    let ops := 0x400 * 2 ^ 136 + 64 * 2 ^ 120 + 31 * 2 ^ 74
    let j := tBody false (tWord 1 0 0 ops)
    let m := mmaFields j
    tReady false 1 0 0 ops ⟨1, 71⟩ ∧ tReady false 2 0 0 ops ⟨1, 71⟩ ∧ m.bad j = false ∧
    (∀ r k, r < m.rows → k < m.steps → (m.aAddr r k).1.toNat + max 1 (m.fa.width / 8) ≤ 0x20000) ∧
    (({ s := tRuns j, j := j } : Hart).readB m).stopped = false := by
  refine ⟨?_, ?_, by decide +kernel, ?_, by decide +kernel⟩
  · unfold tReady BodyReady; decide +kernel
  · unfold tReady BodyReady; decide +kernel
  · intro r k hr hk
    revert hk
    revert k
    revert hr
    revert r
    decide +kernel

theorem met_JobCompletions :
    let j (mode notify : Nat) (d : Nat) : Job :=
      { tBody false (tWord 1 1 0 (mode * 2 ^ 232 + notify * 2 ^ 200)) with
        state := .bodyDone, status := 6, members := [⟨0, 1, d, 0x180, 8⟩] }
    let s : State := tThen (tRuns (j 0 0 5)) fun t => { t with tok := [(5, .pending 9)] }
    ((j 0 0 5).state = .bodyDone ∧ (j 0 0 5).tokenOnly = false ∧ (s.ctx 0).isRunning = true ∧
      (s.thAt 0).isTid (j 0 0 5).part 1 = true ∧ (s.thAt 0).token 5 = .pending 9 ∧ (s.thAt 0).token 6 ≠ .pending 9 ∧
      1 ≤ (j 0 0 0).status.toNat ∧ (j 0 0 0).status.toNat ≤ 6 ∧ (s.thAt 0).sfrq.length < 8) ∧
    CmdWord.mode (j 0 0 5).word = 0 ∧ CmdWord.mode (j 3 0 5).word = 3 ∧ CmdWord.mode (j 1 7 5).word = 1 ∧
    CmdWord.mode (j 2 0x1FFE8 5).word = 2 ∧ CmdWord.notify (j 2 0x1FFE8 5).word = 0x1FFE8 := by decide +kernel

theorem met_Ranking :
    (Fmt.fp32.decode 0x3F800000).isNan = false ∧ (Fmt.fp32.decode 0x7FC00000).isNan = true ∧
    (Fmt.fp32.decode 0).lt (Fmt.fp32.decode 0x3F800000) = true ∧ (Fmt.fp32.decode 0x80000000).eq (Fmt.fp32.decode 0) = true ∧
    Desc.policy [2, 0] = 0 ∧ Desc.policy [0x20000002, 0] = 2 ∧ 1 ≤ 2 ∧ [0, 1, 2].Nodup := by decide +kernel

/-! ## Single steps with results that the spec's pages print -/

/-- What an instruction writes to a scalar register. -/
def tS (i : Instr) (rs : Tbl Word) (d : Nat) : Word := (ran i (tRegs rs)).th.S d

/-- R339 and R390: −7 by 2; a zero divisor; −2^63 by −1. -/
theorem test_div_rem : tS (.div 5 6 7) [(6, -7), (7, 2)] 5 = -3 ∧ tS (.rem 5 6 7) [(6, -7), (7, 2)] 5 = -1 ∧
    tS (.rem 5 6 7) [(6, 9), (7, 0)] 5 = 9 ∧ tS (.rem 5 6 7) [(6, 0x8000000000000000), (7, -1)] 5 = 0 := by decide +kernel

/-- R367, R370, R381, R332, R399. -/
theorem test_scalar : tS (.lih 5 0x402) [] 5 = 0x1008000 ∧ tS (.lih 5 (-1)) [] 5 = 0xFFFFFFFFFFFFC000 ∧
    tS (.max 5 6 7) [(6, -1), (7, 3)] 5 = 3 ∧ tS (.maxu 5 6 7) [(6, -1), (7, 3)] 5 = 0xFFFFFFFFFFFFFFFF ∧
    tS (.mulhu 5 6 7) [(6, -1), (7, -1)] 5 = 0xFFFFFFFFFFFFFFFE ∧ tS (.mulh 5 6 7) [(6, -1), (7, -1)] 5 = 0 ∧
    tS (.clz 5 6) [(6, 0x10000)] 5 = 47 ∧ tS (.sltiu 5 6 1) [(6, 0)] 5 = 1 ∧ tS (.sltiu 5 6 1) [(6, 1)] 5 = 0 := by
  decide +kernel

/-- R284: the high part of the example after R291, formed by IMX 0x001009 and ADDI 0x2CC0. -/
theorem test_imx_addi :
    (ran (.addi 5 0 0x2CC0) (tThen tState fun t => { t with imx := some 0x001009 })).th.S 5 = 0x4026CC0 := by decide +kernel

/-- R348 and R365 on core (2, 13, 19). -/
theorem test_addresses :
    let s (a : Word) : State := { tState with
      cur := 1483 * 4, ctxs := [(1483 * 4, { mode := .running, th := { tThread with s := [(6, a)] } })] }
    (ran (.ladr 5 6 0x10) (s 0x001009B300001230)).th.S 5 = 0x1240 ∧
    (ran (.gadr 5 6 0x10) (s 0x1230)).th.S 5 = 0x001009B300001240 ∧ tS (.ladr 5 6 0x10) [(6, 0x001009B300001230)] 5 =
      0x001009B300001240 := by decide +kernel

/-- R366: a byte 0x80. -/
theorem test_loads : tS (.ldb 5 6 0) [(6, 0x100)] 5 = 0xFFFFFFFFFFFFFF80 ∧ tS (.ldbu 5 6 0) [(6, 0x100)] 5 = 0x80 := by
  decide +kernel

/-- R74: banks 0 and 5. -/
theorem test_glref :
    let s : State := { tState with time := { ns := 1700000000123456789 } }
    s.glref 0 = 1700000000123456000 ∧ s.glref 5 = 1700000000123466000 := by decide +kernel

/-- R137 and R387: RAND with key 0 and counter 0. -/
theorem test_rand : let s := ran (.rand 5) (tThen tState fun t => { t with srseed := 0 })
    s.th.S 5 = 0 ∧ s.th.flurcnt = 1 := by decide +kernel

/-- R111: the walk for 0x0000_1234_5678_9ABC with indices 36, 209, 179 and 393, and a user load and store. -/
def tWalked (leaf : Nat) : State :=
  { tPart tState fun p => { p with asdir := 0x8000 } with
    mem := [(0x8018, 0x10001), (0x10120, 0x20001), (0x20688, 0x30001), (0x30598, 0x40001), (0x40C48, leaf)].foldl
      (fun m c => Memory.writeLE m c.1 8 c.2) tState.mem }

theorem test_walk : (tWalked 0x1234027).walk 0 3 0x123456789ABC = some ⟨4096, 0x1234000, 0b1001⟩ ∧
    (tWalked (0x1234027 + 2 ^ 57)).walk 0 3 0x123456789ABC = none ∧
    (tPut (tWalked 0) 0x30598 8 0x0800000001200027).walk 0 3 0x123456789ABC = some ⟨2 ^ 21, 0x1200000, 0b1001⟩ := by
  decide +kernel

/-- R329: CBND and CPERM of the example of 06, and R330: a store without W. -/
theorem test_capabilities :
    let c2 : Cap := { bits := 0x0134A480010000000000000040000000, tag := true }
    let s := tThen tState fun t => { t with c := [(2, c2), (3, { c2 with bits := 0x0134A480010000000400000000010000 })],
                                            s := [(10, 0x100), (11, 0x40), (12, 0x20)] }
    (ran (.cbnd 3 2 10) s).th.c.get {} 3 = { bits := 0x0134A480010000000400000000010000, tag := true } ∧
    ((ran (.cperm 4 3 12) s).th.c.get {} 4).bits.toNat / 2 ^ 64 = 0x0134A08001000000 ∧
    (ran (.cstd 2 9 8) s).th.cause = 0x08 ∧ (ran (.cstd 2 9 8) s).th.taddr = 0x4000000008 := by decide +kernel

/-- R401: SPAWN at run level 1. -/
theorem test_spawn :
    let s := tThen tB fun t => { t with
      level := 1, s := [(4, 11), (5, 22), (6, 0x0041580000000040), (7, 0x0010000000000400)] }
    let u := ran (.spawn 7 6 4 2) s
    Memory.readLE u.mem (spadKey 0 0x400) 8 = 1 ∧ u.mesh.map (·.header) = [0x0441580500000040] ∧
    u.mesh.map (fun m => m.payload.drop 3) = [[11, 22]] := by decide +kernel

/-- R319: BARINIT and two arrivals of 4,096 bytes on the barrier at 0x3000. -/
theorem test_barrier :
    let s := tThen (tPut tState (spadKey 0 0x3000) 8 (7 * 2 ^ 48)) fun t => { t with s := [(4, 0x3000), (5, 0x0000200000010002)] }
    let u := ran (.barinit 4 5) s
    Memory.readLE u.mem (spadKey 0 0x3000) 8 = 0x0008000200000001 ∧ Memory.readLE u.mem (spadKey 0 0x3008) 8 = 0x2000 := by
  decide +kernel

/-- R392: the fifth entry of a ring at 0x4000 with eight entries from 0x4100. -/
theorem test_ring :
    let s := tThen (tPut (tPut tState (spadKey 0 0x4000) 8 0x400000000) (spadKey 0 0x4008) 8 0x03004100) fun t =>
      { t with s := [(4, 0x4000), (9, 0x77)] }
    let u := ran (.ringenq 8 4 9) s
    Memory.readLE u.mem (spadKey 0 0x4120) 8 = 0x77 ∧ u.th.S 8 = 4 ∧ u.th.S 9 = 0 := by decide +kernel

/-- R344: FILL; R302: COPY that leaves the alias after 64 bytes. -/
theorem test_engines :
    let fill := ran (.fill 9) (tRuns (tBody false
      (tWord 6 1 0 (0x1003 * 2 ^ 136 + 0x0807060504030201 * 2 ^ 72 + 6 * 2 ^ 24))))
    let copy := ran (.copy 9) (tRuns (tBody false (tWord 1 1 0 (0x1FFC0 * 2 ^ 136 + 0x200 * 2 ^ 72 + 100 * 2 ^ 24))))
    let back := ran (.copy 9) (tRuns (tBody false (tWord 1 1 0 (0x200 * 2 ^ 136 + 0x1FFC0 * 2 ^ 72 + 100 * 2 ^ 24))))
    Memory.readBytes fill.mem (spadKey 0 0x1002) 8 = [0, 4, 5, 6, 7, 8, 1, 0] ∧
    (copy.jobs.get (tJob 0) 9).faultAddr = 0x20000 ∧ (back.jobs.get (tJob 0) 9).status = 0x02 ∧
    (back.jobs.get (tJob 0) 9).delivered = 64 ∧ (back.jobs.get (tJob 0) 9).faultAddr = 0x20000 := by decide +kernel

/-! ### Formats and vectors -/

def tZ (neg : Bool) (m : Nat) (e : Int) : Rounded := roundTo (.fin neg m e) .zf8 .rne false 0

/-- R136: conversions to ZF8 in RNE. -/
theorem test_zf8 : (tZ false 33 (-5)).bits = 0x40 ∧ (tZ false 1000 0).bits = 0x7E ∧ (tZ false 5000 0).bits = 0x7F ∧
    (roundTo (.fin true 5033165 (-24)) .zf8 .rne false 0).bits = 0xA3 := by decide +kernel

/-- R305 of ACCCVT: 300 and 1000 to E4M3 under the scale 2^−1. -/
theorem test_scaled : (roundTo (.fin false 150 0) .e4m3 .rne false 0).bits = 0x71 ∧
    (roundTo (.fin false 500 0) .e4m3 .rne false 0).bits = 0x7E := by decide +kernel

/-- Elements 0 up of a vector register. -/
def tLane (s : State) (r n : Nat) : List (BitVec 32) := (upFrom 0 n).map fun e => s.th.v.get 0 (256 * r + e)

def tLanes (vl : Nat) (vs : List (Nat × BitVec 32)) (f : Thread → Thread) : State :=
  tThen tState fun t => f { t with slabs := 1, vl := vl, v := vs }

/-- R417: VMAX of zeros of both signs, and of NaR. -/
theorem test_vmax :
    tLane (ran (.vmax 2 1 3 0 0) (tLanes 2 [(256, 0x80000000), (769, 0x80000000)] id)) 2 2 = [0, 0] ∧
    tLane (ran (.vmax 2 1 3 0 5) (tLanes 1 [(256, 0x80), (768, 0x40)] id)) 2 1 = [0x80] := by decide +kernel

/-- R426: 2^−24 · 2^−24 + 1 is 1.0, inexact. -/
theorem test_vfma :
    let u := ran (.vfma 4 1 2 0 0) (tLanes 1 [(256, 0x33800000), (512, 0x33800000), (1024, 0x3F800000)] id)
    tLane u 4 1 = [0x3F800000] ∧ u.th.fpstat = 0x10 := by decide +kernel

/-- R424: VCVT of 3.0 to E4M3 under the output scale 2^7, and without it. -/
theorem test_vcvt :
    let s (c : BitVec 9) : State := tLanes 1 [(256, 0x40400000)] fun t => { t with sclC := c }
    tLane (ran (.vcvt 2 1 3 0 0 6) (s 0x178)) 2 1 = [0x7C] ∧ tLane (ran (.vcvt 2 1 3 0 0 6) (s 0x078)) 2 1 = [0x44] := by
  decide +kernel

/-- R431: VIOTA under m1 = 0b10_1101. -/
theorem test_viota :
    tLane (ran (.viota 2 1 6) (tLanes 6 ((upFrom 512 6).map fun k => (k, 9)) fun t => { t with m := [(1, 0b101101)] })) 2 6 =
      [0, 9, 1, 2, 9, 3] := by decide +kernel

/-- R432: VLDEXP by −3; R425: VEXP2 of −∞ with no flag. -/
theorem test_vldexp_vexp2 :
    tLane (ran (.vldexp 2 1 21 0 0) (tLanes 1 [(256, 0x40400000)] fun t => { t with s := [(5, -3)] })) 2 1 = [0x3EC00000] ∧
    (let u := ran (.vexp2 3 3 0 0) (tLanes 1 [(768, 0xFF800000)] id)
     tLane u 3 1 = [0] ∧ u.th.fpstat = 0) := by decide +kernel


/-- R160 and R162: the lane pool's example. -/
def tPool (rs : List (Nat × Thread)) : State := { tState with ctxs := rs.map fun r => (r.1, tCtx r.2) }

theorem test_lanes :
    let a (slabs : BitVec 8) (vl : Nat) : Thread := { tThread with slabs, vl, request := 256, s := [(4, 256)] }
    let b : Thread := { tThread with tid := 2, s := [(4, 64)] }
    let one := ran (.vclaim 5 4) (tPool [(0, { tThread with s := [(4, 256)] })])
    let two := ran (.vclaim 5 4) { tPool [(0, a 0xFF 256), (1, b)] with cur := 1 }
    one.th.slabs = 0xFF ∧ one.th.vl = 256 ∧ two.th.slabs = 0 ∧ two.th.vl = 0 := by decide +kernel

/-! ### Population, clocks, traps -/

/-- R178: the ranking of six slots. -/
theorem test_ranking :
    (rankSlots [(0, 0x40900000), (1, 0x40E00000), (2, 0x7FC00000), (3, 0x40E00000), (4, 0xBF800000), (5, 0x40000000)]).map
      (·.1) = [1, 3, 0, 5, 4, 2] := by decide +kernel


/-- R239 and R240: an imprecise trap twelve instructions after the store. -/
theorem test_imprecise :
    let r : Word := 0x0200000100000040
    let s : State := { tB with ctxs := [(0, tCtx { tThread with sfrq := [(r, 7)], done := 19 })] }
    let u := ran (.impreciseTrap 0) s
    u.th.skid = 0xC ∧ u.th.cause = 7 ∧ u.th.imprecise = true ∧ u.th.taddr = 0x100000040 := by decide +kernel

/-- R144: ten BF16 products in groups of eight; 2^24 + 1 − 2^24 is exact in a group, and 2 + 2^−24 rounds to 2. -/
theorem test_group_sums :
    let b : List Nat := [0x4B80, 0x3F80, 0xCB80, 0, 0, 0, 0, 0, 0x3F80, 0x3380]
    (accumulate (fun _ => Fmt.bf16.decode 0x3F80) (fun k => Fmt.bf16.decode (b.getD k 0)) 10 (groupLength .bf16 .bf16) 2 0 0).1
      = 0x40000000 := by decide +kernel

/-- R204: the printed costs, distances and verdicts for the request 0xF79B_8124. -/
theorem test_arbiter :
    let p : Part := { cM := 875, cV := 410, cN := 305, cB := 260, cS := 100, pwrshare := 1200 }
    let w : Word := 0xF79B8124
    let rows : List Steps := [⟨16, 8, 10, 12⟩, ⟨16, 7, 9, 11⟩, ⟨16, 6, 10, 11⟩, ⟨16, 8, 8, 12⟩, ⟨15, 8, 10, 12⟩]
    rows.map (requestDistance w) = [0, 7, 8, 8, 8] ∧ rows.map p.cost = [1196330, 1127675, 1132720, 1155155, 1062455] ∧
    rows.map p.feasible = [false, false, false, false, true] := by decide +kernel

/-- R164: steps 4, 5 and 6 of the lane pool's example. -/
theorem test_lane_shares :
    renegotiate 0 256 0xFF [⟨0, 64, 0⟩, ⟨5, 64, 0⟩] = 0b11 ∧ renegotiate 0 64 0 [⟨0, 256, 0b11⟩, ⟨5, 64, 0⟩] = 0b1100 ∧
    renegotiate 5 64 0 [⟨0, 256, 0b11⟩, ⟨0, 64, 0b1100⟩] = 0b110000 := by decide +kernel

/-- R182: the roundings of the perturbation of 1.0 under σ = 2^−6, and its stochastic pick. -/
theorem test_perturb :
    let dec := Fmt.fp32.decode
    let g := (roundTo (Machine.Num.mul (numOfInt (133118 - 131070)) (dec 0x3AD8B9AD)).1 .fp32 .rne false 0).bits
    let p := (roundTo (Machine.Num.mul (dec 0x3C800000) (dec g)).1 .fp32 .rne false 0).bits
    let t := (roundTo (Machine.Num.add false (Fmt.bf16.decode 0x3F80) (dec p)).1 .fp32 .rne false 0).bits
    g = 0x4058B9AD ∧ p = 0x3D58B9AD ∧ t = 0x3F86C5CD ∧ (roundTo (dec t) .bf16 .sr false 0x80000000).bits = 0x3F87 ∧
    (roundTo (dec t) .bf16 .sr false 0xC5CD0000).bits = 0x3F86 := by decide +kernel

/-- R437: VREDSUM of 1, 2^24, 1 and −2^24; the tree sum is the order's, 1.0 inexact. -/
theorem test_vredsum :
    let u := ran (.vredsum 2 1 0 0) (tLanes 4 [(256, 0x3F800000), (257, 0x4B800000), (258, 0x3F800000), (259, 0xCB800000)] id)
    tLane u 2 1 = [0x3F800000] ∧ u.th.fpstat = 0x10 := by decide +kernel

/-! ### Population domains -/

/-- A domain of policy TRUNC with slots 1 (busy: thread 1 of launch 1 runs there), 2 and 3 of this chip, 0 of chip 7. -/
def tSlots : Domain := { tDomain with
  desc := [0x400000003, 0x1000000000000, 9, 0x100002000, 0x100002800, 0x40, 0x100003004, 0, 0, 0, 100000]
  slots := [⟨7, 0, 0⟩, ⟨0, 0, 0⟩, ⟨0, 24, 16⟩, ⟨0, 600, 32⟩], ranges := [⟨0, 2, 8, 8⟩], launches := [1] }

/-- The domain named by launch 1, and a queued selection job 9 of thread 1. -/
def tSel (d : Domain) (op ops : Nat) : State :=
  { tSup [] with
    launches := [(1, { tLaunch with domain := some 0x1000, block := [(47, 0x100001000)] })]
    domains := [(0x1000, d)]
    jobs := [(9, { tJob (tWord op 2 0 (0x100001000 * 2 ^ 136 + ops)) with state := .queued })] }

theorem met_SelectionJobs :
    let pair (l p : Nat) : Nat := l * 2 ^ 120 + p * 2 ^ 104
    let c := tSel tSlots 2 (pair 2 3)
    let j (s : State) : Job := s.jobs.get (tJob 0) 9
    let m (ops : Nat) : State := tSel tSlots 4 ops
    let filled (slot : Nat) : State := tPut (tSel { tSlots with produced := 3 } 4 (slot * 2 ^ 134)) 0x1038 8 3
    let noTurn := tSel { tSlots with phase := .exchange } 2 0
    let unnamed := { tSel tSlots 1 0 with launches := [] }
    (c.selTurn 9 (j c) = true ∧ c.selDomain (j c) = some 0x1000 ∧ CmdWord.bits (j c).word 136 6 = 0 ∧
      CmdWord.opcode (j c).word = 2 ∧ Layout.bad ⟨0, 104⟩ (j c).word = false ∧ c.descFaults 9 .read = false ∧
      c.busy tSlots.launches [24] = false ∧ c.busy tSlots.launches [0] = true ∧ Desc.gauss tSlots.desc = false ∧
      tSlots.ranges.all GenRange.ok = true) ∧
    (noTurn.selTurn 9 (j noTurn) = false) ∧
    (unnamed.selTurn 9 (j unnamed) = true ∧ unnamed.selDomain (j unnamed) = none) ∧
    (let d := tSel tSlots 3 (pair 0 2)
     d.selTurn 9 (j d) = true ∧ Layout.bad ⟨0, 104⟩ (j d).word = false ∧ d.descFaults 9 .read = false ∧ tSlots.readies = [] ∧ d.pkg.isDown 7 = false) ∧
    (let r := tSel tSlots 1 0
     r.selTurn 9 (j r) = true ∧ Layout.bad ⟨0, 136⟩ (j r).word = false ∧ r.descFaults 9 .read = false) ∧
    (let a := m (2 ^ 134 + 0x20000 * 2 ^ 70 + 4 * 2 ^ 64)
     a.selTurn 9 (j a) = true ∧ Layout.bad ⟨0, 64⟩ (j a).word = false ∧ CmdWord.bits (j a).word 134 2 = 1 ∧
       a.descFaults 9 .write = false ∧ CmdWord.bits (j a).word 70 64 = 0x20000 ∧ CmdWord.bits (j a).word 64 6 = 4 ∧
       a.producer 0x1000 = a.consumer 0x1000) ∧
    (filled 1).producer 0x1000 ≠ (filled 1).consumer 0x1000 ∧
    ((filled 0).selTurn 9 (j (filled 0)) = true ∧ CmdWord.bits (j (filled 0)).word 134 2 = 0 ∧
      (filled 0).descFaults 9 .read = false) ∧
    (let u := { tSel tSlots 1 0 with parts := [] }
     u.selTurn 9 (j u) = true ∧ u.descFaults 9 .read = true) := by decide +kernel

theorem met_SelectionJobs_good (n g : Nat) (k : Option Nat) :
    (tSel tSlots 2 n).badGranule? (glacierKey 0 g) 1 = none ∧ (tSel tSlots 2 n).boundBy 0 g k = false := ⟨rfl, rfl⟩

/-- Once bank 2 refreshes, the genomes of slots 2 and 3 are free to read and write, and they share no byte. -/
theorem met_SelectionJobs_free :
    let s : State := { tSel tSlots 2 0 with time := { ns := 4000 } }
    (∀ c ∈ [(⟨0, 24, 16⟩ : SlotEntry), ⟨0, 600, 32⟩], ∀ r ∈ tSlots.genome, ∀ i, i < r.len →
      s.portHolds (glacierKey (dieOf c.core) (c.base * 65536 + r.off + i)) none = false) ∧
    (∀ r ∈ tSlots.genome, ∀ q ∈ tSlots.genome, ∀ i, i < r.len → ∀ i', i' < q.len →
      glacierKey (dieOf 24) (16 * 65536 + r.off + i) ≠ glacierKey (dieOf 600) (32 * 65536 + q.off + i')) ∧
    tSlots.genome ≠ [] := by decide +kernel

theorem met_SelectionRounds :
    let s (d : Domain) : State := tSel d 1 0
    let here : Domain := { tSlots with slots := tSlots.slots.drop 1 }
    let free (d : Domain) : State := { s d with jobs := [], bTime := 160 * 65536 }
    let x : Domain := { tSlots with phase := .exchange }
    let full : State := tPut (s { x with produced := 16 }) 0x1038 8 16
    (Desc.period tSlots.desc ≠ 0 ∧ ({ s tSlots with time := { ns := 100000 } } : State).time.ns / Desc.period tSlots.desc = 1 ∧
      tSlots.lastTimer < 1 ∧ (s tSlots).time.ns / Desc.period tSlots.desc ≤ tSlots.lastTimer) ∧
    (tSlots.requests = [] ∧ tSlots.owed = [] ∧ tSlots.fin = none ∧ tSlots.drift = none ∧ tSlots.calve = none) ∧
    (tSlots.phase = .idle ∧ (free tSlots).timerTurn 0x1000 { tSlots with timers := [(9, 0)] } = true) ∧
    ((s x).exchangeFailed x = false ∧ (s x).exchangeDone x = false) ∧
    ((s x).exchangeFailed { x with inbox := [(7, 0, [(0, 0x3F800000)], true)] } = false ∧
      (s x).exchangeDone { x with inbox := [(7, 0, [(0, 0x3F800000)], true)] } = true ∧
      (s x).exchangeFailed { x with inbox := [(7, 0, [], false)] } = true ∧
      (full.producer 0x1000 - full.consumer 0x1000).toNat = 2 ^ Desc.ringSize x.desc) ∧
    (let e : Domain := { here with owed := [List.range 8] }
     (s e).producer 0x1000 = 0 ∧ (s e).consumer 0x1000 = 0 ∧ e.phase = .idle ∧
       (s e).unitKey e.part e.asid (BitVec.ofNat 64 (Desc.ringBase e.desc + 64 * ((0 : Word).toNat % 2 ^ Desc.ringSize e.desc)))
         .write = some 0x3000 ∧ 0x1000 + 0x80 ≤ 0x3000) ∧
    (s tSlots).domainById 4 = some (0x1000, tSlots) ∧ (s tSlots).domainById 5 = none := by decide +kernel

theorem met_Drifts :
    let dr (here streamed : Bool) : Drift :=
      { pair := if here then ⟨2, 0⟩ else ⟨0, 2⟩, peer := 7, round := 3, rk := 5, loserHere := here, job := none,
        byRequest := true, asked := false, streamed := streamed, loserFit := 0, parentFit := 0, flags := 0 }
    let of (d : Drift) : Domain := { tSlots with drift := some d }
    let taken := tSel { tSlots with drift := some { dr true false with asked := true, job := some 9 } } 1 0
    (tSel tSlots 1 0).domainById 5 = none ∧ (tSel tSlots 1 0).domainById tSlots.domainId.toNat = some (0x1000, tSlots) ∧
    tSlots.owed = [] ∧ tSlots.fin = none ∧ tSlots.drift = none ∧ tSlots.requests = [] ∧
    tSlots.slots[2]? = some ⟨0, 24, 16⟩ ∧ tSlots.chipOf 0 = 7 ∧ taken.pkg.isDown 7 = false ∧ 7 ≠ taken.pkg.chip ∧
    taken.busy tSlots.launches (slotCores 0 ⟨0, 0, 0⟩) = true ∧
    taken.busy tSlots.launches (slotCores 0 ⟨0, 24, 16⟩) = false ∧ tSlots.slots[1]? = some ⟨0, 0, 0⟩ ∧
    (let a : Drift := { dr true false with asked := true, job := some 9 }
     (of a).drift = some a ∧ a.asked = true ∧ a.loserHere = true ∧ a.byRequest = true ∧ a.job.isSome = true) ∧
    ((of (dr false false)).drift = some (dr false false) ∧ (dr false false).loserHere = false ∧
      (tSel (of (dr false false)) 1 0).domainById 4 = some (0x1000, of (dr false false))) ∧
    ((of (dr true false)).genome = [⟨0, 2, 8, 8⟩] ∧ GenRange.ok ⟨0, 2, 8, 8⟩ = true ∧ (List.replicate 8 (7 : Byte)).length = 8 ∧
      (∀ q ∈ tSlots.ranges, q.kind = 0) ∧ 0x1000 < 0x0010000000000000) ∧
    ((of (dr false true)).drift = some (dr false true) ∧ (dr false true).streamed = true) := by decide +kernel

/-! ### Messages -/

def tMesh (ms : List Msg) : State := { tState with mesh := ms }
/-- A message that its hint's core has taken. -/
def tTaken (id prio : Nat) : Msg := { tMsg with id := id, header := mkHeader 0 prio 5 30 false 0 0x12, taker := some 30, at_ := 30 }

theorem met_MeshAndArrival :
    let h := mkHeader 0 2 5 30 false 0 0x12
    let s := tMesh [tMsg]
    let bad : Msg := { tMsg with header := mkHeader 0 2 5 500 false 0 0x12 }
    let near : Msg := { tMsg with at_ := 30 }
    let far : Msg := { tMsg with header := mkHeader 0 2 0 30 true 0 0x12 }
    let q (prio n : Nat) : State :=
      { tMesh [tTaken 50 prio] with cores := [(30, { mail := (upFrom 0 n).map fun i => { tTaken i prio with taker := none } })] }
    let room (prio n : Nat) : Bool := decide (n = (((q prio n).core 30).mail.filter fun x => hPrio x.header == prio).length)
    (0 < 2304 ∧ hRow h < 24 ∧ hCol h < 24 ∧ dieOf 0 = hDie h ∧ 0 ≠ hCore h) ∧
    (s.mesh.find? (fun x => x.id == 50) = some tMsg ∧ s.held tMsg.launch = false ∧ tMsg.taker = none ∧
      s.earlierMsgs tMsg = [] ∧ s.msgFault tMsg = none ∧ s.takes tMsg 0 = false ∧
      (tMesh [far]).takes far 0 = false ∧ near.at_ = hCore near.header ∧ s.msgFault bad ≠ none ∧ hKind bad.header = 0 ∧
      bad.origin ≠ .spawn ∧ s.notifyOf bad.launch = none) ∧
    (s.takes { tMsg with header := mkHeader 0 2 31 30 false 0 0x12 } 0 = true) ∧
    ((tTaken 50 2).taker = some 30 ∧ (tTaken 50 2).thread = none ∧ (q 2 0).hasCore 0 30 = true ∧
      room 2 7 = true ∧ room 2 8 = true ∧ room 1 15 = true ∧ room 1 16 = true) := by decide +kernel

theorem met_MailAndRunQueue :
    let mail (kind entry count : Nat) : Msg :=
      { tMsg with header := mkHeader kind 2 5 0 false count entry, payload := List.replicate count 9 }
    let s (m : Msg) : State := { tState with cores := [(0, { mail := [m] })], vcycle := 15 }
    let e (level waited : Nat) : RunEntry := ⟨.msg tMsg, level, waited⟩
    let th : RunEntry := ⟨.thread { tThread with tid := 9 }, 0, 0⟩
    let r (es : List RunEntry) : State := { tState with cores := [(0, { runq := es })] }
    let full : State := { r [e 1 0] with ctxs := (upFrom 0 3).map fun k => (k, tCtx tThread) }
    ((r []).core 0).backlog = [] ∧ (r []).nextMail 0 = none ∧
    (s (mail 6 1 3)).nextMail 0 = some (mail 6 1 3) ∧ (s (mail 4 0 3)).nextMail 0 = some (mail 4 0 3) ∧
    (s (mail 3 12 31)).nextMail 0 = some (mail 3 12 31) ∧ (mail 3 12 31).payload.length = 31 ∧
    (s (mail 0 1 3)).nextMail 0 = some (mail 0 1 3) ∧ (s (mail 5 7 3)).nextMail 0 = some (mail 5 7 3) ∧
    hEntry (mail 5 7 3).header ≠ 0xFFFFFFFF ∧ (mail 5 7 3).thread = none ∧
    ((r [e 1 0, e 3 0]).idleCtx? 0 = some 1 ∧ (r [e 1 0, e 3 0]).nextEntry 0 = some (e 3 0)) ∧
    ((r [th]).nextEntry 0 = some th) ∧ full.idleCtx? 0 = none ∧ (r []).nextEntry 0 = none ∧
    (∀ x ∈ ((r [e 1 65535, e 3 65536]).core 0).runq, x.waited < 65536 ∨ 3 ≤ x.level) ∧
    ((r [e 1 0, e 2 65536, e 0 0]).core 0).runq = [e 1 0] ++ e 2 65536 :: [e 0 0] := by decide +kernel

theorem met_WorkStarts :
    let m (kind : Nat) : Msg := { tMsg with header := mkHeader kind 2 5 0 false 28 1, payload := List.replicate 28 9 }
    let s (m : Msg) : State := { tState with ctxs := [(1, { mode := .starting m })] }
    (s (m 0)).held (m 0).launch = false ∧ (m 0).payload.length ≤ 28 ∧ (m 2).thread = none ∧ (m 0).origin ≠ .spawn ∧ hKind (m 0).header = 0 ∧
    hKind (m 5).header = 5 ∧ hKind (m 7).header = 7 ∧ hKind (m 2).header = 2 ∧ tThread.wait = .ready ∧
    ((s (m 7)).ctx 1).mode = .starting (m 7) := by decide +kernel

theorem met_ServiceFlakes :
    let w (op : Nat) : Word := BitVec.ofNat 64 (op * 2 ^ 16 + 3 * 2 ^ 3 + 1 * 2 ^ 24)
    let m (op : Nat) : Msg :=
      { tMsg with header := mkHeader 4 2 5 0 true 4 0, payload := [BitVec.ofNat 64 (spadKey 0 0x1FFF8), w op, 7, 5] }
    let s : State := { tState with ctxs := [(3, { mode := .starting (m 0x4F) })] }
    let reply (status : Nat) : Msg :=
      { tMsg with header := mkHeader 5 2 5 0 true 2 0xFFFFFFFF, payload := [99, BitVec.ofNat 64 (status + 2 * 256)] }
    let waits (k : ReplyFor) : State := { tState with
      ctxs := [(2, tCtx { tThread with wait := .reply k 0x0010002000000040 none })], cores := [(0, { mail := [reply 0] })] }
    let flake (n : Nat) : State := { tState with ctxs := [(3, tCtx { tThread with flake := some { tFlake with spent := n } })] }
    ((s.ctx (svcCtx 0)).mode = .starting (m 0x4F) ∧ hKind (m 0x4F).header = 4 ∧ 0x1FFF8 < 0x20000 ∧
      s.badGranule? (spadKey 0 0x1FFF8) 8 = none ∧
      ({ s with errors := [spadKey 0 0x1FFF0] } : State).badGranule? (spadKey 0 0x1FFF8) 8 ≠ none ∧
      (w 0x4F).toNat / 2 ^ 16 % 256 = 0x4F ∧ (w 0x50).toNat / 2 ^ 16 % 256 = 0x50 ∧ 2 ^ ((w 0x4F).toNat / 2 ^ 3 % 4) = 8) ∧
    (((waits (.atom 5)).core 0).mail.find? (fun x => x.id == 50) = some (reply 0) ∧
      (((waits (.atom 5)).core 0).mail.filter fun x => hPrio x.header == 2).head? = some (reply 0) ∧
      (reply 0x14).payload.getD 1 0 = 0x214 ∧ ((waits (.atom 5)).thAt 2).wait = .reply (.atom 5) 0x0010002000000040 none ∧
      ((waits (.cas 4 99)).thAt 2).wait = .reply (.cas 4 99) 0x0010002000000040 none) ∧
    (((flake 64).thAt 3).flake = some { tFlake with spent := 64 } ∧ ((flake 63).thAt 3).flake = some { tFlake with spent := 63 }) := by
  decide +kernel

theorem met_BoundaryTraps :
    let s (t : Thread) : State := { tB with ctxs := [(0, tCtx t)] }
    let bar (w late : Nat) : State := { tPut (tPut tState (spadKey 0 0x40) 8 w) (spadKey 0 0x50) 8 late with time := { ns := 10 } }
    let asleep : State := { s { tThread with wait := .queueRead 2 5 0 } with cores := [(0, { qdead := 2 ^ 20 })] }
    let word (w : State) (o : Nat) : Nat := Memory.readLE w.mem (spadKey 0 (0x40 + o)) 8
    ((s tThread).thAt 0).flake = none ∧ (s tThread).atBoundary 0 = true ∧ ((s tThread).thAt 0).nest = false ∧
    (s tThread).tvec.get 0 ((s tThread).thAt 0).asid.toNat ≠ 0 ∧
    ((s { tThread with sfrq := [(0x1800000000000040, 7)] }).thAt 0).sfrq = (0x1800000000000040, 7) :: [] ∧
    (s { tThread with wait := .directory }).atBoundary 0 = false ∧
    (65536 ≤ ((s { tThread with ringFails := 65536 }).thAt 0).ringFails ∧ ((s { tThread with rn := false }).thAt 0).rn = false) ∧
    (s { tThread with killed := true }).killDue 0 = true ∧ (s tThread).killDue 0 = false ∧
    ((asleep.core 0).qdead = 2 ^ 20 ∧ asleep.queuesDead 0 = true ∧ (asleep.ctx 0).isRunning = true ∧
      (asleep.ctx 1).isRunning = false ∧ (s tThread).queuesDead 0 = false) ∧
    (word (bar 1 10) 0 / 256 % 4 = 0 ∧ word (bar 1 10) 16 = 10 ∧ word (bar 0x101 10) 0 / 256 % 4 ≠ 0 ∧
      word (bar 1 11) 16 = 11 ∧ (bar 1 10).time.ns = 10) := by decide +kernel

/-- A page of ASID 3 at VA 0x140000000 in HBM to migrate to LPDDR, with its batch descriptor at VA 0x100002100. -/
def tMigrates : State := { tP with
  parts := [(0, { clusters := 7, glshare := 1, bulkLimit := 0x9000000000, asdir := 0x8000,
                  migrate := { base := 0x100002004, producer := 1 } })]
  mem := [(0x20028, 0x30001), (0x30000, 0x40001), (0x40000, 0x400000000050037), (0x2000, 0x100002100), (0x2100, 0x3000000000001),
    (0x2108, 0x100002200), (0x2110, 0x100002208), (0x2118, 0x100002210), (0x2120, 0x100002218), (0x2200, 0x140000000),
    (0x2208, 0x8000050000)].foldl (fun m c => Memory.writeLE m c.1 8 c.2) tP.mem }

theorem met_RefreshAndMigration :
    let s := tMigrates
    let r := (s.part 0).migrate
    let entry := s.engineWord 0 (BitVec.ofNat 64 (r.addr + r.consumer.toNat % 2 ^ 4 * 8))
    let q : Posted := { tPosted with key := glacierKey 0 0x1000010, arrival := some 1 }
    let spent : State := tPart s fun p => { p with migDone := some (0x100002218, 3, 1) }
    let w : State := { tState with stores := [q], time := { ns := 4000 } }
    let x : PortWrite := ⟨1, glacierKey 0 0x1000010, 7, 0, [1, 2]⟩
    let p : State := { tState with portQueue := [x], time := { ns := 4000 } }
    (w.refreshing 1 = false ∧ w.refreshing 2 = true ∧ q.key % 2 ^ 29 / 2 ^ 24 = 1 ∧ isGlacierKey q.key = true ∧
      w.storeRefused q = false ∧ w.stores = [q] ∧ w.portQueue = [] ∧ q.arrival.isSome = true ∧ p.stores = [] ∧
      p.refreshing (keyBank x.key) = false ∧ w.unitWaits = [] ∧ p.unitWaits = [] ∧ s.nextBatch 0 ≠ none ∧ p.pkg.fenced.getLsbD (natBits x.key 42 2) = false) ∧
    ((s.part 0).migDone = none ∧ r.size? = some 4 ∧ r.producer ≠ r.consumer ∧
      entry.bind (s.batchAt 0) = some ⟨3, [(0x140000000, 0x8000050000)], [0x2210], 0x100002218⟩ ∧
      s.eligible 0 3 0x140000000 0x8000050000 = some (0x40000, 0x50000, 1) ∧ s.copyFails 0 0x50000 0x8000050000 = false ∧
      s.eligible 0 3 0x140000000 0x60000 = none ∧
      (tPut s 0x2100 8 0).engineWord 0 0x100002000 = some 0x100002100 ∧ (tPut s 0x2100 8 0).batchAt 0 0x100002100 = none) ∧
    ((spent.part 0).migDone = some (0x100002218, 3, 1) ∧ spent.batchDrained 3 1 = true ∧
      spent.engineKey 0 0x100002218 8 .atomic = some 0x2218 ∧
      ({ spent with notices := [(0, 3, 1)] } : State).batchDrained 3 1 = false) := by decide +kernel

theorem met_RefreshAndMigration_apart :
    let s := tMigrates
    let entry (i : Nat) : Nat := s.physKey 0 (0x40000 + 8 * i)
    0x2210 < s.physKey 0 0x8000050000 ∧ ∀ i, i < 16 → 0x2210 < entry i ∧ entry i + 8 ≤ s.physKey 0 0x8000050000 ∧
      ∀ j, j < 16 → i ≠ j → entry i + 8 ≤ entry j ∨ entry j + 8 ≤ entry i := by decide +kernel

/-! ### Profiling, the host and the package -/

theorem met_Profiling :
    let s : State := tPart tP fun p => { p with sampctl := 0x8000000000000000, sample := { base := 0x100002004 } }
    s.sampled 0 = true ∧ tP.sampled 0 = false ∧ s.stallCode 0 = some 11 ∧ s.issuedNow 0 = false ∧
    ({ s with issued := [0], cores := [(0, { s.core 0 with lastUser := 0 })] } : State).issuedNow 0 = true ∧ (s.thAt 0).flake = none ∧
    s.groupsOf 0 1 = [] ∧ ((s.part 0).sample).size? = some 4 ∧
    ((s.part 0).sample.producer - (s.part 0).sample.consumer).toNat ≠ 2 ^ 4 := by decide +kernel

theorem met_Profiling_ring :
    tP.resolve (unitIssuer 0 0) 0x100002000 .write = .ok (.bulk .hbm 0x2000) := eq_ok_of (by decide +kernel)

theorem met_RegisterWrites :
    let s := tSup []
    let ends : State := { s with launches := [(1, { tLaunch with state := .ended })] }
    (s.launchesOf 0).any (fun l => l.state != .ended) = true ∧ (ends.launchesOf 0).any (fun l => l.state != .ended) = false ∧
    (tPart s fun p => { p with mailbox := List.replicate 256 0 }).part 0 = { s.part 0 with mailbox := List.replicate 256 0 } ∧
    s.pkg.dierst = 0 ∧ 10 ≤ (0xA00000001#64).toNat / 2 ^ 32 ∧ (0xA00000001#64).toNat / 2 ^ 32 ≤ 100000 ∧
    (50#64).toNat % 2 ^ 32 = 50 ∧ ({ s with pkg := { dierst := 1 } } : State).pkg.dierst ≠ 0 := by decide +kernel

theorem met_HostAndPeers :
    let s := tSup []
    let p := s.part 0
    let box (state : LaunchState) (h : Word) : State :=
      { tPart s fun p => { p with mailbox := leBytes 8 h.toNat } with launches := [(1, { tLaunch with state := state })] }
    let l (state : LaunchState) : Launch := { tLaunch with state := state }
    let ok := mkHeader 0 2 5 30 false 0 0x12
    let reason (st : LaunchState) (h : Word) : Nat := (box st h).mailboxReason (l st) ((box st h).mailboxMsg 0 (l st))
    (0x2000 + 2 ≤ p.aperture ∧ ∀ i, i < 2 → s.apertureByte p (p.apbase.toNat + 0x2000 + i) = true) ∧
    (s.apertureByte p (p.apbase.toNat + 0x100000) = false) ∧ ¬(p.aperture + 1 ≤ p.aperture) ∧
    s.launches.look? (0 * 2 ^ 32 + (7#64).toNat / 2 ^ 32) = none ∧
    (s.launches.look? (0 * 2 ^ 32 + (0x100000000#64).toNat / 2 ^ 32)).isSome = true ∧
    reason .running ok = 0 ∧ reason .swapped ok = 5 ∧ reason .running (mkHeader 1 2 5 30 false 0 0x12) = 1 ∧
    reason .running (mkHeader 0 2 5 30 false 29 0x12) = 2 ∧
    (s.unreachable (.bulk .hbm 0x2010) = false ∧ isControlKey (s.physKey 0 0x2010) = false ∧
      s.badGranule? (s.physKey 0 0x2010) 8 = none ∧ isGlacierKey (s.physKey 0 0x2010) = false ∧
      carries (.bulk .hbm 0x2010) (.rmw 0 8 7) = true ∧ carries (.bulk .hbm 0x2010) (.cas 8 1 7) = true) ∧
    (s.portHolds (s.physKey 0 0x2010) none = false ∧
      ({ s with portQueue := [⟨1, glacierKey 0 5, 7, 0, [1]⟩] } : State).portHolds (glacierKey 0 5) none = true) ∧
    (s.pkg.isDown 7 = false ∧ 7 ≠ s.pkg.chip ∧ s.unroutedSince s.pkg.noRoute = false ∧
      s.unroutedSince (s.pkg.noRouteTo.look? 7) = false ∧
      ({ s with pkg := { noRoute := some 0 }, time := { ns := 10000000000 } } : State).unroutedSince (some 0) = true ∧
      ({ s with pkg := { down := [7] } } : State).pkg.isDown 7 = true ∧ tState.domains = [] ∧ tState.floes = [] ∧
      ({ s with pkg := { ports := 1 } } : State).pkg.ports &&& ~~~BitVec.ofNat 32 (2 ^ 0) = 0) := by decide +kernel

theorem met_HostAndPeers_places :
    (tSup []).resolve ⟨none, 0, 3, true, false⟩ 0x100002010 .write = .ok (.bulk .hbm 0x2010) ∧
    (tSup []).resolve ⟨none, 0, 3, true, false⟩ 0x100002010 .atomic = .ok (.bulk .hbm 0x2010) ∧
    ∀ p, (tSup []).resolve ⟨none, 0, 3, true, false⟩ 0x40000000000 .write ≠ .ok p :=
  ⟨eq_ok_of (by decide +kernel), eq_ok_of (by decide +kernel), fun p h => by
    have : ((tSup []).resolve ⟨none, 0, 3, true, false⟩ 0x40000000000 .write).toOption = none := by decide +kernel
    rw [h] at this; cases this⟩

theorem met_PackageResets :
    let s : State := { tSup [] with pkg := { attState := 1, dierst := 1, fenced := 0, quiesceBy := 0, nonce := List.replicate 64 1 } }
    s.pkg.attState = 1 ∧ s.pkg.nonce.length ≤ 64 ∧ s.pkg.chip < 2 ^ 18 ∧ (tSup []).pkg.attState ≠ 1 ∧ s.fenceDue 0 = true ∧
    (tSup []).fenceDue 0 = false ∧ ({ s with pkg := { fenced := 1 } } : State).pkg.fenced.getLsbD 0 = true ∧
    (tSup []).pkg.fenced.getLsbD 0 = false ∧ s.pkg.minVersion ≤ 0 ∧ ({ s with pkg := { policy := 2 } } : State).pkg.policy = 2 := by
  decide +kernel

/-! ### Fetch and the step -/

theorem met_Fetching_place : tP.resolve (tP.th.issuer tP.me) 0x100000FFC .fetch = .ok (.bulk .hbm 0xFFC) :=
  eq_ok_of (by decide +kernel)

theorem met_Fetching :
    (0x100000FFC#64).toNat % 4 = 0 ∧ (0x100000002#64).toNat % 4 ≠ 0 ∧ tP.unreachable (.bulk .hbm 0xFFC) = false ∧
    tP.icacheHit tP.me 0 3 (natBits (0x100000FFC#64).toNat 0 52) = none ∧ tP.badGranule? (tP.physKey 0 0xFFC) 4 = none ∧
    0xFFC % 64 = (0x100000FFC#64).toNat % 64 ∧
    ({ tP with errors := [0xFF0] } : State).badGranule? (tP.physKey 0 0xFFC) 4 ≠ none := by decide +kernel

/-- The word at an address has a property. -/
def tFetches (s : State) (pc : Word) (p : Nat → Bool) : Bool :=
  match s.fetchWord pc with
  | .ok (w, _) => p w
  | .error _ => false

theorem fetches {s : State} {pc : Word} {p : Nat → Bool} (h : tFetches s pc p = true) :
    ∃ w u, s.fetchWord pc = .ok (w, u) ∧ p w = true := by
  unfold tFetches at h
  split at h
  · exact ⟨_, _, by assumption, h⟩
  · cases h

/-- Followers of an IMX that take it, that do not, and that cannot be fetched; an extended immediate. -/
theorem met_ImmediateExtension :
    (∃ w u, (tPut tP 4 4 0x2029BFFC).fetchWord ((tPut tP 4 4 0x2029BFFC).th.pc + 4) = .ok (w, u) ∧ takesImx (w / 2 ^ 24) = true) ∧
    (∃ w u, tP.fetchWord (tP.th.pc + 4) = .ok (w, u) ∧ (!takesImx (w / 2 ^ 24)) = true) ∧
    tP.th.flake = none ∧ tInline.th.flake ≠ none ∧ ({ tThread with imx := some 5 } : Thread).imx = some 5 :=
  ⟨fetches (by decide +kernel), fetches (by decide +kernel), by decide +kernel, by decide +kernel, by decide +kernel⟩

theorem met_DecodeOfEncode :
    encodingOk (.addi 31 6 0x1FFF) = true ∧ encode (.addi 31 6 0x1FFF) = some 0x20F99FFF ∧ 0x20F99FFF < 2 ^ 32 := by decide +kernel

/-- A word with a nonzero unused field, an unassigned OP, and an odd pair of a load that two registers receive. -/
theorem met_IllegalWords :
    (∃ w u, (tPut tP 0 4 0x0100C801).fetchWord (tPut tP 0 4 0x0100C801).th.at_ = .ok (w, u) ∧
      (match decode w with | .error _ => true | .ok _ => false) = true) ∧
    unassignedOp 0xFF = true ∧ encode (.cas 31 4 10 2 3) ≠ none ∧ encodingOk (.cas 31 4 10 2 3) = false :=
  ⟨fetches (by decide +kernel), by decide +kernel, by decide +kernel, by decide +kernel⟩

/-- An ADDI fetched from memory runs: in the turn of its core, and after the tick in which that core has issued. -/
theorem met_StepRunsDecoded :
    let s : State := { tPut tP 0 4 0x2029BFFC with vcycle := 3 }
    let a := s.issue 0
    let gone : State := { s with vcycle := 2 }
    (a.th.flake = none ∧ (a.core a.me).regError = false) ∧ (∃ w u, a.fetchWord a.th.at_ = .ok (w, u) ∧
      (match decode w with | .ok i => decide (i = .addi 5 6 (-4)) | .error _ => false) = true) ∧
    (s.canIssue 0 = true ∧ s.beforeIssue 0 = none ∧ s.pick 0 = some 0 ∧ s.coreLeft = some 0 ∧ s.turns = [] ∧
      s.localFloe = [] ∧ s.nextEvent = none) ∧
    (gone.canIssue 0 = false ∧ gone.coreLeft = none ∧ gone.beforeIssue 0 = none ∧ gone.tickEvent = none ∧
      gone.cycle.canIssue 0 = true ∧ gone.cycle.beforeIssue 0 = none ∧ gone.cycle.pick 0 = some 0) :=
  ⟨by decide +kernel, fetches (by decide +kernel), by decide +kernel, by decide +kernel⟩

/-- An event of the script, of the chip's own messages, of the units, and of the end of a V cycle; and a tick with nothing. -/
theorem met_StepRunsDecoded_events :
    let m : FloeMsg := ⟨11, .cut, 9, 0, 7, 0, false, 0⟩
    let armed : State := { State.reset with slots := [(0, { state := 1 })] }
    let ending : State := { tState with jobs := [(9, { tJob (tWord 1 1 0 0) with state := .bodyDone })], issued := [0] }
    (encode (.boot true 1) = none ∧ isEnd (.boot true 1) = false ∧ encode (.kill 0) = none ∧ isEnd (.kill 0) = true) ∧
    m.event = some (.done (⟨9, 7⟩, 0)) ∧ armed.nextEvent ≠ none ∧
    (ending.nextEvent = none ∧ ending.coreLeft = none ∧ ending.endEvent = some (.jobCompletion 9)) ∧
    (State.reset.nextEvent = none ∧ State.reset.coreLeft = none ∧ State.reset.endEvent = none ∧
      State.reset.turns = [] ∧ State.reset.localFloe = []) := by decide +kernel

theorem met_StepKeepsInv : Memory.wf tMigrates.mem = true ∧ ∃ t, step tMigrates = .next t := by
  refine ⟨by decide +kernel, ?_⟩
  have h : (match step tMigrates with | .next _ => true | _ => false) = true := by decide +kernel
  generalize step tMigrates = o at h ⊢
  cases o with
  | next t => exact ⟨t, rfl⟩
  | _ => cases h

/-! ### Waits on the port, latched words, and completions -/

/-- The port of core 0 has performed an operation in this V cycle, or not; a wait and a latched word. -/
def tBusy (s : State) : State := s.usePort 0

theorem met_Atomics_Barriers_Rings_port :
    let bar := tBarrier (9 * 2 ^ 48 + 5 * 2 ^ 32 + 3 * 2 ^ 16) 9
    let ring := tQueue 6 3 0x02001000
    ((tBusy bar).core (tBusy bar).me).portBusy = true ∧ (bar.core bar.me).portBusy = false ∧
    bar.badGranule? (spadKey 0 0x1FFE8) 24 = none ∧ (tBusy bar).unacked true = false ∧
    (ring.core ring.me).portBusy = false ∧ ring.ringError ring.me 0x200 false = none ∧
    ((tHolds 0x100 {}).core 0).portBusy = false ∧ (tThen tState fun t => { t with latch := [1, 2, 3, 4] }).th.latch ≠ [] ∧
    tState.th.latch = [] := by decide +kernel

theorem met_JoinCounters_answers :
    let s := tThen (tPut (tBRegs [(6, 0x0010000000000200)]) (spadKey 0 0x200) 8 1) fun t => { t with wait := .joinHit 0x10000 }
    let asleep := tThen s fun t => { t with wait := .join (spadKey 0 0x200) }
    let d (fin : Bool) : Decrement := ⟨0x0010000000000200, true, 0, 1, fin, none⟩
    let u (fin : Bool) : State := { s with decrements := [d fin] }
    s.th.wait = .joinHit 0x10000 ∧ 0x10000 < 2 ^ 64 ∧ (asleep.thAt 0).wait = .join (spadKey 0 0x200) ∧
    spadKey 0 0x200 < spadKey 0 0x200 + 8 ∧ (u true).decrements = d true :: [] ∧ (u false).decrements = d false :: [] ∧
    isSpadKey (d true).addr.toNat = true ∧ (u true).stores = [] ∧ (u true).ctxOfTid 0 1 = some 0 := by decide +kernel

/-- The counter of a spawn, or of an end, at a port that is free, in use, and past its turn of the tick; and in error. -/
theorem met_Sending_JoinCounters_port :
    let s := tHeader (mkHeader 0 2 5 30 false 77 0x12) 0x0010000000000300
    let j := 0x0010000000000300
    let bad : State := { s with errors := [j] }
    let d : Decrement := ⟨0x0010000000000300, true, 0, 0, false, some (tMsg, 30, 4)⟩
    coreOfKey j = 0 ∧ (s.core 0).portBusy = false ∧ ((tBusy s).core 0).portBusy = true ∧ s.badGranule? j 8 = none ∧
    bad.badGranule? j 8 = some j ∧ ({ s with decrements := [d] } : State).portTaken 0 = false ∧
    ({ s with decrements := [d] } : State).stores = [] ∧ isSpadKey d.addr.toNat = true ∧
    (tBusy (tBRegs [(6, 0x100)])).me = 0 ∧ coreOfKey (spadKey 0 0x100) = 0 := by decide +kernel

theorem met_PostedStores_FarLoads_port :
    let s : State := { tBulk with stores := [tPosted] }
    s.portHolds tPosted.key tPosted.arrival = false ∧ tBulk.portHolds 0x20010 none = false ∧
    tBulk.pendingOf 0 (lineOf (spadKey 1 0x100)) 64 = false := by decide +kernel

theorem met_JobBeginnings_turn :
    let q (cls : Nat) : Job := { tBody false (tWord 1 cls 0 0) with state := .queued }
    let s (turn : Nat) : State :=
      { tState with jobs := [(9, q 1), (10, { q 1 with core := 1 })], clusters := [(0, { copyTurn := turn })] }
    (s 0).copyPort (clusterOf (q 1).core) = some (cellOf (q 1).core % 3) ∧
    ((s 1).jobs.filter fun e => e.2.cls == 1 && e.2.state != .queued && clusterOf e.2.core == 0).length < 8 := by
  decide +kernel

theorem met_JobCompletions_waits :
    let j (mode : Nat) : Job := { tBody false (tWord 1 1 0 (mode * 2 ^ 232)) with state := .bodyDone }
    let s : State := tRuns (j 2)
    CmdWord.mode (j 2).word = 2 ∧ ((tBusy s).core (coreOfCtx 0)).portBusy = true ∧ (s.core (coreOfCtx 0)).portBusy = false := by decide +kernel

/-- A WBFILL that a restore repeats for a footprint of core 0 alone. -/
theorem met_ImageSets_MatrixBodies_refill :
    let j := (tBody false 0).repeated 1 [0]
    (tRuns j).jobs.any (fun j => j.2.refills 1) = true ∧ j.fills 0 = true ∧ j.fills 1 = false ∧
    (tBody false 0).fills 1 = true ∧ j.checkArrival.status = 0 ∧
    ({ tBody false (tWord 6 0 0 (2 * 2 ^ 232 + 0x1FFE9 * 2 ^ 200)) with state := .running } : Job).checkArrival.status = 4 := by
  decide +kernel

theorem met_ServiceFlakes_port :
    (tBusy tState).portTaken 0 = true ∧ tState.portTaken 0 = false ∧ tState.closeTick.portTaken 0 = true ∧
    ({ tState with vcycle := 15 } : State).mailReady 0 = true ∧ tState.stopping (tState.thAt 0).launch = false := by
  decide +kernel

theorem met_BoundaryTraps_named :
    let stops : State := { tB with launches := [(1, { tLaunch with stopping := true })] }
    tB.stopped 0 = false ∧ stops.stopped 0 = true ∧ Cause.illegal ≠ Cause.misalign ∧ (0x12 : BitVec 8) ≠ Cause.illegal := by
  decide +kernel

/-- A message that a stop left in its port, behind one that is blocked there. -/
theorem met_MeshAndArrival_port :
    let m : Msg := { tMsg with inPort := true }
    let s := tMesh [{ tMsg with id := 49, blocked := true, header := m.header }, m]
    s.mesh.find? (fun x => x.id == 50) = some m ∧ m.taker = none ∧ s.egressBlocked m.at_ (hPrio m.header) = true ∧
    ({ s with pkg := { dierst := 1, fenced := 1 } } : State).pkg.fenced.getLsbD (dieOf 30) = true := by
  decide +kernel

/-- Formats that differ and formats that are equal, and a NaN, a subnormal that FTZ flushes, and a number. -/
theorem met_VectorConversion :
    Fmt.ofType 0 = .fp32 ∧ Fmt.ofCode 0 = some .fp32 ∧ Fmt.ofCode 3 = some .e4m3 ∧
    (let u : Thread := { tThread with ftz := true }
     u.operand .fp32 0x7FC00000 = .nan ∧ u.operand .fp32 1 ≠ Fmt.fp32.decode (elemBits .fp32 1) ∧
       u.operand .fp32 0x3F800000 = Fmt.fp32.decode (elemBits .fp32 0x3F800000)) := by decide +kernel

theorem met_LoadsAndAtomicsComplete :
    let s := tHolds 0x1FFF8 (tCap 0 0 0x1FFF8 0x8 0x3F)
    let far := tThen tState fun t => { t with wait := .load 5 4 true 0x20010 0x100000010 false 0 0x100000004 false }
    TokenFree s [6, 7, 5, 6] ∧ s.stores = [] ∧ s.errors = [] ∧ s.th.flake = none ∧ (s.core s.me).portBusy = false ∧
    s.pkg.fenced.getLsbD (dieOf s.me) = false ∧ s.dataPlace 0x1FFF8 8 .read = some (.spad s.me 0x1FFF8 true) ∧
    (0x1FFF8#64).toNat % 8 = 0 ∧ encodingOk (.atom 5 6 7 8 3 4) = true ∧ encodingOk (.atomCap 5 2 7 8 3) = true ∧
    encodingOk (.cas 10 6 7 3 4) = true ∧ encodingOk (.casCap 10 2 7 3) = true ∧
    s.capOk (s.th.cap 2) 0 8 [107] = true ∧ s.localPeer (s.th.cap 2) = true ∧
    ((far.ctx 0).isRunning = true ∧ (far.thAt 0).wait = .load 5 4 true 0x20010 0x100000010 false 0 0x100000004 false ∧
      far.stores = [] ∧ far.portQueue = [] ∧ far.unitWaits = [] ∧ far.errors = [] ∧ far.keyRefreshing 0x20010 = false ∧
      far.loadLost 0x20010 = false ∧ isControlKey 0x20010 = false ∧ 0x20010 % 64 + 4 ≤ 64) := by
  unfold TokenFree; decide +kernel

theorem met_LoadsAndAtomicsComplete_places :
    let s := tHolds 0x1FFF8 (tCap 0 0 0x1FFF8 0x8 0x3F)
    s.resolve (s.th.issuer s.me) 0x1FFF8 .atomic = .ok (.spad s.me 0x1FFF8 true) ∧
    s.resolve (s.th.issuer s.me) ((s.th.cap 2).addr 0) .atomic = .ok (.spad s.me 0x1FFF8 false) :=
  ⟨eq_ok_of (by decide +kernel), eq_ok_of (by decide +kernel)⟩

theorem met_LaunchControllersComplete :
    let waiting := { tLaunch with state := .waiting, block := tBlock, met := 0xF }
    let sending := { tLaunch with state := .distributing, block := tBlock }
    let stopping := { tLaunch with stopping := true, image := 0x10000 }
    let restoring := { tLaunch with stopping := true, resume := some 0x10000 }
    let idle : State := { tOne tLaunch with ctxs := [] }
    let x := (tSlot { state := 1, block := tBlock }).slot 0 5
    (0x7FF8 < 0x8000 ∧ ((tSup []).slot 0 63).state ≠ 1) ∧
    (x.state = 1 ∧ (tSlot x).rejectReason 0 x.badArm false x.block = none ∧ Block.action x.block ≠ 1) ∧
    (waiting.state = .waiting ∧ (tOne waiting).waitOverFor waiting = true ∧ waiting.isFloe = false ∧
      (tOne sending).nextSpawner 0 = some sending ∧ tLaunch.resume = none ∧ idle.launchLives 1 = false) ∧
    (let s := tPart (tOne tLaunch) fun p => { p with preimage := 0x30000 }
     s.physImage 0 (s.part 0).preimage = some 0x30000 ∧ s.requestStopping 0 = false ∧ 1 = 0 + (0x100000000#64).toNat / 2 ^ 32) ∧
    (tOne stopping).requestSettled stopping = true ∧ (tOne restoring).launches.look? 1 = some restoring ∧
    restoring.resume = some 0x10000 := by decide +kernel

theorem met_SelectionCompletes :
    let pair (l p : Nat) : Nat := l * 2 ^ 120 + p * 2 ^ 104
    let j (s : State) : Job := s.jobs.get (tJob 0) 9
    let turn (s : State) (op reserved : Nat) : Bool := s.selTurn 9 (j s) && s.selDomain (j s) == some 0x1000 &&
      CmdWord.opcode (j s).word == op && !Layout.bad ⟨0, reserved⟩ (j s).word && CmdWord.bits (j s).word 136 6 == 0 &&
      !s.descFaults 9 .read && !s.descFaults 9 .write
    let moraine (fn : Nat) := tSel tSlots 4 (if fn = 1 then 2 ^ 134 + 0x20000 * 2 ^ 70 + 4 * 2 ^ 64 else 0)
    let owes : Domain := { tSlots with owed := [List.range 8] }
    turn (tSel tSlots 1 0) 1 136 = true ∧ turn (tSel tSlots 2 (pair 2 3)) 2 104 = true ∧
    turn (tSel tSlots 3 (pair 0 2)) 3 104 = true ∧ turn (moraine 1) 4 64 = true ∧ turn (moraine 0) 4 64 = true ∧
    (moraine 1).producer 0x1000 = (moraine 1).consumer 0x1000 ∧ (tSel tSlots 2 (pair 2 3)).errors = [] ∧
    (tSel tSlots 1 0).domainById tSlots.domainId.toNat = some (0x1000, tSlots) ∧
    ({ tSlots with phase := .begin_ } : Domain).phase = .begin_ ∧
    (tSel owes 1 0).unitKey 0 3 (BitVec.ofNat 64 (Desc.ringBase owes.desc)) .write = some 0x3000 ∧
    tSlots.unheard.contains (7, 0) = false := by decide +kernel

end Sys2Proof.Tests
end

section
/-!
SUPPORT. CLZ, POPC and SEL (R332, R384, R393): what their words decode to, what the two counts of a register are, and
what an instruction with one result leaves.
-/

namespace Sys2Proof

/-! ## Words (R278, R279) -/

theorem fixedOk_of_true {ok : Bool} (m : String) (i : Instr) (h : ok = true) : fixedOk ok m i = .ok i := by
  simp [fixedOk, h]

theorem fixedOk_of_false {ok : Bool} (m : String) (i : Instr) (h : ok = false) :
    fixedOk ok m i = .error (.fixedField m) := by simp [fixedOk, h]

/-- A field reads as the value whose bits stand in its place. -/
theorem fld_eq_of_mod {n w lo : Nat} {x : BitVec n} (h : w / 2 ^ lo % 2 ^ n = x.toNat) : fld n w lo = x :=
  BitVec.eq_of_toNat_eq (by rw [fld, BitVec.toNat_ofNat, h])

theorem decode_eq_decodeRow1 {w lo : Nat} (h : w / 2 ^ 24 = 0x10 + lo) (hlo : lo < 16) :
    decode w = decodeRow1 lo w := by
  have hrow : w / 2 ^ 28 % 16 = 1 := by omega
  have hcol : w / 2 ^ 24 % 16 = lo := by omega
  simp only [decode, hrow, hcol]

theorem decode_of_opcode_clz {w : Nat} (h : w / 2 ^ 24 = 0x16) :
    decode w = fixedOk (decide (w % 2 ^ 14 = 0)) "CLZ" (.clz (fld 5 w 19) (fld 5 w 14)) :=
  decode_eq_decodeRow1 (lo := 6) h (by decide)

theorem decode_of_opcode_popc {w : Nat} (h : w / 2 ^ 24 = 0x17) :
    decode w = fixedOk (decide (w % 2 ^ 14 = 0)) "POPC" (.popc (fld 5 w 19) (fld 5 w 14)) :=
  decode_eq_decodeRow1 (lo := 7) h (by decide)

theorem decode_of_opcode_sel {w : Nat} (h : w / 2 ^ 24 = 0x18) :
    decode w = fixedOk (decide (w % 2 ^ 4 = 0)) "SEL" (.sel (fld 5 w 19) (fld 5 w 14) (fld 5 w 9) (fld 5 w 4)) :=
  decode_eq_decodeRow1 (lo := 8) h (by decide)

end Sys2Proof

namespace Sys2Proof.Machine

open Sys2Proof

/-- A word whose decoding turns on its fixed field is rejected when that field is wrong. -/
theorem Rejected.of_fixedOk {w : Nat} {ok : Bool} {m : String} {i : Instr} (hd : decode w = fixedOk ok m i)
    (h : ok = false) : Rejected w := ⟨_, hd.trans (fixedOk_of_false m i h)⟩

/-- The fields D and A of a word with nothing below them, and the fixed field. -/
theorem wordR_fields_two (op : Nat) (d a : BitVec 5) :
    let w := wordR op d.toNat a.toNat 0 0
    w / 2 ^ 24 = op ∧ w % 2 ^ 14 = 0 ∧ fld 5 w 19 = d ∧ fld 5 w 14 = a := by
  refine ⟨?_, ?_, fld_eq_of_mod ?_, fld_eq_of_mod ?_⟩ <;> unfold wordR <;> omega

/-- The fields of a word with C in F[8:4], and the fixed field F[3:0]. -/
theorem wordR_fields_four (op : Nat) (d a b c : BitVec 5) :
    let w := wordR op d.toNat a.toNat b.toNat (c.toNat * 16)
    w / 2 ^ 24 = op ∧ w % 2 ^ 4 = 0 ∧ fld 5 w 19 = d ∧ fld 5 w 14 = a ∧ fld 5 w 9 = b ∧ fld 5 w 4 = c := by
  refine ⟨?_, ?_, fld_eq_of_mod ?_, fld_eq_of_mod ?_, fld_eq_of_mod ?_, fld_eq_of_mod ?_⟩ <;> unfold wordR <;> omega

theorem standsFor_clz (d a : BitVec 5) : StandsFor (wordR 0x16 d.toNat a.toNat 0 0) (.clz d a) := by
  obtain ⟨hop, hfix, hd, ha⟩ := wordR_fields_two 0x16 d a
  refine ⟨?_, ?_⟩
  · rw [decode_of_opcode_clz hop, hd, ha, fixedOk_of_true _ _ (decide_eq_true hfix)]
  · simp [encode, put2, wordR]

theorem standsFor_popc (d a : BitVec 5) : StandsFor (wordR 0x17 d.toNat a.toNat 0 0) (.popc d a) := by
  obtain ⟨hop, hfix, hd, ha⟩ := wordR_fields_two 0x17 d a
  refine ⟨?_, ?_⟩
  · rw [decode_of_opcode_popc hop, hd, ha, fixedOk_of_true _ _ (decide_eq_true hfix)]
  · simp [encode, put2, wordR]

theorem standsFor_sel (d a b c : BitVec 5) :
    StandsFor (wordR 0x18 d.toNat a.toNat b.toNat (c.toNat * 16)) (.sel d a b c) := by
  obtain ⟨hop, hfix, hd, ha, hb, hc⟩ := wordR_fields_four 0x18 d a b c
  refine ⟨?_, ?_⟩
  · rw [decode_of_opcode_sel hop, hd, ha, hb, hc, fixedOk_of_true _ _ (decide_eq_true hfix)]
  · simp [encode, put4, wordR]

/-! ## Leading zeros and set bits -/

theorem leadingZeros_le (x : Word) (n : Nat) : leadingZeros x n ≤ n := by
  induction n with
  | zero => exact Nat.le_refl 0
  | succ n ih => rw [leadingZeros]; split <;> omega

/-- The bits that are counted, from bit n - 1 down, are zero. -/
theorem getLsbD_of_lt_leadingZeros (x : Word) {n k : Nat} (h : k < leadingZeros x n) :
    x.getLsbD (n - 1 - k) = false := by
  induction n generalizing k with
  | zero => exact absurd h (Nat.not_lt_zero k)
  | succ n ih =>
    rw [leadingZeros] at h
    split at h
    · exact absurd h (Nat.not_lt_zero k)
    · next htop =>
      cases k with
      | zero => simpa using htop
      | succ k =>
        have hbit := ih (k := k) (by omega)
        rwa [show n + 1 - 1 - (k + 1) = n - 1 - k by omega]

/-- The bit below those that are counted is set, unless all n are counted. -/
theorem getLsbD_leadingZeros (x : Word) {n : Nat} (h : leadingZeros x n < n) :
    x.getLsbD (n - 1 - leadingZeros x n) = true := by
  induction n with
  | zero => exact absurd h (Nat.not_lt_zero _)
  | succ n ih =>
    rw [leadingZeros] at h ⊢
    split
    · next htop => simpa using htop
    · next htop =>
      rw [if_neg htop] at h
      have hbit := ih (by omega)
      rwa [show n + 1 - 1 - (1 + leadingZeros x n) = n - 1 - leadingZeros x n by omega]

theorem countOnes_eq_length_filter (x : Word) (n : Nat) :
    countOnes x n = ((List.range n).filter fun k => x.getLsbD k).length := by
  induction n with
  | zero => rfl
  | succ n ih =>
    rw [countOnes, ih, List.range_succ, List.filter_append, List.length_append]
    cases hbit : x.getLsbD n <;> simp [hbit, Nat.add_comm]

/-! ## Results (R332, R384, R393) -/

/-- An instruction that writes one register and completes has that register's outcome. -/
theorem Completes.of_finishS {s : State} {i : Instr} {d : Nat} {v : Word} (h : exec i s = .next (s.finishS d v)) :
    Completes s i [(d, v)] (following s) := ⟨_, h, ScalarOutcome.finishS s d v⟩

/-- An operation on S[A], whose registers hold no token, writes its result at once. -/
theorem State.opUnary_of_free {s : State} {d a : BitVec 5} (f : Word → Word) (h : TokenFree s [a.toNat, d.toNat]) :
    s.opUnary d a f = s.finishS d.toNat (f (s.th.S a.toNat)) :=
  State.withRegs_of_free (reads := [a.toNat]) (writes := [d.toNat]) _ h

theorem completes_clz {s : State} {d a : BitVec 5} (h : TokenFree s [a.toNat, d.toNat]) :
    Completes s (.clz d a) [(d.toNat, BitVec.ofNat 64 (leadingZeros (s.th.S a.toNat) 64))] (following s) :=
  .of_finishS (congrArg Host.Outcome.next (State.opUnary_of_free _ h))

theorem completes_popc {s : State} {d a : BitVec 5} (h : TokenFree s [a.toNat, d.toNat]) :
    Completes s (.popc d a) [(d.toNat, BitVec.ofNat 64 (countOnes (s.th.S a.toNat) 64))] (following s) :=
  .of_finishS (congrArg Host.Outcome.next (State.opUnary_of_free _ h))

theorem completes_sel {s : State} {d a b c : BitVec 5} (h : TokenFree s [a.toNat, b.toNat, c.toNat, d.toNat]) :
    Completes s (.sel d a b c)
      [(d.toNat, if s.th.S c.toNat = 0 then s.th.S b.toNat else s.th.S a.toNat)] (following s) :=
  .of_finishS (congrArg Host.Outcome.next
    (State.withRegs_of_free (reads := [a.toNat, b.toNat, c.toNat]) (writes := [d.toNat]) _ h))

/-- R332: the result of CLZ is the number of leading zero bits, and 64 for a zero operand. -/
theorem completes_clz_spec {s : State} {d a : BitVec 5} (h : TokenFree s [a.toNat, d.toNat]) :
    ∃ n, n ≤ 64 ∧ Completes s (.clz d a) [(d.toNat, BitVec.ofNat 64 n)] (following s) ∧
      (∀ k, k < n → (s.th.S a.toNat).getLsbD (63 - k) = false) ∧
      (n < 64 → (s.th.S a.toNat).getLsbD (63 - n) = true) :=
  ⟨leadingZeros (s.th.S a.toNat) 64, leadingZeros_le _ _, completes_clz h,
    fun _ hk => getLsbD_of_lt_leadingZeros _ hk, fun hn => getLsbD_leadingZeros _ hn⟩

/-- R332's worked operands. -/
theorem leadingZeros_worked : leadingZeros 0 64 = 64 ∧ leadingZeros 0x10000 64 = 47 := by decide

theorem completes_clz_worked {s : State} {d a : BitVec 5} (h : TokenFree s [a.toNat, d.toNat]) :
    (s.th.S a.toNat = 0 → Completes s (.clz d a) [(d.toNat, 64)] (following s)) ∧
    (s.th.S a.toNat = 0x10000 → Completes s (.clz d a) [(d.toNat, 47)] (following s)) := by
  obtain ⟨hzero, hbit⟩ := leadingZeros_worked
  have hclz := completes_clz h
  refine ⟨fun ha => ?_, fun ha => ?_⟩
  · rwa [ha, hzero] at hclz
  · rwa [ha, hbit] at hclz

theorem completes_popc_spec {s : State} {d a : BitVec 5} (h : TokenFree s [a.toNat, d.toNat]) :
    Completes s (.popc d a)
      [(d.toNat, BitVec.ofNat 64 ((List.range 64).filter fun k => (s.th.S a.toNat).getLsbD k).length)]
      (following s) := by
  rw [← countOnes_eq_length_filter]
  exact completes_popc h

theorem completes_sel_spec {s : State} {d a b c : BitVec 5} (h : TokenFree s [a.toNat, b.toNat, c.toNat, d.toNat]) :
    (s.th.S c.toNat ≠ 0 → Completes s (.sel d a b c) [(d.toNat, s.th.S a.toNat)] (following s)) ∧
    (s.th.S c.toNat = 0 → Completes s (.sel d a b c) [(d.toNat, s.th.S b.toNat)] (following s)) := by
  have hsel := completes_sel h
  refine ⟨fun hc => ?_, fun hc => ?_⟩
  · rwa [if_neg hc] at hsel
  · rwa [if_pos hc] at hsel

/-- Settles O1: each word's fields read back, the two counts by induction over the bits counted, and each instruction as
one register written. -/
theorem countAndSelectRules : Obligations.CountAndSelectRules := by
  unfold Obligations.CountAndSelectRules
  refine ⟨⟨standsFor_clz, ?_, fun _ _ _ => completes_clz_spec, rfl, fun _ _ _ => completes_clz_worked, rfl⟩,
    ⟨standsFor_popc, ?_, fun _ _ _ => completes_popc_spec,
      fun _ => Nat.le_trans (List.length_filter_le _ _) (Nat.le_of_eq List.length_range), rfl, rfl⟩,
    ⟨standsFor_sel, ?_, fun _ _ _ _ _ => completes_sel_spec, rfl, rfl⟩⟩
  · exact fun w hop hfix => .of_fixedOk (decode_of_opcode_clz hop) (decide_eq_false hfix)
  · exact fun w hop hfix => .of_fixedOk (decode_of_opcode_popc hop) (decide_eq_false hfix)
  · exact fun w hop hfix => .of_fixedOk (decode_of_opcode_sel hop) (decide_eq_false hfix)

end Sys2Proof.Machine
end

section
/-!
SUPPORT. SUB, OR, ORI, XOR, XORI and RAND (R382, R387, R408, R443): what their words decode to, what an R-format and an
I-format operation leave, and what RAND leaves of the stream it draws from.
-/

namespace Sys2Proof

/-! ## Words (R278, R279) -/

/-- The two hexadecimal digits of an opcode byte. -/
theorem opcode_digits {w hi lo : Nat} (h : w / 2 ^ 24 = 16 * hi + lo) (hhi : hi < 16) (hlo : lo < 16) :
    w / 2 ^ 28 % 16 = hi ∧ w / 2 ^ 24 % 16 = lo := by omega

theorem decode_eq_decodeRow0 {w lo : Nat} (h : w / 2 ^ 24 = lo) (hlo : lo < 16) : decode w = decodeRow0 lo w := by
  obtain ⟨hrow, hcol⟩ := opcode_digits (hi := 0) (h.trans (Nat.zero_add lo).symm) (by decide) hlo
  simp only [decode, hrow, hcol]

theorem decode_eq_decodeRow2 {w lo : Nat} (h : w / 2 ^ 24 = 0x20 + lo) (hlo : lo < 16) :
    decode w = decodeRow2 lo w := by
  obtain ⟨hrow, hcol⟩ := opcode_digits (hi := 2) h (by decide) hlo
  simp only [decode, hrow, hcol]

theorem decode_eq_decodeRow7 {w lo : Nat} (h : w / 2 ^ 24 = 0x70 + lo) (hlo : lo < 16) :
    decode w = decodeRow7 lo w := by
  obtain ⟨hrow, hcol⟩ := opcode_digits (hi := 7) h (by decide) hlo
  simp only [decode, hrow, hcol]

theorem decode_of_opcode_sub {w : Nat} (h : w / 2 ^ 24 = 0x02) :
    decode w = fixedOk (decide (w % 2 ^ 9 = 0)) "SUB" (.sub (fld 5 w 19) (fld 5 w 14) (fld 5 w 9)) :=
  decode_eq_decodeRow0 h (by decide)

theorem decode_of_opcode_or {w : Nat} (h : w / 2 ^ 24 = 0x0B) :
    decode w = fixedOk (decide (w % 2 ^ 9 = 0)) "OR" (.or (fld 5 w 19) (fld 5 w 14) (fld 5 w 9)) :=
  decode_eq_decodeRow0 h (by decide)

theorem decode_of_opcode_xor {w : Nat} (h : w / 2 ^ 24 = 0x0C) :
    decode w = fixedOk (decide (w % 2 ^ 9 = 0)) "XOR" (.xor (fld 5 w 19) (fld 5 w 14) (fld 5 w 9)) :=
  decode_eq_decodeRow0 h (by decide)

theorem decode_of_opcode_ori {w : Nat} (h : w / 2 ^ 24 = 0x22) :
    decode w = .ok (.ori (fld 5 w 19) (fld 5 w 14) (fld 14 w 0)) :=
  decode_eq_decodeRow2 (lo := 2) h (by decide)

theorem decode_of_opcode_xori {w : Nat} (h : w / 2 ^ 24 = 0x23) :
    decode w = .ok (.xori (fld 5 w 19) (fld 5 w 14) (fld 14 w 0)) :=
  decode_eq_decodeRow2 (lo := 3) h (by decide)

theorem decode_of_opcode_rand {w : Nat} (h : w / 2 ^ 24 = 0x7E) :
    decode w = fixedOk (decide (w % 2 ^ 19 = 0)) "RAND" (.rand (fld 5 w 19)) :=
  decode_eq_decodeRow7 (lo := 14) h (by decide)

end Sys2Proof

namespace Sys2Proof.Machine

open Sys2Proof

/-- The field D of a word with nothing below it, and the fixed field. -/
theorem wordR_fields_one (op : Nat) (d : BitVec 5) :
    let w := wordR op d.toNat 0 0 0
    w / 2 ^ 24 = op ∧ w % 2 ^ 19 = 0 ∧ fld 5 w 19 = d := by
  refine ⟨?_, ?_, fld_eq_of_mod ?_⟩ <;> unfold wordR <;> omega

/-- The fields D, A and B of a word, and the fixed field F. -/
theorem wordR_fields_three (op : Nat) (d a b : BitVec 5) :
    let w := wordR op d.toNat a.toNat b.toNat 0
    w / 2 ^ 24 = op ∧ w % 2 ^ 9 = 0 ∧ fld 5 w 19 = d ∧ fld 5 w 14 = a ∧ fld 5 w 9 = b := by
  refine ⟨?_, ?_, fld_eq_of_mod ?_, fld_eq_of_mod ?_, fld_eq_of_mod ?_⟩ <;> unfold wordR <;> omega

/-- The fields D, A and IMM14 of a word. -/
theorem wordI_fields (op : Nat) (d a : BitVec 5) (i : BitVec 14) :
    let w := wordI op d.toNat a.toNat i.toNat
    w / 2 ^ 24 = op ∧ fld 5 w 19 = d ∧ fld 5 w 14 = a ∧ fld 14 w 0 = i := by
  refine ⟨?_, fld_eq_of_mod ?_, fld_eq_of_mod ?_, fld_eq_of_mod ?_⟩ <;> unfold wordI <;> omega

/-- An R-format instruction on D, A and B is the one that its word stands for, when its opcode decodes to it and it
encodes with that opcode. -/
theorem StandsFor.of_fieldsR {op : Nat} {m : String} {i : BitVec 5 → BitVec 5 → BitVec 5 → Instr}
    (hdec : ∀ {w : Nat}, w / 2 ^ 24 = op →
      decode w = fixedOk (decide (w % 2 ^ 9 = 0)) m (i (fld 5 w 19) (fld 5 w 14) (fld 5 w 9)))
    (henc : ∀ d a b, encode (i d a b) = some (put3 (op * 2 ^ 24) d 19 a 14 b 9)) (d a b : BitVec 5) :
    StandsFor (wordR op d.toNat a.toNat b.toNat 0) (i d a b) := by
  obtain ⟨hop, hfix, hd, ha, hb⟩ := wordR_fields_three op d a b
  refine ⟨?_, ?_⟩
  · rw [hdec hop, hd, ha, hb, fixedOk_of_true _ _ (decide_eq_true hfix)]
  · rw [henc, put3, wordR, Nat.add_zero]

/-- An I-format instruction is the one that its word stands for, when its opcode decodes to it and it encodes with that
opcode. -/
theorem StandsFor.of_fieldsI {op : Nat} {i : BitVec 5 → BitVec 5 → BitVec 14 → Instr}
    (hdec : ∀ {w : Nat}, w / 2 ^ 24 = op → decode w = .ok (i (fld 5 w 19) (fld 5 w 14) (fld 14 w 0)))
    (henc : ∀ d a n, encode (i d a n) = some (put3 (op * 2 ^ 24) d 19 a 14 n 0)) (d a : BitVec 5) (n : BitVec 14) :
    StandsFor (wordI op d.toNat a.toNat n.toNat) (i d a n) := by
  obtain ⟨hop, hd, ha, hn⟩ := wordI_fields op d a n
  refine ⟨?_, ?_⟩
  · rw [hdec hop, hd, ha, hn]
  · rw [henc, put3, wordI, Nat.pow_zero, Nat.mul_one]

theorem standsFor_rand (d : BitVec 5) : StandsFor (wordR 0x7E d.toNat 0 0 0) (.rand d) := by
  obtain ⟨hop, hfix, hd⟩ := wordR_fields_one 0x7E d
  refine ⟨?_, ?_⟩
  · rw [decode_of_opcode_rand hop, hd, fixedOk_of_true _ _ (decide_eq_true hfix)]
  · simp [encode, put1, wordR]

/-! ## Immediates (R283, R284) -/

theorem Thread.imm14_of_imx_none {t : Thread} (h : t.imx = none) (i : BitVec 14) : t.imm14 i = i.signExtend 64 := by
  simp only [Thread.imm14, h]

theorem Thread.imm14_of_imx_some {t : Thread} {x : BitVec 24} (h : t.imx = some x) (i : BitVec 14) :
    t.imm14 i = (x ++ i).signExtend 64 := by simp only [Thread.imm14, h]

theorem following_of_imx_none {s : State} (h : s.th.imx = none) : following s = s.th.pc + 4 := by
  simp only [following, Thread.at_, h]

/-- The pair of an IMX and its follower is eight bytes. -/
theorem following_of_imx_some {s : State} {x : BitVec 24} (h : s.th.imx = some x) : following s = s.th.pc + 8 := by
  simp only [following, Thread.at_, h]
  exact BitVec.add_assoc ..

/-! ## R-format and I-format operations -/

/-- An R-format operation whose registers hold no token writes its result and completes. -/
theorem completes_of_opR {s : State} {i : Instr} {d a b : BitVec 5} {f : Word → Word → Word}
    (hexec : exec i s = .next (s.opR d a b f)) (h : TokenFree s [a.toNat, b.toNat, d.toNat]) :
    Completes s i [(d.toNat, f (s.th.S a.toNat) (s.th.S b.toNat))] (following s) :=
  .of_finishS (hexec.trans (congrArg Host.Outcome.next
    (State.withRegs_of_free (reads := [a.toNat, b.toNat]) (writes := [d.toNat]) _ h)))

/-- An I-format operation whose registers hold no token takes its immediate alone, or as an IMX extends it. -/
theorem completes_of_opI {s : State} {i : Instr} {d a : BitVec 5} {n : BitVec 14} {f : Word → Word → Word}
    (hexec : exec i s = .next (s.opI d a n f)) (h : TokenFree s [a.toNat, d.toNat]) :
    (s.th.imx = none → Completes s i [(d.toNat, f (s.th.S a.toNat) (n.signExtend 64))] (s.th.pc + 4)) ∧
    (∀ x, s.th.imx = some x →
      Completes s i [(d.toNat, f (s.th.S a.toNat) ((x ++ n).signExtend 64))] (s.th.pc + 8)) := by
  have hdone : Completes s i [(d.toNat, f (s.th.S a.toNat) (s.th.imm14 n))] (following s) :=
    .of_finishS (hexec.trans (congrArg Host.Outcome.next (State.opUnary_of_free _ h)))
  refine ⟨fun himx => ?_, fun x himx => ?_⟩
  · rwa [Thread.imm14_of_imx_none himx, following_of_imx_none himx] at hdone
  · rwa [Thread.imm14_of_imx_some himx, following_of_imx_some himx] at hdone

/-! ## SUB, OR, ORI, XOR, XORI (R382, R408, R443) -/

/-- A difference of words is the difference of their numbers modulo 2^64. -/
theorem sub_eq_ofNat_mod (x y : Word) :
    x - y = BitVec.ofNat 64 ((x.toNat + 2 ^ 64 - y.toNat) % 2 ^ 64) := by bv_omega

theorem completes_sub {s : State} {d a b : BitVec 5} (h : TokenFree s [a.toNat, b.toNat, d.toNat]) :
    Completes s (.sub d a b) [(d.toNat,
      BitVec.ofNat 64 (((s.th.S a.toNat).toNat + 2 ^ 64 - (s.th.S b.toNat).toNat) % 2 ^ 64))] (following s) := by
  rw [← sub_eq_ofNat_mod]
  exact completes_of_opR rfl h

/-- R443: XORI with the immediate -1 complements its operand. -/
theorem completes_xori_not {s : State} {d a : BitVec 5} (h : TokenFree s [a.toNat, d.toNat])
    (himx : s.th.imx = none) :
    Completes s (.xori d a (-1)) [(d.toNat, ~~~(s.th.S a.toNat))] (s.th.pc + 4) := by
  have hones : (-1 : BitVec 14).signExtend 64 = BitVec.allOnes 64 := by decide
  have hxor := (completes_of_opI (i := .xori d a (-1)) (f := (· ^^^ ·)) rfl h).1 himx
  rwa [hones, BitVec.xor_allOnes] at hxor

/-- Settles O2: each word's fields read back, and each instruction as one R-format or I-format operation. -/
theorem subtractAndLogicRules : Obligations.SubtractAndLogicRules := by
  unfold Obligations.SubtractAndLogicRules
  refine ⟨⟨.of_fieldsR decode_of_opcode_sub fun _ _ _ => rfl, ?_, fun _ _ _ _ => completes_sub, rfl, rfl⟩,
    ⟨.of_fieldsR decode_of_opcode_or fun _ _ _ => rfl, ?_, .of_fieldsI decode_of_opcode_ori fun _ _ _ => rfl,
      fun _ _ _ _ => completes_of_opR rfl, fun _ _ _ _ => completes_of_opI rfl, rfl, rfl, rfl, rfl⟩,
    ⟨.of_fieldsR decode_of_opcode_xor fun _ _ _ => rfl, ?_, .of_fieldsI decode_of_opcode_xori fun _ _ _ => rfl,
      fun _ _ _ _ => completes_of_opR rfl, ?_, rfl, rfl, rfl, rfl, rfl⟩⟩
  · exact fun w hop hfix => .of_fixedOk (decode_of_opcode_sub hop) (decide_eq_false hfix)
  · exact fun w hop hfix => .of_fixedOk (decode_of_opcode_or hop) (decide_eq_false hfix)
  · exact fun w hop hfix => .of_fixedOk (decode_of_opcode_xor hop) (decide_eq_false hfix)
  · intro s d a i h
    obtain ⟨halone, hpair⟩ := completes_of_opI (i := .xori d a i) rfl h
    exact ⟨halone, hpair, completes_xori_not h⟩

/-! ## RAND (R137, R387) -/

/-- What an instruction leaves beside the dirty bits does not depend on those it began with. -/
theorem ScalarOutcome.of_dirty {s u : State} {t : Thread} {bits : BitVec 65} {ws : Tbl Word} {pc : Word}
    (h : ScalarOutcome (s.setTh { t with dirty := bits }) u ws pc) : ScalarOutcome (s.setTh t) u ws pc := by
  simp only [ScalarOutcome, State.th_setTh, State.setTh_setTh] at h ⊢
  exact h

theorem Thread.flurcnt_flurry (t : Thread) : t.flurry.2.flurcnt = t.flurcnt + 1 := rfl

/-- RAND whose destination holds no token writes the next word of the stream, and the count has gone on. -/
theorem exec_rand_of_free {s : State} {d : BitVec 5} (h : TokenFree s [d.toNat]) :
    exec (.rand d) s = .next ((s.setTh s.th.flurry.2).finishS d.toNat (flurry s.th.srseed s.th.flurcnt)) :=
  congrArg Host.Outcome.next (State.withRegs_of_free (reads := []) (writes := [d.toNat]) _ h)

theorem flurcnt_flurry_finishS (s : State) (d : Nat) (v : Word) :
    ((s.setTh s.th.flurry.2).finishS d v).th.flurcnt = s.th.flurcnt + 1 := by
  simp only [State.th_finishS, State.th_setTh, Thread.retire, Thread.retireTo_flurcnt, Thread.setS_flurcnt,
    Thread.flurcnt_flurry]

/-- R387: the word of the stream in D, the count raised, and nothing else. -/
theorem exec_rand_spec {s : State} {d : BitVec 5} (h : TokenFree s [d.toNat]) :
    ∃ t, exec (.rand d) s = .next t ∧ t.th.flurcnt = s.th.flurcnt + 1 ∧
      ScalarOutcome (s.setTh { s.th with flurcnt := s.th.flurcnt + 1 }) t
        [(d.toNat, flurry s.th.srseed s.th.flurcnt)] (following s) := by
  refine ⟨_, exec_rand_of_free h, flurcnt_flurry_finishS _ _ _, .of_dirty (bits := s.th.srDirty.dirty) ?_⟩
  have hnext : following (s.setTh s.th.flurry.2) = following s := by
    simp only [following, State.th_setTh]; rfl
  rw [← hnext]
  exact ScalarOutcome.finishS (s.setTh s.th.flurry.2) _ _

/-- A write of SRSEED restarts the count (R277). -/
theorem State.srWrite_srseed (s : State) (x : Word) :
    s.srWrite .write 0x037 x = s.setTh { s.th.srDirty with srseed := x, flurcnt := 0 } := by
  have hwrite : s.srWrite .write 0x037 x =
      (s.setTh s.th.srDirty).setTh { (s.setTh s.th.srDirty).th with srseed := x, flurcnt := 0 } := rfl
  rw [hwrite, State.th_setTh, State.setTh_setTh]

/-- A thread that completes keeps the registers that hold no token. -/
theorem TokenFree.setTh_retire {s : State} {t : Thread} {rs : List Nat} (h : ∀ r ∈ rs, t.token r = .none) :
    TokenFree (s.setTh t.retire) rs := by
  simp only [TokenFree, State.th_setTh, Thread.retire, Thread.token_retireTo, Thread.retireTo_acquired, and_true]
  exact h

/-- SRWR of SRSEED, at either level, from a register that holds no token: the key is the operand, the count restarts,
and no register gains a token. -/
theorem exec_srwr_srseed {s : State} {a : BitVec 5} (h : TokenFree s [a.toNat]) :
    ∃ t, exec (.srwr a 0x037) s = .next t ∧ t.th.srseed = s.th.S a.toNat ∧ t.th.flurcnt = 0 ∧
      ∀ rs, TokenFree s rs → TokenFree t rs := by
  have haccess : s.srAccess .write a 0x037 = (s.srWrite .write 0x037 (s.th.S a.toNat)).retire :=
    State.withRegs_of_free (reads := [a.toNat]) (writes := [])
      (fun s => (s.srWrite .write 0x037 (s.th.S a.toNat)).retire) h
  rw [State.srWrite_srseed, State.retire, State.th_setTh, State.setTh_setTh] at haccess
  refine ⟨_, congrArg Host.Outcome.next haccess, ?_, ?_, fun rs hrs => .setTh_retire hrs.1⟩
  · rw [State.th_setTh]; rfl
  · rw [State.th_setTh]; rfl

theorem flurry_zero : flurry 0 0 = 0 := by decide

/-- R387: after SRWR of SRSEED from a register of zero, RAND gives zero and the count is 1. -/
theorem exec_rand_after_srseed_zero {s : State} {a d : BitVec 5} (h : TokenFree s [a.toNat, d.toNat])
    (ha : s.th.S a.toNat = 0) :
    ∃ t, exec (.srwr a 0x037) s = .next t ∧
      ∃ u, exec (.rand d) t = .next u ∧ u.th.S d.toNat = 0 ∧ u.th.flurcnt = 1 := by
  obtain ⟨t, ht, hkey, hcnt, hfree⟩ := exec_srwr_srseed (TokenFree.left (xs := [a.toNat]) h)
  have hd : TokenFree s [d.toNat] := ⟨fun r hr => h.1 r (List.mem_cons_of_mem _ hr), h.2⟩
  obtain ⟨u, hu, hucnt, hregs, -⟩ := exec_rand_spec (hfree _ hd)
  refine ⟨t, ht, u, hu, ?_, ?_⟩
  · rw [hregs, hkey, ha, hcnt, flurry_zero]
    simp [Tbl.look?]
  · rw [hucnt, hcnt]
    rfl

/-- Settles O3: RAND as one draw of the stream that rounding and job keys draw from. -/
theorem randRule : Obligations.RandRule := by
  unfold Obligations.RandRule
  refine ⟨standsFor_rand, ?_, fun _ _ => exec_rand_spec, fun _ _ _ _ _ _ => rfl, fun _ => rfl,
    fun _ _ _ => exec_rand_after_srseed_zero, rfl, rfl⟩
  exact fun w hop hfix => .of_fixedOk (decode_of_opcode_rand hop) (decide_eq_false hfix)

end Sys2Proof.Machine
end
